-- ==== Sys2Proof/Word.lean ====
section
/-!
DEFINITION. The words of the Ralvin 9 (DMX-9400): plain names for the bit vectors the spec numbers as bits.
-/

namespace Sys2Proof

/-- One byte, the smallest addressable unit (spec 00, R1). -/
abbrev Byte := BitVec 8

/-- A 32-bit register or immediate (spec 03, R53). -/
abbrev W32 := BitVec 32

/-- A 64-bit register, pair or instruction word (spec 03, R57; spec 06, R133). -/
abbrev W64 := BitVec 64

/-- A 128-bit buffer record or quadruple (spec 03, R57, R63). -/
abbrev W128 := BitVec 128

/-- A lane mask: bit `i` is lane `i` (spec 03, R53). -/
abbrev Mask := BitVec 32

/-- A 57-bit virtual address (spec 04, R80; spec 06, R133). -/
abbrev VA := BitVec 57

/-- The word of one instruction (spec 06, R133). -/
abbrev IWord := BitVec 64

end Sys2Proof
end

