-- ==== Sys2Proof/Config.lean ====
section
/-!
DEFINITION. What the spec leaves to the hardware: free values, as constants without a body, so that no proof can use
a number for them. `State.freeCtr` indexes the free values, so that each use has its own.
-/

namespace Sys2Proof.Config

/-- A free 64-bit value for each use (log 2). -/
opaque freeWord : Nat → BitVec 64

/-- A free choice for each use; a use takes it modulo the number of its possibilities (log 2). -/
opaque freeChoice : Nat → Nat

/-- The fixed hash of a line address that picks a Frarok port (spec 13, R352; log 14). -/
opaque lineHash : Nat → Nat

/-- The fixed hash of address bits [38:12] that picks the HBM4 stack of a frame (spec 01, R14; log 14). -/
opaque stackHash : Nat → Nat

/-- One step of a primitive that microcode binds (spec 10, R298; log 11): from the digest number of the image, the
primitive's entry, the block, the values its last reads delivered and its operand fields, to the outcome: word 0
selects it, and the rest are its operands. The spec gives no microcode language, so the function stays open. -/
opaque primStep : (image entry : Nat) → (block : List (BitVec 32)) → (reads : List (BitVec 32)) →
  (fields : List Nat) → Nat × List (BitVec 32)

/-- The DDR-5 channel that holds a unit of 128 bytes: the spec gives no interleaving (spec 19, R455; log 14). -/
opaque ddrChannel : (unit : Nat) → Nat

/-- The fixed hash of address bits [38:7] that picks one of the 48 L2 slices of a die (spec 01, R14; log 14). -/
opaque sliceHash : (line : Nat) → Nat

/-- The bank, of a channel of an HBM4 stack, that holds a unit of 128 bytes, and the row in it (spec 19, R455; log 14). -/
opaque hbmBank : (unit : Nat) → Nat

opaque hbmRow : (unit : Nat) → Nat

/-- The repair rows of each HBM4 bank: the spec gives no number (spec 19, R455; log 14). -/
opaque hbmRepairRows : Nat

/-- The bytes of the context save pool that a saved thread, a saved engine and a spilled barrier entry take: the spec gives no
layout (spec 11, R314; spec 17, R402; log 10). -/
opaque saveBytes : (kind : Nat) → Nat

/-- Whether every primitive of the microcode image with this digest has the stopping points of spec 11, R315: the spec
gives no microcode language, so the answer stays open (log 11). -/
opaque stopsOk : (digest : Nat) → Bool

/-- The weight-store cycle, modulo 1,024, at which the refresh window of bank 0 of a die begins (spec 01, R16; log 12). -/
opaque refreshPhase : (die : Nat) → Nat

/-- The certificate chain of an SPDM slot, as bytes: the spec gives no certificate (spec 14, R359; log 44). -/
opaque certChain : (slot : Nat) → List (BitVec 8)

end Sys2Proof.Config
end

