-- ==== Sys2Proof/Syntax.lean ====
section
/-!
DEFINITION. The instructions of the Onak instruction set and the part's own steps and events: one constructor of
`Instr` for each row of spec/opcode_table.json. An encoded instruction carries the fields of its format (spec 06,
R134 to R149; spec 07, R162; spec 08, R191, R192; spec 09, R234, R250; spec 10, R268), typed so that a field the
encoding reserves or leaves unused has no place to stand. An event carries the data of the event.
-/

namespace Sys2Proof

/-- A 9-bit register operand (spec 03, R55): `g` general, `z` the zero register, `w` wave-uniform, `k` lane mask.
The values 296 to 511 are reserved and name nothing. -/
inductive Opnd where
  | g (n : Fin 255)
  | z
  | w (n : Fin 32)
  | k (n : Fin 8)
deriving DecidableEq, Repr

/-- The header of every word (spec 06, R134): run boundary, guard predicate, guard negate. -/
structure Hdr where
  b : Bool
  guard : Fin 8
  neg : Bool
deriving DecidableEq, Repr

/-! ### Small closed choices -/

/-- The conditions of `ICMPS` and `ICMPU` (spec 07, R174). -/
inductive Cc where | eq | ne | lt | le | gt | ge
deriving DecidableEq, Repr

/-- The conditions of `FCMP` (spec 09, R237). -/
inductive FCc where | eq | ne | lt | le | gt | ge | ord | uno
deriving DecidableEq, Repr

/-- How a comparison combines with a predicate (spec 07, R174). -/
inductive Comb where | none | and | or
deriving DecidableEq, Repr

/-- The four modes of `SHFL` (spec 07, R182). -/
inductive ShMode where | idx | rot | xor | rev
deriving DecidableEq, Repr

/-- Access widths of format M (spec 06, R142): 1, 2, 4, 8 and 16 bytes. -/
inductive Width where | b8 | b16 | b32 | b64 | b128
deriving DecidableEq, Repr

/-- Cache policies of format M (spec 06, R142). -/
inductive Cache where | normal | l2only | evfirst
deriving DecidableEq, Repr

/-- Scopes (spec 04, R105). -/
inductive Scope where | thr | wave | grp | gang | core | dev | dom | sys
deriving DecidableEq, Repr

/-- Orders of an atomic (spec 06, R143). -/
inductive Order where | relaxed | acq | rel | ar
deriving DecidableEq, Repr

/-- Integer atomic operations (spec 08, R200). -/
inductive AtomOp where | add | and | or | xor | mins | minu | maxs | maxu | exch | incw | decw
deriving DecidableEq, Repr

/-- Floating-point atomic operations (spec 08, R201). -/
inductive AtomfOp where | add | min | max | add2
deriving DecidableEq, Repr

/-- Collective operations (spec 08, R218). -/
inductive CollOp where | sum | max | bcast | min
deriving DecidableEq, Repr

/-- Operations of `WRED` with their type (spec 09, R245): the ten integer and float forms. -/
inductive RedOp where
  | add | mins | minu | maxs | maxu | and | or | xor | fadd | fmin | fmax
deriving DecidableEq, Repr

/-- Floating-point operand types of format A (spec 06, R139). -/
inductive FTy where | f32 | f16 | bf16 | e4m3 | e5m2
deriving DecidableEq, Repr

/-- Packed element types (spec 09, R243). -/
inductive HTy where | f16 | bf16
deriving DecidableEq, Repr

/-- Rounding modes (spec 05, R120; spec 03, R69). -/
inductive Rnd where | rne | rtz | rdn | rup
deriving DecidableEq, Repr

/-- Depth functions (spec 10, R268). -/
inductive DepthFn where | lt | le | al | gt
deriving DecidableEq, Repr

/-- Register count of `ACCRD` and `ACCWR` (spec 09, R250): 1, 2 or 4. -/
inductive AccN where | x1 | x2 | x4
deriving DecidableEq, Repr

/-! ### Shapes of format A and I (spec 07, R162; spec 09, R234) -/

/-- `D, S1` with the two integer widths. -/
structure A1 where
  h : Hdr
  wide : Bool
  d : Opnd
  s1 : Opnd
deriving DecidableEq, Repr

/-- `D, S1, S2` with the two integer widths. -/
structure A2 where
  h : Hdr
  wide : Bool
  d : Opnd
  s1 : Opnd
  s2 : Opnd
deriving DecidableEq, Repr

/-- `D, S1, S2` and a carry or borrow out to predicate `co`. -/
structure A2c where
  h : Hdr
  wide : Bool
  d : Opnd
  co : Fin 8
  s1 : Opnd
  s2 : Opnd
deriving DecidableEq, Repr

/-- `D, S1, S2`, a carry or borrow in from `ci` and one out to `co`. -/
structure A2cc where
  h : Hdr
  wide : Bool
  d : Opnd
  co : Fin 8
  ci : Fin 8
  s1 : Opnd
  s2 : Opnd
deriving DecidableEq, Repr

/-- `D, S1, S2, S3` with the two integer widths. -/
structure A3 where
  h : Hdr
  wide : Bool
  d : Opnd
  s1 : Opnd
  s2 : Opnd
  s3 : Opnd
deriving DecidableEq, Repr

/-- `LOP3`: three sources and an 8-bit table. -/
structure A3t where
  h : Hdr
  wide : Bool
  d : Opnd
  s1 : Opnd
  s2 : Opnd
  s3 : Opnd
  table : Fin 256
deriving DecidableEq, Repr

/-- `D, S1` of one width. -/
structure B1 where
  h : Hdr
  d : Opnd
  s1 : Opnd
deriving DecidableEq, Repr

/-- `D, S1, S2` of one width. -/
structure B2 where
  h : Hdr
  d : Opnd
  s1 : Opnd
  s2 : Opnd
deriving DecidableEq, Repr

/-- `D, S1, S2, S3` of one width. -/
structure B3 where
  h : Hdr
  d : Opnd
  s1 : Opnd
  s2 : Opnd
  s3 : Opnd
deriving DecidableEq, Repr

/-- `LEA`: 64-bit base, 32-bit index, shift 0 to 15, sign or zero extension. -/
structure LeaArgs where
  h : Hdr
  sx : Bool
  sh : Fin 16
  d : Opnd
  s1 : Opnd
  s2 : Opnd
deriving DecidableEq, Repr

/-- `IDIVS`, `IDIVU`: quotient or remainder. -/
structure DivArgs where
  h : Hdr
  wide : Bool
  rem : Bool
  d : Opnd
  s1 : Opnd
  s2 : Opnd
deriving DecidableEq, Repr

/-- `SEL`: selector predicate `ps`, inverted by `neg`. -/
structure SelArgs where
  h : Hdr
  wide : Bool
  neg : Bool
  ps : Fin 8
  d : Opnd
  s1 : Opnd
  s2 : Opnd
deriving DecidableEq, Repr

/-- `ICMPS`, `ICMPU`. Without a combination `pm` must be 0 (spec 07, R174). -/
structure IcmpArgs where
  h : Hdr
  wide : Bool
  cc : Cc
  comb : Comb
  pd : Fin 8
  pm : Fin 8
  d : Opnd
  s1 : Opnd
  s2 : Opnd
deriving DecidableEq, Repr

/-- `FCMP`. -/
structure FcmpArgs where
  h : Hdr
  cc : FCc
  comb : Comb
  pd : Fin 8
  pm : Fin 8
  d : Opnd
  s1 : Opnd
  s2 : Opnd
deriving DecidableEq, Repr

/-- `PLOP`: three predicates and an 8-bit table. -/
structure PlopArgs where
  h : Hdr
  table : Fin 256
  pd : Fin 8
  pa : Fin 8
  pb : Fin 8
  pc : Fin 8
deriving DecidableEq, Repr

/-- `KBALLOT`: mask operand `m`, predicate `ps`, inverted by `neg`. -/
structure BallotArgs where
  h : Hdr
  neg : Bool
  ps : Fin 8
  d : Opnd
  m : Opnd
deriving DecidableEq, Repr

/-- `KPOPC` (`flag` is `.lt`) and `KFIND` (`flag` is `.hi`). -/
structure KcntArgs where
  h : Hdr
  flag : Bool
  d : Opnd
  m : Opnd
deriving DecidableEq, Repr

/-- `KLOP`: three masks, an 8-bit table, a mask destination. -/
structure KlopArgs where
  h : Hdr
  table : Fin 256
  d : Opnd
  ma : Opnd
  mb : Opnd
  mc : Opnd
deriving DecidableEq, Repr

/-- `SHFL`. -/
structure ShflArgs where
  h : Hdr
  wide : Bool
  mode : ShMode
  pd : Fin 8
  d : Opnd
  s1 : Opnd
  s2 : Opnd
  m : Opnd
deriving DecidableEq, Repr

/-- The header alone: `NOP`, `REFORM`, `YIELD`, `EXIT` and every operand-free form. -/
structure H0 where
  h : Hdr
deriving DecidableEq, Repr

/-- `D, IMM` (`MOVI`). -/
structure MoviArgs where
  h : Hdr
  wide : Bool
  d : Opnd
  imm : W32
deriving DecidableEq, Repr

/-- `D, IMM` of one width (`MOVHI`, `KSET`). -/
structure ImmArgs where
  h : Hdr
  d : Opnd
  imm : W32
deriving DecidableEq, Repr

/-- `D, S1, IMM`. -/
structure A1i where
  h : Hdr
  wide : Bool
  d : Opnd
  s1 : Opnd
  imm : W32
deriving DecidableEq, Repr

/-- `D, S1, shift`: IMM[4:0], or IMM[5:0] in the 64-bit form (spec 06, R140). -/
structure ShiArgs where
  h : Hdr
  wide : Bool
  d : Opnd
  s1 : Opnd
  sh : Fin 64
deriving DecidableEq, Repr

/-- `SRRD`. -/
structure SrrdArgs where
  h : Hdr
  wide : Bool
  d : Opnd
  idx : Fin 1024
deriving DecidableEq, Repr

/-- `SRWR`. -/
structure SrwrArgs where
  h : Hdr
  wide : Bool
  s1 : Opnd
  idx : Fin 1024
deriving DecidableEq, Repr

/-- `TRAP`, `BKPT`: any 32-bit immediate. -/
structure TrapArgs where
  h : Hdr
  imm : W32
deriving DecidableEq, Repr

/-! ### Format B (spec 06, R144) -/

/-- `BRA`. -/
structure BraArgs where
  h : Hdr
  off : W32
deriving DecidableEq, Repr

/-- `BRX`: register pair `t`. -/
structure BrxArgs where
  h : Hdr
  t : Opnd
deriving DecidableEq, Repr

/-- `CALL`: link pair, or `z` to push. -/
structure CallArgs where
  h : Hdr
  link : Opnd
  off : W32
deriving DecidableEq, Repr

/-- `CALLX`. -/
structure CallxArgs where
  h : Hdr
  link : Opnd
  t : Opnd
deriving DecidableEq, Repr

/-! ### Format M (spec 06, R141 to R143; spec 08, R191) -/

/-- The memory operand `bN[gI+off]` with its stream. -/
structure MemOp where
  ix : Opnd
  brec : Fin 16
  off : BitVec 16
  str : Fin 16
deriving DecidableEq, Repr

/-- The memory operand of an atomic: the offset is 8 bits. -/
structure MemOp8 where
  ix : Opnd
  brec : Fin 16
  off : BitVec 8
  str : Fin 16
deriving DecidableEq, Repr

/-- `LD`, `LDW`. `sx` only with the widths of 1 and 2 bytes. -/
structure LdArgs where
  h : Hdr
  sx : Bool
  width : Width
  cache : Cache
  d : Opnd
  m : MemOp
deriving DecidableEq, Repr

/-- `ST`. -/
structure StArgs where
  h : Hdr
  width : Width
  cache : Cache
  data : Opnd
  m : MemOp
deriving DecidableEq, Repr

/-- `LDS`. -/
structure LdsArgs where
  h : Hdr
  sx : Bool
  width : Width
  d : Opnd
  m : MemOp
deriving DecidableEq, Repr

/-- `STS`, and `LDWS` (whose widths are 4, 8 and 16 bytes). -/
structure StsArgs where
  h : Hdr
  width : Width
  d : Opnd
  m : MemOp
deriving DecidableEq, Repr

/-- `ATOM`: `nr` returns nothing; `wide` is 8 bytes. -/
structure AtomArgs where
  h : Hdr
  nr : Bool
  wide : Bool
  op : AtomOp
  d : Opnd
  m : MemOp8
  scope : Scope
  order : Order
deriving DecidableEq, Repr

/-- `ATOMS`. -/
structure AtomsArgs where
  h : Hdr
  wide : Bool
  op : AtomOp
  d : Opnd
  m : MemOp8
  scope : Scope
  order : Order
deriving DecidableEq, Repr

/-- `ATOMF`. -/
structure AtomfArgs where
  h : Hdr
  nr : Bool
  op : AtomfOp
  d : Opnd
  m : MemOp8
  scope : Scope
  order : Order
deriving DecidableEq, Repr

/-- `CAS`, `CASS`. -/
structure CasArgs where
  h : Hdr
  d : Opnd
  m : MemOp8
  scope : Scope
  order : Order
deriving DecidableEq, Repr

/-- `BRLD`. -/
structure BrldArgs where
  h : Hdr
  target : Fin 16
  cache : Cache
  m : MemOp
deriving DecidableEq, Repr

/-- `BRSET`. -/
structure BrsetArgs where
  h : Hdr
  target : Fin 16
  q : Opnd
deriving DecidableEq, Repr

/-- `WAITEQ`. -/
structure WaiteqArgs where
  h : Hdr
  ne : Bool
  acq : Bool
  scr : Bool
  wide : Bool
  d : Opnd
  m : MemOp
deriving DecidableEq, Repr

/-! ### Formats S and W (spec 06, R145, R146; spec 08, R192) -/

/-- `ACQ`, `REL`. -/
structure SyncArgs where
  h : Hdr
  wide : Bool
  scr : Bool
  d : Opnd
  ix : Opnd
  brec : Fin 16
  scope : Scope
  smask : BitVec 16
  paths : BitVec 5
deriving DecidableEq, Repr

/-- `FENCE`. -/
structure FenceArgs where
  h : Hdr
  smask : BitVec 16
deriving DecidableEq, Repr

/-- `FENCEX`. -/
structure FencexArgs where
  h : Hdr
  smask : BitVec 16
  paths : BitVec 5
deriving DecidableEq, Repr

/-- `BAR`. -/
structure BarArgs where
  h : Hdr
  ph : Bool
  cnt : Opnd
  id : Fin 16
deriving DecidableEq, Repr

/-- `BARX`. -/
structure BarxArgs where
  h : Hdr
  ph : Bool
  cnt : Opnd
  id : Fin 16
  paths : BitVec 5
deriving DecidableEq, Repr

/-- `WAITC`: the four counts that may remain. -/
structure WaitcArgs where
  h : Hdr
  nld : Fin 64
  nst : Fin 64
  ncp : Fin 64
  ntl : Fin 64
deriving DecidableEq, Repr

/-- `SRACQ`, `SRWAIT`. -/
structure RingGetArgs where
  h : Hdr
  d : Opnd
  a : Opnd
  paths : BitVec 5
deriving DecidableEq, Repr

/-- `SRCOMMIT`, `SRFREE`. -/
structure RingPutArgs where
  h : Hdr
  a : Opnd
  paths : BitVec 5
deriving DecidableEq, Repr

/-- `COLL`: `dom` is the domain scope, else the device scope. -/
structure CollArgs where
  h : Hdr
  op : CollOp
  dom : Bool
  buf : Opnd
  ctl : Opnd
  set : Fin 64
deriving DecidableEq, Repr

/-- Two operands OPA and OPB of formats S and Y. -/
structure Ab where
  h : Hdr
  a : Opnd
  b : Opnd
deriving DecidableEq, Repr

/-- One operand OPA of formats S and Y. -/
structure Ax where
  h : Hdr
  a : Opnd
deriving DecidableEq, Repr

/-- `GCALL`. -/
structure GcallArgs where
  h : Hdr
  cnt : Opnd
  gate : Fin 64
deriving DecidableEq, Repr

/-! ### Format A of the vector block (spec 09, R234) -/

/-- `FCLASS`. -/
structure FclassArgs where
  h : Hdr
  ty : FTy
  d : Opnd
  s1 : Opnd
deriving DecidableEq, Repr

/-- `FRND`. -/
structure FrndArgs where
  h : Hdr
  mode : Rnd
  d : Opnd
  s1 : Opnd
deriving DecidableEq, Repr

/-- `CVTF`, `CVTFI`, `CVTIF`. -/
structure CvtArgs where
  h : Hdr
  slot : Fin 8
  d : Opnd
  s1 : Opnd
deriving DecidableEq, Repr

/-- `PACK2`. -/
structure Pack2Args where
  h : Hdr
  slot : Fin 8
  hi : Bool
  d : Opnd
  s1 : Opnd
  s2 : Opnd
  s3 : Opnd
deriving DecidableEq, Repr

/-- `UNPK2`. -/
structure Unpk2Args where
  h : Hdr
  slot : Fin 8
  hi : Bool
  d : Opnd
  s1 : Opnd
deriving DecidableEq, Repr

/-- `HADD2`, `HMUL2`. -/
structure Half2Args where
  h : Hdr
  ty : HTy
  d : Opnd
  s1 : Opnd
  s2 : Opnd
deriving DecidableEq, Repr

/-- `HFMA2`. -/
structure Half3Args where
  h : Hdr
  ty : HTy
  d : Opnd
  s1 : Opnd
  s2 : Opnd
  s3 : Opnd
deriving DecidableEq, Repr

/-- `IDP4`: signedness of the two sources. -/
structure Idp4Args where
  h : Hdr
  sa : Bool
  sb : Bool
  d : Opnd
  s1 : Opnd
  s2 : Opnd
  s3 : Opnd
deriving DecidableEq, Repr

/-- `WRED`. -/
structure WredArgs where
  h : Hdr
  op : RedOp
  scan : Bool
  d : Opnd
  s1 : Opnd
  m : Opnd
deriving DecidableEq, Repr

/-- The sources of an attribute plane: triple, position pair and, with `.persp`, a second triple. -/
structure PlaneArgs where
  h : Hdr
  d : Opnd
  s1 : Opnd
  s2 : Opnd
  persp : Option Opnd
deriving DecidableEq, Repr

/-- The quad form of a derivative. -/
structure QuadArgs where
  h : Hdr
  fine : Bool
  d : Opnd
  s1 : Opnd
deriving DecidableEq, Repr

/-- `DERIVX`, `DERIVY`: the plane form or the quad form. -/
inductive DerivArgs where
  | plane (a : PlaneArgs)
  | quad (a : QuadArgs)
deriving DecidableEq, Repr

/-! ### Format X (spec 09, R250) -/

/-- `LDSTAT`, `LDSTATW`. `sc` is the scale operand as encoded: `g 0` where the slot has no scales. -/
structure LdstatArgs where
  h : Hdr
  slot : Fin 8
  brec : Fin 16
  ix : Opnd
  sc : Opnd
  str : Fin 16
deriving DecidableEq, Repr

/-- `MSTREAM`, `MSTREAMS`. -/
structure MstreamArgs where
  h : Hdr
  z : Bool
  acc : Fin 16
  slot : Fin 8
  brec : Fin 16
  ix : Opnd
  gp : Opnd
  sc : Opnd
  str : Fin 16
deriving DecidableEq, Repr

/-- `MSTREAMC`. -/
structure MstreamcArgs where
  h : Hdr
  acc : Fin 16
  slot : Fin 8
  brec : Fin 16
  ix : Opnd
  gp : Opnd
  sc : Opnd
  str : Fin 16
deriving DecidableEq, Repr

/-- `MCKV`: tile and result quadruple. -/
structure MckvArgs where
  h : Hdr
  acc : Fin 16
  d : Opnd
deriving DecidableEq, Repr

/-- `ACCZ`. -/
structure AcczArgs where
  h : Hdr
  acc : Fin 16
deriving DecidableEq, Repr

/-- `ACCRD`, `ACCWR`. -/
structure AccrwArgs where
  h : Hdr
  n : AccN
  acc : Fin 16
  ix : Opnd
  d : Opnd
deriving DecidableEq, Repr

/-- `ACCLD`. -/
structure AccldArgs where
  h : Hdr
  scr : Bool
  acc : Fin 16
  brec : Fin 16
  ix : Opnd
  str : Fin 16
deriving DecidableEq, Repr

/-- `ACCST`. -/
structure AccstArgs where
  h : Hdr
  scr : Bool
  acc : Fin 16
  slot : Fin 8
  brec : Fin 16
  ix : Opnd
  str : Fin 16
deriving DecidableEq, Repr

/-- `ACCSCL.row`. -/
structure AccsclRowArgs where
  h : Hdr
  acc : Fin 16
  slot : Fin 8
  sc : Opnd
deriving DecidableEq, Repr

/-- `ACCSCL.col`. -/
structure AccsclColArgs where
  h : Hdr
  acc : Fin 16
  slot : Fin 8
  brec : Fin 16
  ix : Opnd
  str : Fin 16
deriving DecidableEq, Repr

/-- `ACCRED.sum`, `ACCRED.max`. -/
structure AccredArgs where
  h : Hdr
  acc : Fin 16
  slot : Fin 8
  d : Opnd
deriving DecidableEq, Repr

/-- `ACCRED.tile`. -/
structure AccredTileArgs where
  h : Hdr
  acc : Fin 16
  slot : Fin 8
  src : Fin 16
deriving DecidableEq, Repr

/-- `MDLD`. -/
structure MdldArgs where
  h : Hdr
  brec : Fin 16
  ix : Opnd
  str : Fin 16
deriving DecidableEq, Repr

/-! ### Format G (spec 06, R148; spec 08, R192; spec 10, R268) -/

/-- `COPY`. -/
structure CopyArgs where
  h : Hdr
  sb : Opnd
  ra : Fin 16
  rb : Fin 16
  tok : Opnd
  ss : Bool
  sd : Bool
  str : Fin 16
deriving DecidableEq, Repr

/-- `COPYW`. -/
structure CopywArgs where
  h : Hdr
  sb : Opnd
  ra : Fin 16
  rb : Fin 16
  tok : Opnd
  ss : Bool
  str : Fin 16
deriving DecidableEq, Repr

/-- `PREF`. -/
structure PrefArgs where
  h : Hdr
  ix : Opnd
  brec : Fin 16
  l1 : Bool
deriving DecidableEq, Repr

/-- `RASTRI`. -/
structure RastriArgs where
  h : Hdr
  sb : Opnd
  ra : Fin 16
  rb : Fin 16
  tri : Opnd
  df : DepthFn
  cull : Bool
  str : Fin 16
deriving DecidableEq, Repr

/-- `TRAVERSE`. -/
structure TraverseArgs where
  h : Hdr
  sb : Opnd
  ra : Fin 16
  rb : Fin 16
  gather : Bool
  str : Fin 16
deriving DecidableEq, Repr

/-- `FILTER`. -/
structure FilterArgs where
  h : Hdr
  sb : Opnd
  ra : Fin 16
  lod : Bool
  str : Fin 16
deriving DecidableEq, Repr

/-- `OBLEND`: `zsrc` is OPX as encoded, `g 0` where no depth is named. -/
structure OblendArgs where
  h : Hdr
  sb : Opnd
  ra : Fin 16
  rb : Fin 16
  zsrc : Opnd
  df : DepthFn
  str : Fin 16
deriving DecidableEq, Repr

/-- A block and one record: `SHADEQ`, `GQPUSH`, `GQPOP`. -/
structure BlkRecArgs where
  h : Hdr
  sb : Opnd
  ra : Fin 16
  str : Fin 16
deriving DecidableEq, Repr

/-- `HITSORT`. -/
structure HitsortArgs where
  h : Hdr
  sb : Opnd
deriving DecidableEq, Repr

/-- `ANYHIT` `.next`, `.acc` and `.term`: block, candidate record RECB, operand OPX. -/
structure AnyhitArgs where
  h : Hdr
  sb : Opnd
  rb : Fin 16
  x : Opnd
  str : Fin 16
deriving DecidableEq, Repr

/-- `ANYHIT.commit`. -/
structure AnyhitCommitArgs where
  h : Hdr
  sb : Opnd
  rb : Fin 16
  str : Fin 16
deriving DecidableEq, Repr

/-- `HIZQ`. -/
structure HizqArgs where
  h : Hdr
  sb : Opnd
  ra : Fin 16
  df : DepthFn
  str : Fin 16
deriving DecidableEq, Repr

/-- `MACRO`: primitive number `entry`. -/
structure MacroArgs where
  h : Hdr
  sb : Opnd
  ra : Fin 16
  rb : Fin 16
  rc : Fin 16
  x : Opnd
  entry : Fin 256
  gmod : Fin 16
  str : Fin 16
deriving DecidableEq, Repr

/-- `bop.N`: opcode 0xE0 + N. -/
structure BopArgs where
  h : Hdr
  n : Fin 16
  sb : Opnd
  ra : Fin 16
  rb : Fin 16
  rc : Fin 16
  x : Opnd
  gmod : Fin 16
  str : Fin 16
deriving DecidableEq, Repr

/-! ### Format Y (spec 06, R149) -/

/-- `SRWRP` (spec 03, R78): SRIDX is any 10-bit value. -/
structure SrwrpArgs where
  h : Hdr
  wide : Bool
  a : Opnd
  idx : Fin 1024
deriving DecidableEq, Repr

/-! ### Data of the part's own steps and events -/

/-- What a member of a collective set on another device sends (spec 08, R218; spec 18, R415): its header, whose
fields are compared with rank 0's, and its buffer. -/
structure CollMember where
  rank : Nat
  op : Nat
  count : Nat
  ty : Nat
  seq : Nat
  data : List Byte
deriving DecidableEq, Repr

/-- Where the work-queue engine reads a packet (spec 11, R300; spec 13, R345; spec 14, R361): queue `q` of function
`func`, the oldest packet that a peer sent, or the management queue of the Barista core with the packet's eight
words, the record's thirty-two words and the values of its bound records, all read by the Barista core itself. -/
inductive PktSrc where
  | queue (func q : Nat)
  | peer
  | mgmt (packet record : List W64) (binds : List W128)
deriving DecidableEq, Repr

/-- What a host sends (spec 13, R338, R340): an RDMA request, or the answer to one of the device's. -/
inductive RdmaReq where
  | write (rkey : Nat) (va : Nat) (data : List Byte)
  | read (rkey : Nat) (va : Nat) (len : Nat)
  | other (opcode : Nat)
  /-- an acknowledgement, or the last response of a READ: every packet up to `psn` -/
  | ack (psn : Nat)
  /-- a NAK of packet `psn`: out of sequence, or the request is refused -/
  | nak (psn : Nat) (refused : Bool)
deriving DecidableEq, Repr

/-- An arriving Ethernet frame (spec 13, R339): port, destination MAC, VLAN identifier, QP, the PSN of a request's first packet,
and the request it carries. -/
structure Frame where
  port : Nat
  mac : Nat
  vlan : Option Nat
  qpn : Nat
  psn : Nat
  req : RdmaReq
deriving DecidableEq, Repr

/-- A remote access that arrives over Frarok (spec 13, R352): at physical address `pa` of this device. -/
inductive DomReq where
  | load (pa len : Nat)
  | store (pa : Nat) (data : List Byte)
  | atom (pa : Nat) (wide : Bool) (op : AtomOp) (v : W64)
  | atomf (pa : Nat) (op : AtomfOp) (v : W32)
  | cas (pa : Nat) (cmp new : W32)
deriving DecidableEq, Repr

/-- What a check corrects (spec 19, R443, R455): a register read again, a result issued again, scratchpad or the engine, an
L2 way of a die, a unit of HBM4, DDR-5, or a weight-store bank read on the fly. -/
inductive FixSite where
  | register
  | datapath
  | scratch
  | l1 (core : Nat)
  | bridge
  | l2 (die unit way : Nat)
  | hbm (unit : Nat)
  | ddr
  | ws (die bank : Nat)
deriving DecidableEq, Repr

/-- Where a check fails (spec 19, R428, R429, R443, R448): an uncorrectable error in a structure; an access by group `gid` that
finds the structure tagged with another domain; a datapath result that fails again on replay; two errors in one core cycle; a
control difference of twins, or one in the next record of a wave's twin; a die bridge at its replay limit; an error that is
corrected. `acc` is found as a tile is used, `accScrub` by scrub. -/
inductive UeSite where
  | regRow (tid : Nat)
  | scratch (gid line : Nat)
  | acc (core tile : Nat)
  | accScrub (core tile : Nat)
  | plane (core : Nat)
  | l1Dirty (core unit : Nat)
  | l2Dirty (die unit : Nat)
  | l2Clean (die unit : Nat)
  | tlb (index : Nat)
  | queueState (lid : Nat)
  | copyBox (core key : Nat)
  | barrier (gid id : Nat)
  | waveEntry (wave : Nat)
  | phaseRec (gid : Nat)
  | saved (gid : Nat)
  | tagged (gid : Nat) (site : UeSite)
  | datapath (gid : Nat)
  | both (a b : UeSite)
  | twin (wave : Nat)
  | twinRecord (wave : Nat)
  | bridge
  | fixed (site : FixSite)
  | wsUnit (unit : Nat)
  | hbm (unit : Nat)
  | ddr (unit : Nat)
  | icache (core : Nat)
  | ucode (core : Nat)
deriving DecidableEq, Repr

/-- What power-on finds (spec 14, R356, R357; spec 01, R15). Each image's bytes end with its 384-byte public key and
its 384-byte signature; REVTO and SVNTO of the Barista firmware image stand beside it, because the spec gives no
offset for them. -/
structure BootInputs where
  barista : List Byte
  revto : Nat
  svnto : Nat
  config : List Byte
  hub : List Byte
  training : List Byte
  microcode : List Byte
  /-- modules of each of the 16 DDR-5 channels, as sizes in GiB -/
  dimms : List (List Nat)
  /-- the eight words the Barista core writes into function table entry 0 -/
  pfEntry : List W64
  /-- the PF system software images that come through the PF once boot is done, with the measurement register, MR6 or MR7 -/
  pf : List (Bool × List Byte)
deriving DecidableEq, Repr

/-- The instructions and events of spec/opcode_table.json, in the table's order. -/
inductive Instr where
  | nop (a : H0)
  | mov (a : A1)
  | movi (a : MoviArgs)
  | movhi (a : ImmArgs)
  | iadd (a : A2c)
  | iaddi (a : A1i)
  | iaddc (a : A2cc)
  | isub (a : A2c)
  | isubb (a : A2cc)
  | imul (a : A2)
  | imulhs (a : A2)
  | imulhu (a : A2)
  | imulws (a : B2)
  | imulwu (a : B2)
  | imad (a : A3)
  | lea (a : LeaArgs)
  | idivs (a : DivArgs)
  | idivu (a : DivArgs)
  | imins (a : A2)
  | iminu (a : A2)
  | imaxs (a : A2)
  | imaxu (a : A2)
  | iabs (a : A1)
  | and (a : A2)
  | andi (a : A1i)
  | or (a : A2)
  | ori (a : A1i)
  | xor (a : A2)
  | xori (a : A1i)
  | andn (a : A2)
  | lop3 (a : A3t)
  | shl (a : A2)
  | shr (a : A2)
  | sar (a : A2)
  | shli (a : ShiArgs)
  | shri (a : ShiArgs)
  | sari (a : ShiArgs)
  | rotl (a : A2)
  | popc (a : A1)
  | clz (a : A1)
  | brev (a : A1)
  | bfxs (a : A2)
  | bfxu (a : A2)
  | bfi (a : A3)
  | prmt (a : B3)
  | sel (a : SelArgs)
  | icmps (a : IcmpArgs)
  | icmpu (a : IcmpArgs)
  | plop (a : PlopArgs)
  | kballot (a : BallotArgs)
  | kpopc (a : KcntArgs)
  | kfind (a : KcntArgs)
  | klop (a : KlopArgs)
  | kset (a : ImmArgs)
  | wmov (a : A1)
  | shfl (a : ShflArgs)
  | srrd (a : SrrdArgs)
  | srwr (a : SrwrArgs)
  | bra (a : BraArgs)
  | brx (a : BrxArgs)
  | call (a : CallArgs)
  | callx (a : CallxArgs)
  | ret (a : H0)
  | reform (a : H0)
  | yield (a : H0)
  | exit (a : H0)
  | trap (a : TrapArgs)
  | bkpt (a : TrapArgs)
  /-- a word that is not well formed, with the cause it raises (spec 17, R388, R400) -/
  | unassignedOpcode (word : IWord) (code : Fin 16)
  | ld (a : LdArgs)
  | st (a : StArgs)
  | lds (a : LdsArgs)
  | sts (a : StsArgs)
  | ldw (a : LdArgs)
  | ldws (a : StsArgs)
  | atom (a : AtomArgs)
  | atoms (a : AtomsArgs)
  | atomf (a : AtomfArgs)
  | cas (a : CasArgs)
  | cass (a : CasArgs)
  | acq (a : SyncArgs)
  | rel (a : SyncArgs)
  | brld (a : BrldArgs)
  | brset (a : BrsetArgs)
  | fence (a : FenceArgs)
  | fencex (a : FencexArgs)
  | bar (a : BarArgs)
  | barx (a : BarxArgs)
  | waitc (a : WaitcArgs)
  | waitcSatisfied (wave frag : Nat)
  | waiteq (a : WaiteqArgs)
  | waiteqSatisfied (wave frag : Nat)
  | copy (a : CopyArgs)
  | copyw (a : CopywArgs)
  | copyBox (core : Nat)
  | pref (a : PrefArgs)
  | sracq (a : RingGetArgs)
  | srcommit (a : RingPutArgs)
  | srwait (a : RingGetArgs)
  | srfree (a : RingPutArgs)
  | ringWaitSatisfied (wave frag : Nat)
  | coll (a : CollArgs)
  | collComplete (func set : Nat) (others : List CollMember)
  | collHeaderTimeout (func set : Nat)
  | allot (a : H0)
  | allotGrant (gid : Nat)
  | allotSpill (core : Nat)
  | allotrel (a : H0)
  | fork (a : Ab)
  | sync (a : H0)
  | phend (a : H0)
  | tsinit (a : Ab)
  | tsrel (a : H0)
  | depinit (a : Ab)
  | depinitSelf (a : Ab)
  | depdec (a : Ax)
  | tqpost (a : Ab)
  | gcall (a : GcallArgs)
  | gateFrameFree (gid : Nat)
  | gret (a : H0)
  | nopre (a : H0)
  | preon (a : H0)
  | regionLimitExpiry (gid : Nat)
  | fadd (a : B2)
  | fsub (a : B2)
  | fmul (a : B2)
  | ffma (a : B3)
  | fmin (a : B2)
  | fmax (a : B2)
  | fcmp (a : FcmpArgs)
  | frcp (a : B1)
  | frsq (a : B1)
  | fsqrt (a : B1)
  | fdiv (a : B2)
  | fexp2 (a : B1)
  | flog2 (a : B1)
  | fsin (a : B1)
  | fcos (a : B1)
  | fclass (a : FclassArgs)
  | frnd (a : FrndArgs)
  | fldexp (a : B2)
  | cvtf (a : CvtArgs)
  | cvtfi (a : CvtArgs)
  | cvtif (a : CvtArgs)
  | pack2 (a : Pack2Args)
  | unpk2 (a : Unpk2Args)
  | hadd2 (a : Half2Args)
  | hmul2 (a : Half2Args)
  | hfma2 (a : Half3Args)
  | idp4 (a : Idp4Args)
  | wred (a : WredArgs)
  | derivx (a : DerivArgs)
  | derivy (a : DerivArgs)
  | interp (a : PlaneArgs)
  | ldstat (a : LdstatArgs)
  | ldstatw (a : LdstatArgs)
  | swappl (a : H0)
  | mstream (a : MstreamArgs)
  | mstreams (a : MstreamArgs)
  | mstreamc (a : MstreamcArgs)
  | matrixRow (wave frag : Nat)
  | mckvChk (a : MckvArgs)
  | mckvFix (a : MckvArgs)
  | mckvBase (a : MckvArgs)
  | accz (a : AcczArgs)
  | acczAll (a : AcczArgs)
  | accrd (a : AccrwArgs)
  | accwr (a : AccrwArgs)
  | accld (a : AccldArgs)
  | accst (a : AccstArgs)
  | accsclRow (a : AccsclRowArgs)
  | accsclCol (a : AccsclColArgs)
  | accredSum (a : AccredArgs)
  | accredMax (a : AccredArgs)
  | accredTile (a : AccredTileArgs)
  | mdld (a : MdldArgs)
  | rastri (a : RastriArgs)
  | traverse (a : TraverseArgs)
  | filter (a : FilterArgs)
  | oblend (a : OblendArgs)
  | shadeq (a : BlkRecArgs)
  | hitsort (a : HitsortArgs)
  | anyhitNext (a : AnyhitArgs)
  | anyhitAcc (a : AnyhitArgs)
  | anyhitTerm (a : AnyhitArgs)
  | anyhitCommit (a : AnyhitCommitArgs)
  | gqpush (a : BlkRecArgs)
  | gqpushClose (a : BlkRecArgs)
  | gqpop (a : BlkRecArgs)
  | hizq (a : HizqArgs)
  | macroPrim (a : MacroArgs)
  | bop (a : BopArgs)
  | sequencerStep (wave frag lane : Nat)
  | macroWaitSatisfied (wave frag lane : Nat)
  | bucketAgeRelease (core bucket : Nat)
  | pourRingPass (core bucket : Nat)
  | eretRetry (a : H0)
  | eretSkip (a : H0)
  | eretExit (a : H0)
  | eretExitall (a : H0)
  | srwrp (a : SrwrpArgs)
  | tlbinvPage (a : Ab)
  | tlbinvPasid (a : Ax)
  | tlbinvIpa (a : Ab)
  | tlbinvFunc (a : Ax)
  | tlbinvDom (a : Ax)
  | tlbinvAll (a : H0)
  | tlbinvComplete (wave frag : Nat)
  | domsetEnd (a : Ax)
  | domsetStat (a : Ab)
  | finjAcc (a : Ax)
  | finjAccue (a : Ax)
  | finjSpue (a : Ax)
  | finjLineue (a : Ax)
  | finjReplay (a : H0)
  | finjSig (a : H0)
  | mcload (a : Ab)
  | mcloadDone (wave frag : Nat)
  | sigcmpCmp (a : Ab)
  | sigcmpRd (a : Ax)
  | halt (a : H0)
  | asyncCauseEntry (wave : Nat)
  /-- `remote` holds the data a domain or host load returns, one value for each lane (spec 13, R348, R352) -/
  | memoryResponse (key : Nat) (remote : List W128) (mark : Option (Fin 16))
  | binAgeRelease (core bin : Nat)
  | packetAccept (src : PktSrc)
  | gangAdmission (gang : Nat)
  | phaseAdmission (gang : Nat)
  | admissionThrottle (core : Nat)
  | timeSliceEnd (gang : Nat)
  | preemptionRequest (gang : Nat)
  | drainCut (core : Nat)
  | evictionSave (core : Nat)
  | waveRestore (core : Nat)
  | launchCompletion (lid : Nat)
  | rotationRound (die : Nat)
  | cuppingTestDone (die : Nat) (pass : Bool)
  | replayWindow (die : Nat)
  | lateTransition (core slot : Nat)
  | ueDetected (site : UeSite)
  /-- `fixed` rows were corrected; `bad` are the 128-byte units found uncorrectable -/
  | wsRefreshWindow (die bank : Nat) (fixed : Nat) (bad : List Nat)
  | wsSealEffect (region : Nat)
  | sweeperVisit (block : Nat)
  | faultResponse (func : Nat)
  | faultTmoExpiry (func fid : Nat)
  | remoteAccessTimeout (key : Nat) (refused : Bool)
  | ethernetFrame (frame : Frame)
  | rdmaWrite (func j : Nat)
  | rdmaRead (func j : Nat)
  | rdmaNotifyWrite (func j : Nat)
  | rdmaFaultResponseWrite (func j : Nat)
  | rdmaUnsupported (func j : Nat)
  | qpRetryExceeded (func j : Nat)
  | hostPortLinkDown (port : Nat)
  | flitReceive (port : Nat) (flit : List Byte)
  | peerLaunchPacket (sender func q : Nat) (packet : List W64)
  | domainRequest (sender : Nat) (req : DomReq)
  | frarokLaneFailure (port lane : Nat)
  /-- `failed` is the mask of physical lanes the retrain's test found failed; `peer` the far end it found -/
  | retrainDone (port : Nat) (failed : BitVec 9) (peer : BitVec 8)
  | powerOn (inputs : BootInputs)
  /-- the readings of the past millisecond: milliwatts and hottest junction in 1/16 degree -/
  | powerPeriod (mw tj : Nat)
  | thermal105 (tj : Nat)
  | thermalStop (tj : Nat)
  | getVersion
  | getCapabilities
  | negotiateAlgorithms
  | getDigests
  | getCertificate (slot offset len : Nat)
  | challenge (slot : Nat) (nonce : List Byte)
  | getMeasurements (index : Nat)
  | spdmUnsupportedRequest (code : Nat)
  | functionTableWrite (func word : Nat) (v : W64)
  | frst (func : Nat)
  | regionSealWrite (region : Nat) (v : W64)
  | domend (v : W64)
  | haltrel (v : W64)
  | fswCtlWrite (block : Nat) (v : W64)
  | fswStatClear (block : Nat) (v : W64)
  | fqctlWrite (func : Nat) (v : W64)
  | fqrespWrite (func : Nat) (v : W64)
  | fqstatClear (func : Nat) (v : W64)
  | counterClear (addr : Nat)
  | fpctlRetrain (port : Nat)
  | pwrcapWrite (v : W64)
  | mrreadWrite (v : W64)
  | queueEntryWrite (func q word : Nat) (v : W64)
  | registerWrite (addr : Nat) (v : W64)
  | waitingWorkClass7 (gang : Nat)
  | qpRetransmitTimeout (func j : Nat)
  | tileOperationComplete (key : Nat)
  | storePerformed (key : Nat)
  | microcodeStoreReload (core : Nat)
  | degradedClusterTest (die phys : Nat) (pass : Bool)
  | hbm4ChannelCopyDone (stack : Nat)
  | memoryChannelFailure (ddr : Bool) (stack channel : Nat)
  | domainEndingDone
  | functionResetDone (func : Nat)
deriving DecidableEq, Repr

end Sys2Proof
end

