-- ==== Sys2Proof/WellFormed.lean ====
section
/-!
DEFINITION. When an instruction is well formed (spec 06, R137): every register operand holds a class that spec 03,
R55 to R57, and the instruction's entry allow in its position, and the fields that depend on one another agree.
What the types of Syntax.lean already rule out (reserved values, unused fields) needs no check here.
-/

namespace Sys2Proof

/-- The classes of an operand position (spec 03, R55 to R57; spec 07, R160; spec 08, R192; spec 09, R234). -/
inductive Cls where
  /-- a 32-bit source: general, zero or wave-uniform -/
  | src
  /-- a 64-bit source: an even general or wave-uniform pair, or zero -/
  | srcP
  /-- a 32-bit destination: general or zero -/
  | dst
  /-- a 64-bit destination -/
  | dstP
  /-- a 32-bit destination that may be wave-uniform -/
  | dstW
  /-- a 64-bit destination that may be a wave-uniform pair -/
  | dstWP
  /-- a wave-uniform register, or zero -/
  | wOnly
  /-- a wave-uniform pair, or zero -/
  | wPair
  /-- a mask operand (R56) -/
  | mask
  /-- a mask destination, or zero -/
  | maskD
  /-- the destination of `KBALLOT`: general, zero or a mask -/
  | gk
  /-- a general register alone -/
  | gen
  /-- an even general pair alone -/
  | genP
  /-- a quadruple: a general register whose number is a multiple of 4, at most 248 -/
  | genQ
  /-- a triple of consecutive general registers, the first at most 252 (R234) -/
  | triple
  /-- a general register whose number is a multiple of 8 (R221) -/
  | gen8
deriving DecidableEq, Repr

/-- Whether an operand has a class. `gz` is admitted as every destination (spec 03, R55; log 66). -/
def Opnd.ok (c : Cls) : Opnd → Bool
  | .g n =>
    match c with
    | .src | .dst | .dstW | .gk | .gen => true
    | .srcP | .dstP | .dstWP | .genP => n.val % 2 == 0 && n.val ≤ 252
    | .genQ => n.val % 4 == 0 && n.val ≤ 248
    | .triple => n.val ≤ 252
    | .gen8 => n.val % 8 == 0
    | .wOnly | .wPair | .mask | .maskD => false
  | .z =>
    match c with
    | .src | .srcP | .dst | .dstP | .dstW | .dstWP | .mask | .gk | .wOnly | .wPair | .maskD => true
    | .gen | .genP | .genQ | .triple | .gen8 => false
  | .w n =>
    match c with
    | .src | .dstW | .wOnly | .mask => true
    | .srcP | .dstWP | .wPair => n.val % 2 == 0 && n.val ≤ 30
    | .dst | .dstP | .maskD | .gk | .gen | .genP | .genQ | .triple | .gen8 => false
  | .k _ =>
    match c with
    | .mask | .maskD | .gk => true
    | .src | .srcP | .dst | .dstP | .dstW | .dstWP | .wOnly | .wPair | .gen | .genP | .genQ | .triple
    | .gen8 => false

/-- The source class of a width. -/
def srcW (wide : Bool) : Cls := if wide then .srcP else .src

/-- The destination class of a width. -/
def dstWd (wide : Bool) : Cls := if wide then .dstP else .dst

/-- The class of an atomic's DATA: read and written, or with `.nr` only read (spec 08, R200; spec 03, R55). -/
def atomD (nr wide : Bool) : Cls := if nr then srcW wide else dstWd wide

/-- The class of a load's destination (spec 08, R191): one register, an even pair or a quadruple. -/
def dstM : Width → Cls
  | .b8 | .b16 | .b32 => .dst
  | .b64 => .dstP
  | .b128 => .genQ

/-- The class of a store's source (spec 08, R191). -/
def srcM : Width → Cls
  | .b8 | .b16 | .b32 => .src
  | .b64 => .srcP
  | .b128 => .genQ

/-- The class of the registers of `ACCRD` and `ACCWR` (spec 09, R262). -/
def clsN : AccN → Cls
  | .x1 => .gen
  | .x2 => .genP
  | .x4 => .genQ

def A1.wf (a : A1) : Bool := a.d.ok (dstWd a.wide) && a.s1.ok (srcW a.wide)

/-- `POPC` and `CLZ`: D is a single register in both widths (spec 07, R171). -/
def A1.wfCount (a : A1) : Bool := a.d.ok .dst && a.s1.ok (srcW a.wide)

/-- `WMOV` (spec 07, R181). -/
def A1.wfWmov (a : A1) : Bool := a.d.ok (if a.wide then .wPair else .wOnly) && a.s1.ok (srcW a.wide)

def A2.wf (a : A2) : Bool := a.d.ok (dstWd a.wide) && a.s1.ok (srcW a.wide) && a.s2.ok (srcW a.wide)

/-- Shifts and bit fields: S2 is a single register in both widths (spec 07, R162). -/
def A2.wfShift (a : A2) : Bool := a.d.ok (dstWd a.wide) && a.s1.ok (srcW a.wide) && a.s2.ok .src

def A2c.wf (a : A2c) : Bool := a.d.ok (dstWd a.wide) && a.s1.ok (srcW a.wide) && a.s2.ok (srcW a.wide)

def A2cc.wf (a : A2cc) : Bool := a.d.ok (dstWd a.wide) && a.s1.ok (srcW a.wide) && a.s2.ok (srcW a.wide)

def A3.wf (a : A3) : Bool :=
  a.d.ok (dstWd a.wide) && a.s1.ok (srcW a.wide) && a.s2.ok (srcW a.wide) && a.s3.ok (srcW a.wide)

/-- `BFI`: S3, the field descriptor, is single (spec 07, R162). -/
def A3.wfBfi (a : A3) : Bool :=
  a.d.ok (dstWd a.wide) && a.s1.ok (srcW a.wide) && a.s2.ok (srcW a.wide) && a.s3.ok .src

def A3t.wf (a : A3t) : Bool :=
  a.d.ok (dstWd a.wide) && a.s1.ok (srcW a.wide) && a.s2.ok (srcW a.wide) && a.s3.ok (srcW a.wide)

def B1.wf (a : B1) : Bool := a.d.ok .dst && a.s1.ok .src

def B2.wf (a : B2) : Bool := a.d.ok .dst && a.s1.ok .src && a.s2.ok .src

/-- `IMULWS` and `IMULWU`: D is a pair (spec 07, R162). -/
def B2.wfWide (a : B2) : Bool := a.d.ok .dstP && a.s1.ok .src && a.s2.ok .src

def B3.wf (a : B3) : Bool := a.d.ok .dst && a.s1.ok .src && a.s2.ok .src && a.s3.ok .src

def LeaArgs.wf (a : LeaArgs) : Bool := a.d.ok .dstP && a.s1.ok .srcP && a.s2.ok .src

def DivArgs.wf (a : DivArgs) : Bool := a.d.ok (dstWd a.wide) && a.s1.ok (srcW a.wide) && a.s2.ok (srcW a.wide)

def SelArgs.wf (a : SelArgs) : Bool := a.d.ok (dstWd a.wide) && a.s1.ok (srcW a.wide) && a.s2.ok (srcW a.wide)

/-- Without a combination MOD must be 0 (spec 07, R174). -/
def combOk (c : Comb) (pm : Fin 8) : Bool := c != .none || pm == 0

def IcmpArgs.wf (a : IcmpArgs) : Bool :=
  a.d.ok (dstWd a.wide) && a.s1.ok (srcW a.wide) && a.s2.ok (srcW a.wide) && combOk a.comb a.pm

def FcmpArgs.wf (a : FcmpArgs) : Bool := a.d.ok .dst && a.s1.ok .src && a.s2.ok .src && combOk a.comb a.pm

def BallotArgs.wf (a : BallotArgs) : Bool := a.d.ok .gk && a.m.ok .mask

def KcntArgs.wf (a : KcntArgs) : Bool := a.d.ok .dstW && a.m.ok .mask

def KlopArgs.wf (a : KlopArgs) : Bool := a.d.ok .maskD && a.ma.ok .mask && a.mb.ok .mask && a.mc.ok .mask

def ShflArgs.wf (a : ShflArgs) : Bool :=
  a.d.ok (dstWd a.wide) && a.s1.ok (srcW a.wide) && a.s2.ok .src && a.m.ok .mask

def MoviArgs.wf (a : MoviArgs) : Bool := a.d.ok (dstWd a.wide)

def A1i.wf (a : A1i) : Bool := a.d.ok (dstWd a.wide) && a.s1.ok (srcW a.wide)

/-- The shift amount fits IMM[4:0] in the 32-bit form (spec 06, R140). -/
def ShiArgs.wf (a : ShiArgs) : Bool :=
  a.d.ok (dstWd a.wide) && a.s1.ok (srcW a.wide) && (a.wide || a.sh.val < 32)

def SrrdArgs.wf (a : SrrdArgs) : Bool := a.d.ok (if a.wide then .dstWP else .dstW)

def SrwrArgs.wf (a : SrwrArgs) : Bool := a.s1.ok (srcW a.wide)

/-- `.sx` is allowed only with the widths of 1 and 2 bytes (spec 08, R191). -/
def sxOk (sx : Bool) (w : Width) : Bool := !sx || w == .b8 || w == .b16

def LdArgs.wf (a : LdArgs) : Bool := a.d.ok (dstM a.width) && a.m.ix.ok .src && sxOk a.sx a.width

def StArgs.wf (a : StArgs) : Bool := a.data.ok (srcM a.width) && a.m.ix.ok .src

def LdsArgs.wf (a : LdsArgs) : Bool := a.d.ok (dstM a.width) && a.m.ix.ok .src && sxOk a.sx a.width

def StsArgs.wf (a : StsArgs) : Bool := a.d.ok (srcM a.width) && a.m.ix.ok .src

/-- `LDWS` reads 4, 8 or 16 bytes (spec 08, R191). -/
def StsArgs.wfLdws (a : StsArgs) : Bool :=
  a.d.ok (dstM a.width) && a.m.ix.ok .src && a.width != .b8 && a.width != .b16

/-- SCOPE 0 with an order is a reserved field value (spec 06, R143). -/
def orderOk (s : Scope) (o : Order) : Bool := s != .thr || o == .relaxed

def AtomArgs.wf (a : AtomArgs) : Bool :=
  a.d.ok (atomD a.nr a.wide) && a.m.ix.ok .src && orderOk a.scope a.order

def AtomsArgs.wf (a : AtomsArgs) : Bool :=
  a.d.ok (dstWd a.wide) && a.m.ix.ok .src && orderOk a.scope a.order

def AtomfArgs.wf (a : AtomfArgs) : Bool := a.d.ok (atomD a.nr false) && a.m.ix.ok .src && orderOk a.scope a.order

def CasArgs.wf (a : CasArgs) : Bool := a.d.ok .genP && a.m.ix.ok .src && orderOk a.scope a.order

def BrldArgs.wf (a : BrldArgs) : Bool := a.m.ix.ok .src

def BrsetArgs.wf (a : BrsetArgs) : Bool := a.q.ok .genQ

def WaiteqArgs.wf (a : WaiteqArgs) : Bool := a.d.ok (srcW a.wide) && a.m.ix.ok .src

/-- `ACQ`: a pair is an even general pair (spec 08, R192); SCOPE 0 is reserved (R204). -/
def SyncArgs.wfAcq (a : SyncArgs) : Bool :=
  a.d.ok (if a.wide then .genP else .dst) && a.ix.ok .src && a.scope != .thr

def SyncArgs.wfRel (a : SyncArgs) : Bool :=
  a.d.ok (if a.wide then .genP else .src) && a.ix.ok .src && a.scope != .thr

def RingGetArgs.wf (a : RingGetArgs) : Bool := a.d.ok .dst && a.a.ok .src

def WredArgs.wf (a : WredArgs) : Bool :=
  a.d.ok (if a.scan then .dst else .dstW) && a.s1.ok .src && a.m.ok .mask

def FclassArgs.wf (a : FclassArgs) : Bool := a.d.ok .dst && a.s1.ok .src

def FrndArgs.wf (a : FrndArgs) : Bool := a.d.ok .dst && a.s1.ok .src

def CvtArgs.wf (a : CvtArgs) : Bool := a.d.ok .dst && a.s1.ok .src

def Pack2Args.wf (a : Pack2Args) : Bool := a.d.ok .dst && a.s1.ok .src && a.s2.ok .src && a.s3.ok .src

def Unpk2Args.wf (a : Unpk2Args) : Bool := a.d.ok .dstP && a.s1.ok .src

def Half2Args.wf (a : Half2Args) : Bool := a.d.ok .dst && a.s1.ok .src && a.s2.ok .src

def Half3Args.wf (a : Half3Args) : Bool := a.d.ok .dst && a.s1.ok .src && a.s2.ok .src && a.s3.ok .src

def Idp4Args.wf (a : Idp4Args) : Bool := a.d.ok .dst && a.s1.ok .src && a.s2.ok .src && a.s3.ok .src

def PlaneArgs.wf (a : PlaneArgs) : Bool :=
  a.d.ok .dst && a.s1.ok .triple && a.s2.ok .srcP && (match a.persp with | some o => o.ok .triple | none => true)

def QuadArgs.wf (a : QuadArgs) : Bool := a.d.ok .dst && a.s1.ok .src

def DerivArgs.wf : DerivArgs → Bool
  | .plane a => a.wf
  | .quad a => a.wf

def LdstatArgs.wf (a : LdstatArgs) : Bool := a.ix.ok .src && a.sc.ok .genQ

def MstreamArgs.wf (a : MstreamArgs) : Bool := a.ix.ok .src && a.gp.ok .gen && a.sc.ok .srcP

/-- `MSTREAMS` names a quad of scales (spec 09, R258). -/
def MstreamArgs.wfSparse (a : MstreamArgs) : Bool := a.ix.ok .src && a.gp.ok .gen && a.sc.ok .genQ

def MstreamcArgs.wf (a : MstreamcArgs) : Bool := a.ix.ok .src && a.gp.ok .gen && a.sc.ok .srcP

def AccrwArgs.wf (a : AccrwArgs) : Bool := a.ix.ok .src && a.d.ok (clsN a.n)

def CopyArgs.wf (a : CopyArgs) : Bool := a.sb.ok .gen && a.tok.ok .gen

def CopywArgs.wf (a : CopywArgs) : Bool := a.sb.ok .gen && a.tok.ok .gen

/-- Whether an instruction is well formed. An event has no word, and a word that is no instruction is what it is. -/
def Instr.wf : Instr → Bool
  | .mov a | .iabs a | .brev a => a.wf
  | .popc a | .clz a => a.wfCount
  | .wmov a => a.wfWmov
  | .movi a => a.wf
  | .movhi a => a.d.ok .dstP
  | .kset a => a.d.ok .maskD
  | .iadd a | .isub a => a.wf
  | .iaddc a | .isubb a => a.wf
  | .iaddi a | .andi a | .ori a | .xori a => a.wf
  | .imul a | .imulhs a | .imulhu a | .imins a | .iminu a | .imaxs a | .imaxu a | .and a | .or a | .xor a
  | .andn a => a.wf
  | .shl a | .shr a | .sar a | .rotl a | .bfxs a | .bfxu a => a.wfShift
  | .imulws a | .imulwu a => a.wfWide
  | .imad a => a.wf
  | .bfi a => a.wfBfi
  | .lea a => a.wf
  | .idivs a | .idivu a => a.wf
  | .lop3 a => a.wf
  | .shli a | .shri a | .sari a => a.wf
  | .prmt a | .ffma a => a.wf
  | .sel a => a.wf
  | .icmps a | .icmpu a => a.wf
  | .kballot a => a.wf
  | .kpopc a | .kfind a => a.wf
  | .klop a => a.wf
  | .shfl a => a.wf
  | .srrd a => a.wf
  | .srwr a => a.wf
  | .brx a => a.t.ok .genP
  | .call a => a.link.ok .dstP
  | .callx a => a.link.ok .dstP && a.t.ok .genP
  | .ld a | .ldw a => a.wf
  | .st a => a.wf
  | .lds a => a.wf
  | .sts a => a.wf
  | .ldws a => a.wfLdws
  | .atom a => a.wf
  | .atoms a => a.wf
  | .atomf a => a.wf
  | .cas a | .cass a => a.wf
  | .acq a => a.wfAcq
  | .rel a => a.wfRel
  | .brld a => a.wf
  | .brset a => a.wf
  | .bar a => a.cnt.ok .src
  | .barx a => a.cnt.ok .src
  | .waiteq a => a.wf
  | .copy a => a.wf
  | .copyw a => a.wf
  | .pref a => a.ix.ok .gen
  | .sracq a | .srwait a => a.wf
  | .srcommit a | .srfree a => a.a.ok .src
  | .coll a => a.buf.ok .src && a.ctl.ok .src
  | .fork a => a.a.ok .genP && a.b.ok .gen8
  | .tsinit a | .depinit a | .depinitSelf a => a.a.ok .genP && a.b.ok .genP
  | .depdec a => a.a.ok .genP
  | .tqpost a => a.a.ok .genP && a.b.ok .src
  | .gcall a => a.cnt.ok .src
  | .fadd a | .fsub a | .fmul a | .fmin a | .fmax a | .fdiv a | .fldexp a => a.wf
  | .fcmp a => a.wf
  | .frcp a | .frsq a | .fsqrt a | .fexp2 a | .flog2 a | .fsin a | .fcos a => a.wf
  | .fclass a => a.wf
  | .frnd a => a.wf
  | .cvtf a | .cvtfi a | .cvtif a => a.wf
  | .pack2 a => a.wf
  | .unpk2 a => a.wf
  | .hadd2 a | .hmul2 a => a.wf
  | .hfma2 a => a.wf
  | .idp4 a => a.wf
  | .wred a => a.wf
  | .derivx a | .derivy a => a.wf
  | .interp a => a.wf
  | .ldstat a | .ldstatw a => a.wf
  | .mstream a => a.wf
  | .mstreams a => a.wfSparse
  | .mstreamc a => a.wf
  | .mckvChk a | .mckvFix a | .mckvBase a => a.d.ok .genQ
  | .accrd a | .accwr a => a.wf
  | .accld a => a.ix.ok .src
  | .accst a => a.ix.ok .src
  | .accsclRow a => a.sc.ok .src
  | .accsclCol a => a.ix.ok .src
  | .accredSum a | .accredMax a => a.d.ok .gen
  | .mdld a => a.ix.ok .src
  | .rastri a => a.sb.ok .gen && a.tri.ok .src
  | .traverse a => a.sb.ok .gen
  | .filter a => a.sb.ok .gen
  | .oblend a => a.sb.ok .gen && a.zsrc.ok .src
  | .shadeq a | .gqpush a | .gqpushClose a | .gqpop a => a.sb.ok .gen
  | .hitsort a => a.sb.ok .gen
  | .anyhitNext a => a.sb.ok .gen && a.x.ok .genQ
  | .anyhitAcc a | .anyhitTerm a => a.sb.ok .gen && a.x.ok .src
  | .anyhitCommit a => a.sb.ok .gen
  | .hizq a => a.sb.ok .gen
  | .macroPrim a => a.sb.ok .gen && a.x.ok .src
  | .bop a => a.sb.ok .gen && a.x.ok .src
  | .srwrp a => a.a.ok (srcW a.wide)
  | .tlbinvPage a | .tlbinvIpa a => a.a.ok .src && a.b.ok .srcP
  | .tlbinvPasid a | .tlbinvFunc a | .tlbinvDom a => a.a.ok .src
  | .domsetEnd a => a.a.ok .src
  | .domsetStat a => a.a.ok .dst && a.b.ok .src
  | .finjAcc a | .finjAccue a | .finjSpue a => a.a.ok .src
  | .finjLineue a => a.a.ok .srcP
  | .mcload a => a.a.ok .dst && a.b.ok .srcP
  | .sigcmpCmp a => a.a.ok .dst && a.b.ok .srcP
  | .sigcmpRd a => a.a.ok .dstP
  | _ => true

end Sys2Proof
end

