-- ==== Sys2Proof/Decode.lean ====
section
/-!
DEFINITION. Decoding, total on every 64-bit word (spec 06, R133 to R152), and after it the encoder, written from the
same tables (spec 06, R138 to R149; spec 07, R162; spec 08, R191, R192; spec 09, R234, R250; spec 10, R268; spec 03,
R78; spec 04, R85; spec 14, R361; spec 17, R397; spec 19, R436, R437, R449, R450). A word that is not well formed
decodes to `unassignedOpcode` with the lowest cause of spec 17, R388, that it meets (spec 18, R406).
-/

namespace Sys2Proof

/-! ### Codes of the closed choices -/

/-- The code of each choice (spec 07, R174). -/
def Cc.code : Cc → Nat
  | .eq => 0
  | .ne => 1
  | .lt => 2
  | .le => 3
  | .gt => 4
  | .ge => 5

/-- The choice a code names (spec 07, R174); codes beyond the last are rejected before this is used. -/
def Cc.ofCode : Nat → Cc
  | 0 => .eq
  | 1 => .ne
  | 2 => .lt
  | 3 => .le
  | 4 => .gt
  | _ => .ge

/-- The code of each choice (spec 09, R237). -/
def FCc.code : FCc → Nat
  | .eq => 0
  | .ne => 1
  | .lt => 2
  | .le => 3
  | .gt => 4
  | .ge => 5
  | .ord => 6
  | .uno => 7

/-- The choice a code names (spec 09, R237); codes beyond the last are rejected before this is used. -/
def FCc.ofCode : Nat → FCc
  | 0 => .eq
  | 1 => .ne
  | 2 => .lt
  | 3 => .le
  | 4 => .gt
  | 5 => .ge
  | 6 => .ord
  | _ => .uno

/-- The code of each choice (spec 07, R174). -/
def Comb.code : Comb → Nat
  | .none => 0
  | .and => 1
  | .or => 2

/-- The choice a code names (spec 07, R174); codes beyond the last are rejected before this is used. -/
def Comb.ofCode : Nat → Comb
  | 0 => .none
  | 1 => .and
  | _ => .or

/-- The code of each choice (spec 07, R182). -/
def ShMode.code : ShMode → Nat
  | .idx => 0
  | .rot => 1
  | .xor => 2
  | .rev => 3

/-- The choice a code names (spec 07, R182); codes beyond the last are rejected before this is used. -/
def ShMode.ofCode : Nat → ShMode
  | 0 => .idx
  | 1 => .rot
  | 2 => .xor
  | _ => .rev

/-- The code of each choice (spec 06, R142). -/
def Width.code : Width → Nat
  | .b8 => 0
  | .b16 => 1
  | .b32 => 2
  | .b64 => 3
  | .b128 => 4

/-- The choice a code names (spec 06, R142); codes beyond the last are rejected before this is used. -/
def Width.ofCode : Nat → Width
  | 0 => .b8
  | 1 => .b16
  | 2 => .b32
  | 3 => .b64
  | _ => .b128

/-- The code of each choice (spec 06, R142). -/
def Cache.code : Cache → Nat
  | .normal => 0
  | .l2only => 1
  | .evfirst => 2

/-- The choice a code names (spec 06, R142); codes beyond the last are rejected before this is used. -/
def Cache.ofCode : Nat → Cache
  | 0 => .normal
  | 1 => .l2only
  | _ => .evfirst

/-- The code of each choice (spec 04, R105). -/
def Scope.code : Scope → Nat
  | .thr => 0
  | .wave => 1
  | .grp => 2
  | .gang => 3
  | .core => 4
  | .dev => 5
  | .dom => 6
  | .sys => 7

/-- The choice a code names (spec 04, R105); codes beyond the last are rejected before this is used. -/
def Scope.ofCode : Nat → Scope
  | 0 => .thr
  | 1 => .wave
  | 2 => .grp
  | 3 => .gang
  | 4 => .core
  | 5 => .dev
  | 6 => .dom
  | _ => .sys

/-- The code of each choice (spec 06, R143). -/
def Order.code : Order → Nat
  | .relaxed => 0
  | .acq => 1
  | .rel => 2
  | .ar => 3

/-- The choice a code names (spec 06, R143); codes beyond the last are rejected before this is used. -/
def Order.ofCode : Nat → Order
  | 0 => .relaxed
  | 1 => .acq
  | 2 => .rel
  | _ => .ar

/-- The code of each choice (spec 08, R200). -/
def AtomOp.code : AtomOp → Nat
  | .add => 0
  | .and => 1
  | .or => 2
  | .xor => 3
  | .mins => 4
  | .minu => 5
  | .maxs => 6
  | .maxu => 7
  | .exch => 8
  | .incw => 9
  | .decw => 10

/-- The choice a code names (spec 08, R200); codes beyond the last are rejected before this is used. -/
def AtomOp.ofCode : Nat → AtomOp
  | 0 => .add
  | 1 => .and
  | 2 => .or
  | 3 => .xor
  | 4 => .mins
  | 5 => .minu
  | 6 => .maxs
  | 7 => .maxu
  | 8 => .exch
  | 9 => .incw
  | _ => .decw

/-- The code of each choice (spec 08, R201). -/
def AtomfOp.code : AtomfOp → Nat
  | .add => 0
  | .min => 1
  | .max => 2
  | .add2 => 3

/-- The choice a code names (spec 08, R201); codes beyond the last are rejected before this is used. -/
def AtomfOp.ofCode : Nat → AtomfOp
  | 0 => .add
  | 1 => .min
  | 2 => .max
  | _ => .add2

/-- The code of each choice (spec 08, R218). -/
def CollOp.code : CollOp → Nat
  | .sum => 0
  | .max => 1
  | .bcast => 2
  | .min => 3

/-- The choice a code names (spec 08, R218); codes beyond the last are rejected before this is used. -/
def CollOp.ofCode : Nat → CollOp
  | 0 => .sum
  | 1 => .max
  | 2 => .bcast
  | _ => .min

/-- The code of each choice (spec 03, R69; spec 09, R240). -/
def Rnd.code : Rnd → Nat
  | .rne => 0
  | .rtz => 1
  | .rdn => 2
  | .rup => 3

/-- The choice a code names (spec 03, R69; spec 09, R240); codes beyond the last are rejected before this is used. -/
def Rnd.ofCode : Nat → Rnd
  | 0 => .rne
  | 1 => .rtz
  | 2 => .rdn
  | _ => .rup

/-- The code of each choice (spec 10, R268). -/
def DepthFn.code : DepthFn → Nat
  | .lt => 0
  | .le => 1
  | .al => 2
  | .gt => 3

/-- The choice a code names (spec 10, R268); codes beyond the last are rejected before this is used. -/
def DepthFn.ofCode : Nat → DepthFn
  | 0 => .lt
  | 1 => .le
  | 2 => .al
  | _ => .gt

/-- The code of each choice (spec 09, R250). -/
def AccN.code : AccN → Nat
  | .x1 => 0
  | .x2 => 1
  | .x4 => 2

/-- The choice a code names (spec 09, R250); codes beyond the last are rejected before this is used. -/
def AccN.ofCode : Nat → AccN
  | 0 => .x1
  | 1 => .x2
  | _ => .x4


/-! ### Fields of a word -/

/-- Bits `hi` to `lo` of a word. -/
def fl (w hi lo : Nat) : Nat := w / 2 ^ lo % 2 ^ (hi - lo + 1)

/-- The 9-bit code of an operand (spec 03, R55). -/
def Opnd.code : Opnd → Nat
  | .g n => n.val
  | .z => 255
  | .w n => 256 + n.val
  | .k n => 288 + n.val

/-- The operand a 9-bit code names (spec 03, R55). Codes 296 to 511 are reserved and rejected before this is used. -/
def Opnd.ofCode (x : Nat) : Opnd :=
  if h : x < 255 then .g ⟨x, h⟩
  else if x = 255 then .z
  else if x < 288 then .w (Fin.ofNat 32 (x - 256))
  else .k (Fin.ofNat 8 (x - 288))

/-- The header of a word (spec 06, R134). -/
def hdrOf (w : Nat) : Hdr :=
  { b := fl w 55 55 == 1, guard := Fin.ofNat 8 (fl w 54 52), neg := fl w 51 51 == 1 }

/-- What a decoder answers: the causes that the word meets, and the instruction it is where it meets none. -/
abbrev Dec := List Nat × Instr

/-- A cause where a condition fails. -/
def need (c : Bool) (code : Nat) : List Nat := if c then [] else [code]

/-- An unused field must hold zero (spec 17, R388, D 6). -/
def unused (x : Nat) : List Nat := need (x == 0) 6

/-- A reserved bit must hold zero (spec 17, R388, D 7). -/
def reserved (x : Nat) : List Nat := need (x == 0) 7

/-- An operand field must hold a class its position allows (spec 17, R388, 0x008 + D). -/
def opnd (d : Nat) (c : Cls) (x : Nat) : List Nat := need (x < 296 && (Opnd.ofCode x).ok c) (8 + d)

/-- The lowest cause of a list. -/
def lowest : List Nat → Option Nat
  | [] => none
  | x :: xs =>
    match lowest xs with
    | none => some x
    | some y => some (if x ≤ y then x else y)

/-! ### Format A -/

def aD (w : Nat) : Nat := fl w 50 42
def aS1 (w : Nat) : Nat := fl w 41 33
def aS2 (w : Nat) : Nat := fl w 32 24
def aS3 (w : Nat) : Nat := fl w 23 15
def aTy (w : Nat) : Nat := fl w 14 11
def aSub (w : Nat) : Nat := fl w 10 6
def aAux (w : Nat) : Nat := fl w 5 3
def aMod (w : Nat) : Nat := fl w 2 0

/-- TYPE must be one the entry lists (spec 06, R139). -/
def typeIn (ts : List Nat) (w : Nat) : List Nat := need (ts.contains (aTy w)) 2

/-- The 64-bit form of format A (spec 07, R160). -/
def aWide (w : Nat) : Bool := aTy w == 1

def decA1 (mk : A1 → Instr) (dc sc : Cls) (w : Nat) : Dec :=
  (typeIn [0, 1] w ++ opnd 0 dc (aD w) ++ opnd 1 sc (aS1 w) ++ unused (aS2 w) ++ unused (aS3 w)
     ++ unused (aSub w) ++ unused (aAux w) ++ unused (aMod w),
   mk { h := hdrOf w, wide := aWide w, d := .ofCode (aD w), s1 := .ofCode (aS1 w) })

def decA2 (mk : A2 → Instr) (s2c : Cls) (w : Nat) : Dec :=
  (typeIn [0, 1] w ++ opnd 0 (dstWd (aWide w)) (aD w) ++ opnd 1 (srcW (aWide w)) (aS1 w) ++ opnd 2 s2c (aS2 w)
     ++ unused (aS3 w) ++ unused (aSub w) ++ unused (aAux w) ++ unused (aMod w),
   mk { h := hdrOf w, wide := aWide w, d := .ofCode (aD w), s1 := .ofCode (aS1 w), s2 := .ofCode (aS2 w) })

def decA2c (mk : A2c → Instr) (w : Nat) : Dec :=
  (typeIn [0, 1] w ++ opnd 0 (dstWd (aWide w)) (aD w) ++ opnd 1 (srcW (aWide w)) (aS1 w)
     ++ opnd 2 (srcW (aWide w)) (aS2 w) ++ unused (aS3 w) ++ unused (aSub w) ++ unused (aMod w),
   mk { h := hdrOf w, wide := aWide w, d := .ofCode (aD w), co := Fin.ofNat 8 (aAux w), s1 := .ofCode (aS1 w),
        s2 := .ofCode (aS2 w) })

def decA2cc (mk : A2cc → Instr) (w : Nat) : Dec :=
  (typeIn [0, 1] w ++ opnd 0 (dstWd (aWide w)) (aD w) ++ opnd 1 (srcW (aWide w)) (aS1 w)
     ++ opnd 2 (srcW (aWide w)) (aS2 w) ++ unused (aS3 w) ++ unused (aSub w),
   mk { h := hdrOf w, wide := aWide w, d := .ofCode (aD w), co := Fin.ofNat 8 (aAux w),
        ci := Fin.ofNat 8 (aMod w), s1 := .ofCode (aS1 w), s2 := .ofCode (aS2 w) })

def decA3 (mk : A3 → Instr) (s3c : Cls) (w : Nat) : Dec :=
  (typeIn [0, 1] w ++ opnd 0 (dstWd (aWide w)) (aD w) ++ opnd 1 (srcW (aWide w)) (aS1 w)
     ++ opnd 2 (srcW (aWide w)) (aS2 w) ++ opnd 3 s3c (aS3 w) ++ unused (aSub w) ++ unused (aAux w)
     ++ unused (aMod w),
   mk { h := hdrOf w, wide := aWide w, d := .ofCode (aD w), s1 := .ofCode (aS1 w), s2 := .ofCode (aS2 w),
        s3 := .ofCode (aS3 w) })

/-- A table's bits [7:3] lie in SUBOP and its bits [2:0] in AUX (spec 07, R162, R169). -/
def decLop3 (w : Nat) : Dec :=
  (typeIn [0, 1] w ++ opnd 0 (dstWd (aWide w)) (aD w) ++ opnd 1 (srcW (aWide w)) (aS1 w)
     ++ opnd 2 (srcW (aWide w)) (aS2 w) ++ opnd 3 (srcW (aWide w)) (aS3 w) ++ unused (aMod w),
   .lop3 { h := hdrOf w, wide := aWide w, d := .ofCode (aD w), s1 := .ofCode (aS1 w), s2 := .ofCode (aS2 w),
           s3 := .ofCode (aS3 w), table := Fin.ofNat 256 (aSub w * 8 + aAux w) })

def decB1 (mk : B1 → Instr) (ty : Nat) (w : Nat) : Dec :=
  (typeIn [ty] w ++ opnd 0 .dst (aD w) ++ opnd 1 .src (aS1 w) ++ unused (aS2 w) ++ unused (aS3 w)
     ++ unused (aSub w) ++ unused (aAux w) ++ unused (aMod w),
   mk { h := hdrOf w, d := .ofCode (aD w), s1 := .ofCode (aS1 w) })

def decB2 (mk : B2 → Instr) (ty : Nat) (dc : Cls) (w : Nat) : Dec :=
  (typeIn [ty] w ++ opnd 0 dc (aD w) ++ opnd 1 .src (aS1 w) ++ opnd 2 .src (aS2 w) ++ unused (aS3 w)
     ++ unused (aSub w) ++ unused (aAux w) ++ unused (aMod w),
   mk { h := hdrOf w, d := .ofCode (aD w), s1 := .ofCode (aS1 w), s2 := .ofCode (aS2 w) })

def decB3 (mk : B3 → Instr) (ty : Nat) (w : Nat) : Dec :=
  (typeIn [ty] w ++ opnd 0 .dst (aD w) ++ opnd 1 .src (aS1 w) ++ opnd 2 .src (aS2 w) ++ opnd 3 .src (aS3 w)
     ++ unused (aSub w) ++ unused (aAux w) ++ unused (aMod w),
   mk { h := hdrOf w, d := .ofCode (aD w), s1 := .ofCode (aS1 w), s2 := .ofCode (aS2 w), s3 := .ofCode (aS3 w) })

def decLea (w : Nat) : Dec :=
  (typeIn [0] w ++ opnd 0 .dstP (aD w) ++ opnd 1 .srcP (aS1 w) ++ opnd 2 .src (aS2 w) ++ unused (aS3 w)
     ++ need (aSub w < 16) 4 ++ unused (aAux w) ++ need (aMod w < 2) 4,
   .lea { h := hdrOf w, sx := aMod w == 1, sh := Fin.ofNat 16 (aSub w), d := .ofCode (aD w), s1 := .ofCode (aS1 w),
          s2 := .ofCode (aS2 w) })

def decDiv (mk : DivArgs → Instr) (w : Nat) : Dec :=
  (typeIn [0, 1] w ++ opnd 0 (dstWd (aWide w)) (aD w) ++ opnd 1 (srcW (aWide w)) (aS1 w)
     ++ opnd 2 (srcW (aWide w)) (aS2 w) ++ unused (aS3 w) ++ unused (aSub w) ++ unused (aAux w)
     ++ need (aMod w < 2) 4,
   mk { h := hdrOf w, wide := aWide w, rem := aMod w == 1, d := .ofCode (aD w), s1 := .ofCode (aS1 w),
        s2 := .ofCode (aS2 w) })

def decSel (w : Nat) : Dec :=
  (typeIn [0, 1] w ++ opnd 0 (dstWd (aWide w)) (aD w) ++ opnd 1 (srcW (aWide w)) (aS1 w)
     ++ opnd 2 (srcW (aWide w)) (aS2 w) ++ unused (aS3 w) ++ need (aSub w < 2) 4 ++ unused (aAux w),
   .sel { h := hdrOf w, wide := aWide w, neg := aSub w == 1, ps := Fin.ofNat 8 (aMod w), d := .ofCode (aD w),
          s1 := .ofCode (aS1 w), s2 := .ofCode (aS2 w) })

/-- SUBOP of a comparison: condition in [2:0], combination in [4:3] (spec 07, R174). -/
def combOf (w : Nat) : Comb := .ofCode (aSub w / 8)

def decIcmp (mk : IcmpArgs → Instr) (w : Nat) : Dec :=
  (typeIn [0, 1] w ++ opnd 0 (dstWd (aWide w)) (aD w) ++ opnd 1 (srcW (aWide w)) (aS1 w)
     ++ opnd 2 (srcW (aWide w)) (aS2 w) ++ unused (aS3 w) ++ need (aSub w % 8 < 6 && aSub w / 8 < 3) 4
     ++ need (aSub w / 8 != 0 || aMod w == 0) 6,
   mk { h := hdrOf w, wide := aWide w, cc := .ofCode (aSub w % 8), comb := combOf w, pd := Fin.ofNat 8 (aAux w),
        pm := Fin.ofNat 8 (aMod w), d := .ofCode (aD w), s1 := .ofCode (aS1 w), s2 := .ofCode (aS2 w) })

def decFcmp (w : Nat) : Dec :=
  (typeIn [2] w ++ opnd 0 .dst (aD w) ++ opnd 1 .src (aS1 w) ++ opnd 2 .src (aS2 w) ++ unused (aS3 w)
     ++ need (aSub w / 8 < 3) 4 ++ need (aSub w / 8 != 0 || aMod w == 0) 6,
   .fcmp { h := hdrOf w, cc := .ofCode (aSub w % 8), comb := combOf w, pd := Fin.ofNat 8 (aAux w),
           pm := Fin.ofNat 8 (aMod w), d := .ofCode (aD w), s1 := .ofCode (aS1 w), s2 := .ofCode (aS2 w) })

/-- A predicate-number field of `PLOP` (spec 07, R162). -/
def predNum (d x : Nat) : List Nat := need (x < 8) (8 + d)

def decPlop (w : Nat) : Dec :=
  (typeIn [0] w ++ unused (aD w) ++ predNum 1 (aS1 w) ++ predNum 2 (aS2 w) ++ predNum 3 (aS3 w),
   .plop { h := hdrOf w, table := Fin.ofNat 256 (aSub w * 8 + aMod w), pd := Fin.ofNat 8 (aAux w),
           pa := Fin.ofNat 8 (aS1 w), pb := Fin.ofNat 8 (aS2 w), pc := Fin.ofNat 8 (aS3 w) })

def decKballot (w : Nat) : Dec :=
  (typeIn [0] w ++ opnd 0 .gk (aD w) ++ opnd 1 .mask (aS1 w) ++ unused (aS2 w) ++ unused (aS3 w)
     ++ need (aSub w < 2) 4 ++ unused (aAux w),
   .kballot { h := hdrOf w, neg := aSub w == 1, ps := Fin.ofNat 8 (aMod w), d := .ofCode (aD w),
              m := .ofCode (aS1 w) })

def decKcnt (mk : KcntArgs → Instr) (w : Nat) : Dec :=
  (typeIn [0] w ++ opnd 0 .dstW (aD w) ++ opnd 1 .mask (aS1 w) ++ unused (aS2 w) ++ unused (aS3 w)
     ++ need (aSub w < 2) 4 ++ unused (aAux w) ++ unused (aMod w),
   mk { h := hdrOf w, flag := aSub w == 1, d := .ofCode (aD w), m := .ofCode (aS1 w) })

def decKlop (w : Nat) : Dec :=
  (typeIn [0] w ++ opnd 0 .maskD (aD w) ++ opnd 1 .mask (aS1 w) ++ opnd 2 .mask (aS2 w) ++ opnd 3 .mask (aS3 w)
     ++ unused (aMod w),
   .klop { h := hdrOf w, table := Fin.ofNat 256 (aSub w * 8 + aAux w), d := .ofCode (aD w), ma := .ofCode (aS1 w),
           mb := .ofCode (aS2 w), mc := .ofCode (aS3 w) })

def decShfl (w : Nat) : Dec :=
  (typeIn [0, 1] w ++ opnd 0 (dstWd (aWide w)) (aD w) ++ opnd 1 (srcW (aWide w)) (aS1 w) ++ opnd 2 .src (aS2 w)
     ++ opnd 3 .mask (aS3 w) ++ need (aSub w < 4) 4 ++ unused (aMod w),
   .shfl { h := hdrOf w, wide := aWide w, mode := .ofCode (aSub w), pd := Fin.ofNat 8 (aAux w), d := .ofCode (aD w),
           s1 := .ofCode (aS1 w), s2 := .ofCode (aS2 w), m := .ofCode (aS3 w) })

/-- TYPE codes 2 to 6 (spec 06, R139). -/
def FTy.code : FTy → Nat
  | .f32 => 2
  | .f16 => 3
  | .bf16 => 4
  | .e4m3 => 5
  | .e5m2 => 6

def FTy.ofCode : Nat → FTy
  | 2 => .f32
  | 3 => .f16
  | 4 => .bf16
  | 5 => .e4m3
  | _ => .e5m2

/-- TYPE codes 3 and 4 (spec 06, R139). -/
def HTy.code : HTy → Nat
  | .f16 => 3
  | .bf16 => 4

def HTy.ofCode : Nat → HTy
  | 3 => .f16
  | _ => .bf16

def decFclass (w : Nat) : Dec :=
  (typeIn [2, 3, 4, 5, 6] w ++ opnd 0 .dst (aD w) ++ opnd 1 .src (aS1 w) ++ unused (aS2 w) ++ unused (aS3 w)
     ++ unused (aSub w) ++ unused (aAux w) ++ unused (aMod w),
   .fclass { h := hdrOf w, ty := .ofCode (aTy w), d := .ofCode (aD w), s1 := .ofCode (aS1 w) })

def decFrnd (w : Nat) : Dec :=
  (typeIn [2] w ++ opnd 0 .dst (aD w) ++ opnd 1 .src (aS1 w) ++ unused (aS2 w) ++ unused (aS3 w)
     ++ need (aSub w < 4) 4 ++ unused (aAux w) ++ unused (aMod w),
   .frnd { h := hdrOf w, mode := .ofCode (aSub w), d := .ofCode (aD w), s1 := .ofCode (aS1 w) })

def decCvt (mk : CvtArgs → Instr) (w : Nat) : Dec :=
  (typeIn [0] w ++ opnd 0 .dst (aD w) ++ opnd 1 .src (aS1 w) ++ unused (aS2 w) ++ unused (aS3 w)
     ++ unused (aSub w) ++ unused (aMod w),
   mk { h := hdrOf w, slot := Fin.ofNat 8 (aAux w), d := .ofCode (aD w), s1 := .ofCode (aS1 w) })

def decPack2 (w : Nat) : Dec :=
  (typeIn [0] w ++ opnd 0 .dst (aD w) ++ opnd 1 .src (aS1 w) ++ opnd 2 .src (aS2 w) ++ opnd 3 .src (aS3 w)
     ++ unused (aSub w) ++ need (aMod w < 2) 4,
   .pack2 { h := hdrOf w, slot := Fin.ofNat 8 (aAux w), hi := aMod w == 1, d := .ofCode (aD w), s1 := .ofCode (aS1 w),
            s2 := .ofCode (aS2 w), s3 := .ofCode (aS3 w) })

def decUnpk2 (w : Nat) : Dec :=
  (typeIn [0] w ++ opnd 0 .dstP (aD w) ++ opnd 1 .src (aS1 w) ++ unused (aS2 w) ++ unused (aS3 w)
     ++ unused (aSub w) ++ need (aMod w < 2) 4,
   .unpk2 { h := hdrOf w, slot := Fin.ofNat 8 (aAux w), hi := aMod w == 1, d := .ofCode (aD w),
            s1 := .ofCode (aS1 w) })

def decHalf2 (mk : Half2Args → Instr) (w : Nat) : Dec :=
  (typeIn [3, 4] w ++ opnd 0 .dst (aD w) ++ opnd 1 .src (aS1 w) ++ opnd 2 .src (aS2 w) ++ unused (aS3 w)
     ++ unused (aSub w) ++ unused (aAux w) ++ unused (aMod w),
   mk { h := hdrOf w, ty := .ofCode (aTy w), d := .ofCode (aD w), s1 := .ofCode (aS1 w), s2 := .ofCode (aS2 w) })

def decHfma2 (w : Nat) : Dec :=
  (typeIn [3, 4] w ++ opnd 0 .dst (aD w) ++ opnd 1 .src (aS1 w) ++ opnd 2 .src (aS2 w) ++ opnd 3 .src (aS3 w)
     ++ unused (aSub w) ++ unused (aAux w) ++ unused (aMod w),
   .hfma2 { h := hdrOf w, ty := .ofCode (aTy w), d := .ofCode (aD w), s1 := .ofCode (aS1 w), s2 := .ofCode (aS2 w),
            s3 := .ofCode (aS3 w) })

def decIdp4 (w : Nat) : Dec :=
  (typeIn [0] w ++ opnd 0 .dst (aD w) ++ opnd 1 .src (aS1 w) ++ opnd 2 .src (aS2 w) ++ opnd 3 .src (aS3 w)
     ++ need (aSub w < 4) 4 ++ unused (aAux w) ++ unused (aMod w),
   .idp4 { h := hdrOf w, sa := aSub w % 2 == 1, sb := aSub w / 2 == 1, d := .ofCode (aD w), s1 := .ofCode (aS1 w),
           s2 := .ofCode (aS2 w), s3 := .ofCode (aS3 w) })

/-- TYPE and SUBOP[3:0] of a reduction (spec 09, R245). -/
def RedOp.code : RedOp → Nat × Nat
  | .add => (0, 0)
  | .mins => (0, 1)
  | .minu => (0, 2)
  | .maxs => (0, 3)
  | .maxu => (0, 4)
  | .and => (0, 5)
  | .or => (0, 6)
  | .xor => (0, 7)
  | .fadd => (2, 0)
  | .fmin => (2, 8)
  | .fmax => (2, 9)

def RedOp.ofCode (ty op : Nat) : Option RedOp :=
  match ty, op with
  | 0, 0 => some .add
  | 0, 1 => some .mins
  | 0, 2 => some .minu
  | 0, 3 => some .maxs
  | 0, 4 => some .maxu
  | 0, 5 => some .and
  | 0, 6 => some .or
  | 0, 7 => some .xor
  | 2, 0 => some .fadd
  | 2, 8 => some .fmin
  | 2, 9 => some .fmax
  | _, _ => none

def decWred (w : Nat) : Dec :=
  (typeIn [0, 2] w ++ opnd 0 (if aSub w / 16 == 1 then .dst else .dstW) (aD w) ++ opnd 1 .src (aS1 w)
     ++ opnd 2 .mask (aS2 w) ++ unused (aS3 w)
     ++ need (aTy w != 0 && aTy w != 2 || (RedOp.ofCode (aTy w) (aSub w % 16)).isSome) 4
     ++ unused (aAux w) ++ unused (aMod w),
   .wred { h := hdrOf w, op := (RedOp.ofCode (aTy w) (aSub w % 16)).getD .add, scan := aSub w / 16 == 1,
           d := .ofCode (aD w), s1 := .ofCode (aS1 w), m := .ofCode (aS2 w) })

def planeOf (w : Nat) : PlaneArgs :=
  { h := hdrOf w, d := .ofCode (aD w), s1 := .ofCode (aS1 w), s2 := .ofCode (aS2 w),
    persp := if aMod w % 2 == 1 then some (.ofCode (aS3 w)) else none }

/-- S3 of a plane form is a triple with `.persp` and unused without it (spec 09, R234). -/
def planeViol (w : Nat) : List Nat :=
  opnd 0 .dst (aD w) ++ opnd 1 .triple (aS1 w) ++ opnd 2 .srcP (aS2 w)
    ++ (if aMod w % 2 == 1 then opnd 3 .triple (aS3 w) else unused (aS3 w)) ++ need (aMod w < 2) 4 ++ unused (aAux w)

def decDeriv (mk : DerivArgs → Instr) (w : Nat) : Dec :=
  if aSub w % 2 == 1 then
    (typeIn [2] w ++ need (aSub w < 4) 4 ++ opnd 0 .dst (aD w) ++ opnd 1 .src (aS1 w) ++ unused (aS2 w)
       ++ unused (aS3 w) ++ unused (aAux w) ++ unused (aMod w)
       ++ need (aMod w < 2) 4,
     mk (.quad { h := hdrOf w, fine := aSub w / 2 == 1, d := .ofCode (aD w), s1 := .ofCode (aS1 w) }))
  else
    (typeIn [2] w ++ need (aSub w == 0) 4 ++ planeViol w, mk (.plane (planeOf w)))

def decInterp (w : Nat) : Dec :=
  (typeIn [2] w ++ unused (aSub w) ++ planeViol w, .interp (planeOf w))

/-! ### Format I -/

def iWide (w : Nat) : Bool := fl w 32 32 == 1
def iImm (w : Nat) : Nat := fl w 31 0

def decH0I (mk : H0 → Instr) (w : Nat) : Dec :=
  (unused (aD w) ++ unused (aS1 w) ++ unused (fl w 32 32) ++ unused (iImm w), mk { h := hdrOf w })

def decMovi (w : Nat) : Dec :=
  (opnd 0 (dstWd (iWide w)) (aD w) ++ unused (aS1 w),
   .movi { h := hdrOf w, wide := iWide w, d := .ofCode (aD w), imm := BitVec.ofNat 32 (iImm w) })

def decMovhi (w : Nat) : Dec :=
  (need (iWide w) 2 ++ opnd 0 .dstP (aD w) ++ unused (aS1 w),
   .movhi { h := hdrOf w, d := .ofCode (aD w), imm := BitVec.ofNat 32 (iImm w) })

def decKset (w : Nat) : Dec :=
  (unused (fl w 32 32) ++ opnd 0 .maskD (aD w) ++ unused (aS1 w),
   .kset { h := hdrOf w, d := .ofCode (aD w), imm := BitVec.ofNat 32 (iImm w) })

def decA1i (mk : A1i → Instr) (w : Nat) : Dec :=
  (opnd 0 (dstWd (iWide w)) (aD w) ++ opnd 1 (srcW (iWide w)) (aS1 w),
   mk { h := hdrOf w, wide := iWide w, d := .ofCode (aD w), s1 := .ofCode (aS1 w),
        imm := BitVec.ofNat 32 (iImm w) })

/-- The bits of IMM above the shift amount must be zero (spec 06, R140). -/
def decShi (mk : ShiArgs → Instr) (w : Nat) : Dec :=
  (opnd 0 (dstWd (iWide w)) (aD w) ++ opnd 1 (srcW (iWide w)) (aS1 w)
     ++ need (iImm w < (if iWide w then 64 else 32)) 6,
   mk { h := hdrOf w, wide := iWide w, d := .ofCode (aD w), s1 := .ofCode (aS1 w), sh := Fin.ofNat 64 (iImm w) })

def decSrrd (w : Nat) : Dec :=
  (opnd 0 (if iWide w then .dstWP else .dstW) (aD w) ++ unused (aS1 w) ++ need (iImm w < 1024) 6,
   .srrd { h := hdrOf w, wide := iWide w, d := .ofCode (aD w), idx := Fin.ofNat 1024 (iImm w) })

def decSrwr (w : Nat) : Dec :=
  (unused (aD w) ++ opnd 1 (srcW (iWide w)) (aS1 w) ++ need (iImm w < 1024) 6,
   .srwr { h := hdrOf w, wide := iWide w, s1 := .ofCode (aS1 w), idx := Fin.ofNat 1024 (iImm w) })

def decTrap (mk : TrapArgs → Instr) (w : Nat) : Dec :=
  (unused (aD w) ++ unused (aS1 w) ++ unused (fl w 32 32), mk { h := hdrOf w, imm := BitVec.ofNat 32 (iImm w) })

/-! ### Format B -/

def decBra (w : Nat) : Dec :=
  (unused (aD w) ++ unused (aS1 w) ++ reserved (fl w 32 32), .bra { h := hdrOf w, off := BitVec.ofNat 32 (iImm w) })

def decBrx (w : Nat) : Dec :=
  (unused (aD w) ++ opnd 1 .genP (aS1 w) ++ reserved (fl w 32 32) ++ unused (iImm w),
   .brx { h := hdrOf w, t := .ofCode (aS1 w) })

def decCall (w : Nat) : Dec :=
  (opnd 0 .dstP (aD w) ++ unused (aS1 w) ++ reserved (fl w 32 32),
   .call { h := hdrOf w, link := .ofCode (aD w), off := BitVec.ofNat 32 (iImm w) })

def decCallx (w : Nat) : Dec :=
  (opnd 0 .dstP (aD w) ++ opnd 1 .genP (aS1 w) ++ reserved (fl w 32 32) ++ unused (iImm w),
   .callx { h := hdrOf w, link := .ofCode (aD w), t := .ofCode (aS1 w) })

def decRet (w : Nat) : Dec :=
  (unused (aD w) ++ unused (aS1 w) ++ reserved (fl w 32 32) ++ unused (iImm w), .ret { h := hdrOf w })

/-! ### Format M -/

def mRec (w : Nat) : Nat := fl w 32 29
def mOff (w : Nat) : Nat := fl w 28 13
def mStr (w : Nat) : Nat := fl w 12 9
def mWid (w : Nat) : Nat := fl w 8 6
def mCac (w : Nat) : Nat := fl w 5 4
def mSub (w : Nat) : Nat := fl w 3 0

def memOf (w : Nat) : MemOp :=
  { ix := .ofCode (aS1 w), brec := Fin.ofNat 16 (mRec w), off := BitVec.ofNat 16 (mOff w),
    str := Fin.ofNat 16 (mStr w) }

/-- WIDTH and CACHE must hold listed values (spec 17, R388, D 3). -/
def widthIn (lo hi w : Nat) : List Nat := need (lo ≤ mWid w && mWid w ≤ hi) 3
def cacheTo (n w : Nat) : List Nat := need (mCac w ≤ n) 3

def decLd (mk : LdArgs → Instr) (w : Nat) : Dec :=
  (widthIn 0 4 w ++ cacheTo 2 w ++ opnd 0 (dstM (.ofCode (mWid w))) (aD w) ++ opnd 1 .src (aS1 w)
     ++ need (mSub w == 0 || mSub w == 1 && mWid w ≤ 1) 4,
   mk { h := hdrOf w, sx := mSub w == 1, width := .ofCode (mWid w), cache := .ofCode (mCac w), d := .ofCode (aD w),
        m := memOf w })

def decSt (w : Nat) : Dec :=
  (widthIn 0 4 w ++ cacheTo 2 w ++ opnd 0 (srcM (.ofCode (mWid w))) (aD w) ++ opnd 1 .src (aS1 w) ++ unused (mSub w),
   .st { h := hdrOf w, width := .ofCode (mWid w), cache := .ofCode (mCac w), data := .ofCode (aD w), m := memOf w })

def decLds (w : Nat) : Dec :=
  (widthIn 0 4 w ++ cacheTo 0 w ++ opnd 0 (dstM (.ofCode (mWid w))) (aD w) ++ opnd 1 .src (aS1 w)
     ++ need (mSub w == 0 || mSub w == 1 && mWid w ≤ 1) 4,
   .lds { h := hdrOf w, sx := mSub w == 1, width := .ofCode (mWid w), d := .ofCode (aD w), m := memOf w })

def decSts (w : Nat) : Dec :=
  (widthIn 0 4 w ++ cacheTo 0 w ++ opnd 0 (srcM (.ofCode (mWid w))) (aD w) ++ opnd 1 .src (aS1 w) ++ unused (mSub w),
   .sts { h := hdrOf w, width := .ofCode (mWid w), d := .ofCode (aD w), m := memOf w })

def decLdws (w : Nat) : Dec :=
  (widthIn 2 4 w ++ cacheTo 0 w ++ opnd 0 (dstM (.ofCode (mWid w))) (aD w) ++ opnd 1 .src (aS1 w) ++ unused (mSub w),
   .ldws { h := hdrOf w, width := .ofCode (mWid w), d := .ofCode (aD w), m := memOf w })

/-! Atomics narrow OFFSET (spec 06, R143). -/

def tOff (w : Nat) : Nat := fl w 28 21
def tScope (w : Nat) : Nat := fl w 20 17
def tOrder (w : Nat) : Nat := fl w 16 15

def mem8Of (w : Nat) : MemOp8 :=
  { ix := .ofCode (aS1 w), brec := Fin.ofNat 16 (mRec w), off := BitVec.ofNat 8 (tOff w),
    str := Fin.ofNat 16 (mStr w) }

/-- SCOPE 8 to 15, and SCOPE 0 with an order, are reserved (spec 17, R388, D 5); so are bits [14:13]. -/
def atomViol (w : Nat) : List Nat :=
  need (tScope w < 8 && (tScope w != 0 || tOrder w == 0)) 5 ++ reserved (fl w 14 13) ++ opnd 1 .src (aS1 w)

def decAtom (w : Nat) : Dec :=
  (atomViol w ++ widthIn 2 3 w ++ cacheTo 1 w ++ opnd 0 (atomD (mCac w == 1) (mWid w == 3)) (aD w) ++ need (mSub w < 11) 4,
   .atom { h := hdrOf w, nr := mCac w == 1, wide := mWid w == 3, op := .ofCode (mSub w), d := .ofCode (aD w),
           m := mem8Of w, scope := .ofCode (tScope w), order := .ofCode (tOrder w) })

def decAtoms (w : Nat) : Dec :=
  (atomViol w ++ widthIn 2 3 w ++ cacheTo 0 w ++ opnd 0 (dstWd (mWid w == 3)) (aD w) ++ need (mSub w < 11) 4,
   .atoms { h := hdrOf w, wide := mWid w == 3, op := .ofCode (mSub w), d := .ofCode (aD w), m := mem8Of w,
            scope := .ofCode (tScope w), order := .ofCode (tOrder w) })

def decAtomf (w : Nat) : Dec :=
  (atomViol w ++ widthIn 2 2 w ++ cacheTo 1 w ++ opnd 0 (atomD (mCac w == 1) false) (aD w) ++ need (mSub w < 4) 4,
   .atomf { h := hdrOf w, nr := mCac w == 1, op := .ofCode (mSub w), d := .ofCode (aD w), m := mem8Of w,
            scope := .ofCode (tScope w), order := .ofCode (tOrder w) })

def decCas (mk : CasArgs → Instr) (w : Nat) : Dec :=
  (atomViol w ++ widthIn 2 2 w ++ cacheTo 0 w ++ opnd 0 .genP (aD w) ++ unused (mSub w),
   mk { h := hdrOf w, d := .ofCode (aD w), m := mem8Of w, scope := .ofCode (tScope w), order := .ofCode (tOrder w) })

def decBrld (w : Nat) : Dec :=
  (unused (aD w) ++ widthIn 4 4 w ++ cacheTo 2 w ++ opnd 1 .src (aS1 w),
   .brld { h := hdrOf w, target := Fin.ofNat 16 (mSub w), cache := .ofCode (mCac w), m := memOf w })

def decBrset (w : Nat) : Dec :=
  (opnd 0 .genQ (aD w) ++ widthIn 4 4 w ++ cacheTo 0 w ++ unused (aS1 w) ++ unused (mRec w) ++ unused (mOff w)
     ++ unused (mStr w),
   .brset { h := hdrOf w, target := Fin.ofNat 16 (mSub w), q := .ofCode (aD w) })

def decWaiteq (w : Nat) : Dec :=
  (widthIn 2 3 w ++ cacheTo 0 w ++ opnd 0 (srcW (mWid w == 3)) (aD w) ++ opnd 1 .src (aS1 w) ++ need (mSub w < 8) 4,
   .waiteq { h := hdrOf w, ne := mSub w % 2 == 1, acq := mSub w / 2 % 2 == 1, scr := mSub w / 4 % 2 == 1,
             wide := mWid w == 3, d := .ofCode (aD w), m := memOf w })

/-! ### Formats S and W -/

def sId (w : Nat) : Nat := fl w 32 27
def sScope (w : Nat) : Nat := fl w 26 23
def sSm (w : Nat) : Nat := fl w 22 7
def sPaths (w : Nat) : Nat := fl w 6 2
def sSop (w : Nat) : Nat := fl w 1 0

def decSync (mk : SyncArgs → Instr) (dc : Cls) (w : Nat) : Dec :=
  (opnd 0 (if sSop w == 1 then .genP else dc) (aD w) ++ opnd 1 .src (aS1 w) ++ reserved (sId w / 32)
     ++ need (1 ≤ sScope w && sScope w < 8) 5 ++ need (sSop w < 2) 4,
   mk { h := hdrOf w, wide := sSop w == 1, scr := sId w / 16 % 2 == 1, d := .ofCode (aD w), ix := .ofCode (aS1 w),
        brec := Fin.ofNat 16 (sId w % 16), scope := .ofCode (sScope w), smask := BitVec.ofNat 16 (sSm w),
        paths := BitVec.ofNat 5 (sPaths w) })

def decFence (w : Nat) : Dec :=
  (unused (aD w) ++ unused (aS1 w) ++ unused (sId w) ++ unused (sScope w) ++ unused (sPaths w) ++ unused (sSop w),
   .fence { h := hdrOf w, smask := BitVec.ofNat 16 (sSm w) })

def decFencex (w : Nat) : Dec :=
  (unused (aD w) ++ unused (aS1 w) ++ unused (sId w) ++ unused (sScope w) ++ unused (sSop w),
   .fencex { h := hdrOf w, smask := BitVec.ofNat 16 (sSm w), paths := BitVec.ofNat 5 (sPaths w) })

/-- ID[5:4] are reserved bits, SCOPE is 2, SOP[1] is 0 (spec 06, R145; spec 08, R192). -/
def barViol (w : Nat) : List Nat :=
  unused (aD w) ++ opnd 1 .src (aS1 w) ++ reserved (sId w / 16) ++ need (sScope w == 2) 5 ++ unused (sSm w)
    ++ need (sSop w < 2) 4

def decBar (w : Nat) : Dec :=
  (barViol w ++ unused (sPaths w),
   .bar { h := hdrOf w, ph := sSop w == 1, cnt := .ofCode (aS1 w), id := Fin.ofNat 16 (sId w) })

def decBarx (w : Nat) : Dec :=
  (barViol w,
   .barx { h := hdrOf w, ph := sSop w == 1, cnt := .ofCode (aS1 w), id := Fin.ofNat 16 (sId w),
           paths := BitVec.ofNat 5 (sPaths w) })

def decWaitc (w : Nat) : Dec :=
  (reserved (fl w 26 0),
   .waitc { h := hdrOf w, nld := Fin.ofNat 64 (fl w 50 45), nst := Fin.ofNat 64 (fl w 44 39),
            ncp := Fin.ofNat 64 (fl w 38 33), ntl := Fin.ofNat 64 (fl w 32 27) })

/-- The ring instructions: SCOPE is 3 (spec 08, R192). -/
def ringViol (w : Nat) : List Nat :=
  opnd 1 .src (aS1 w) ++ unused (sId w) ++ need (sScope w == 3) 5 ++ unused (sSm w) ++ unused (sSop w)

def decRingGet (mk : RingGetArgs → Instr) (w : Nat) : Dec :=
  (opnd 0 .dst (aD w) ++ ringViol w,
   mk { h := hdrOf w, d := .ofCode (aD w), a := .ofCode (aS1 w), paths := BitVec.ofNat 5 (sPaths w) })

def decRingPut (mk : RingPutArgs → Instr) (w : Nat) : Dec :=
  (unused (aD w) ++ ringViol w, mk { h := hdrOf w, a := .ofCode (aS1 w), paths := BitVec.ofNat 5 (sPaths w) })

def decColl (w : Nat) : Dec :=
  (opnd 0 .src (aD w) ++ opnd 1 .src (aS1 w) ++ need (sScope w == 5 || sScope w == 6) 5 ++ unused (sSm w)
     ++ unused (sPaths w),
   .coll { h := hdrOf w, op := .ofCode (sSop w), dom := sScope w == 6, buf := .ofCode (aD w), ctl := .ofCode (aS1 w),
           set := Fin.ofNat 64 (sId w) })

/-- The fields of format S that the task opcodes leave unused. -/
def taskViol (w : Nat) : List Nat := unused (sScope w) ++ unused (sSm w) ++ unused (sPaths w)

def decTask0 (mk : H0 → Instr) (w : Nat) : Dec :=
  (unused (aD w) ++ unused (aS1 w) ++ unused (sId w) ++ taskViol w ++ unused (sSop w), mk { h := hdrOf w })

def decTask2 (mk : Ab → Instr) (ac bc : Cls) (w : Nat) : Dec :=
  (opnd 0 ac (aD w) ++ opnd 1 bc (aS1 w) ++ unused (sId w) ++ taskViol w ++ unused (sSop w),
   mk { h := hdrOf w, a := .ofCode (aD w), b := .ofCode (aS1 w) })

def decDepinit (w : Nat) : Dec :=
  (opnd 0 .genP (aD w) ++ opnd 1 .genP (aS1 w) ++ unused (sId w) ++ taskViol w ++ need (sSop w < 2) 4,
   if sSop w == 1 then .depinitSelf { h := hdrOf w, a := .ofCode (aD w), b := .ofCode (aS1 w) }
   else .depinit { h := hdrOf w, a := .ofCode (aD w), b := .ofCode (aS1 w) })

def decDepdec (w : Nat) : Dec :=
  (opnd 0 .genP (aD w) ++ unused (aS1 w) ++ unused (sId w) ++ taskViol w ++ unused (sSop w),
   .depdec { h := hdrOf w, a := .ofCode (aD w) })

def decGcall (w : Nat) : Dec :=
  (unused (aD w) ++ opnd 1 .src (aS1 w) ++ taskViol w ++ unused (sSop w),
   .gcall { h := hdrOf w, cnt := .ofCode (aS1 w), gate := Fin.ofNat 64 (sId w) })

/-! ### Format X -/

def xAcc (w : Nat) : Nat := fl w 50 47
def xSlot (w : Nat) : Nat := fl w 46 44
def xRec (w : Nat) : Nat := fl w 43 40
def xIx (w : Nat) : Nat := fl w 39 31
def xState (w : Nat) : Nat := fl w 30 22
def xScale (w : Nat) : Nat := fl w 21 13
def xMod (w : Nat) : Nat := fl w 12 8
def xStr (w : Nat) : Nat := fl w 7 4
def xSub (w : Nat) : Nat := fl w 3 0

def decLdstat (mk : LdstatArgs → Instr) (w : Nat) : Dec :=
  (unused (xAcc w) ++ opnd 6 .src (xIx w) ++ unused (xState w) ++ opnd 5 .genQ (xScale w) ++ unused (xMod w)
     ++ unused (xSub w),
   mk { h := hdrOf w, slot := Fin.ofNat 8 (xSlot w), brec := Fin.ofNat 16 (xRec w), ix := .ofCode (xIx w),
        sc := .ofCode (xScale w), str := Fin.ofNat 16 (xStr w) })

def decSwappl (w : Nat) : Dec :=
  (unused (xAcc w) ++ unused (xSlot w) ++ unused (xRec w) ++ unused (xIx w) ++ unused (xState w)
     ++ unused (xScale w) ++ unused (xMod w) ++ unused (xStr w) ++ unused (xSub w), .swappl { h := hdrOf w })

def decMstream (mk : MstreamArgs → Instr) (sc : Cls) (w : Nat) : Dec :=
  (opnd 6 .src (xIx w) ++ opnd 4 .gen (xState w) ++ opnd 5 sc (xScale w) ++ need (xMod w < 2) 4 ++ unused (xSub w),
   mk { h := hdrOf w, z := xMod w == 1, acc := Fin.ofNat 16 (xAcc w), slot := Fin.ofNat 8 (xSlot w),
        brec := Fin.ofNat 16 (xRec w), ix := .ofCode (xIx w), gp := .ofCode (xState w), sc := .ofCode (xScale w),
        str := Fin.ofNat 16 (xStr w) })

def decMstreamc (w : Nat) : Dec :=
  (opnd 6 .src (xIx w) ++ opnd 4 .gen (xState w) ++ opnd 5 .srcP (xScale w) ++ unused (xMod w) ++ unused (xSub w),
   .mstreamc { h := hdrOf w, acc := Fin.ofNat 16 (xAcc w), slot := Fin.ofNat 8 (xSlot w),
               brec := Fin.ofNat 16 (xRec w), ix := .ofCode (xIx w), gp := .ofCode (xState w),
               sc := .ofCode (xScale w), str := Fin.ofNat 16 (xStr w) })

def decMckv (w : Nat) : Dec :=
  let a : MckvArgs := { h := hdrOf w, acc := Fin.ofNat 16 (xAcc w), d := .ofCode (xState w) }
  (unused (xSlot w) ++ unused (xRec w) ++ unused (xIx w) ++ opnd 4 .genQ (xState w) ++ unused (xScale w)
     ++ unused (xMod w) ++ unused (xStr w) ++ need (xSub w < 3) 4,
   match xSub w with
   | 0 => .mckvChk a
   | 1 => .mckvFix a
   | _ => .mckvBase a)

def decAccz (w : Nat) : Dec :=
  let a : AcczArgs := { h := hdrOf w, acc := Fin.ofNat 16 (xAcc w) }
  (unused (xSlot w) ++ unused (xRec w) ++ unused (xIx w) ++ unused (xState w) ++ unused (xScale w)
     ++ need (xMod w < 2) 4 ++ unused (xStr w) ++ unused (xSub w),
   if xMod w == 1 then .acczAll a else .accz a)

def decAccrw (mk : AccrwArgs → Instr) (w : Nat) : Dec :=
  (unused (xSlot w) ++ unused (xRec w) ++ opnd 6 .src (xIx w) ++ opnd 4 (clsN (.ofCode (xSub w))) (xState w)
     ++ unused (xScale w) ++ unused (xMod w) ++ unused (xStr w) ++ need (xSub w < 3) 4,
   mk { h := hdrOf w, n := .ofCode (xSub w), acc := Fin.ofNat 16 (xAcc w), ix := .ofCode (xIx w),
        d := .ofCode (xState w) })

def decAccld (w : Nat) : Dec :=
  (unused (xSlot w) ++ opnd 6 .src (xIx w) ++ unused (xState w) ++ unused (xScale w) ++ need (xMod w < 2) 4
     ++ unused (xSub w),
   .accld { h := hdrOf w, scr := xMod w == 1, acc := Fin.ofNat 16 (xAcc w), brec := Fin.ofNat 16 (xRec w),
            ix := .ofCode (xIx w), str := Fin.ofNat 16 (xStr w) })

def decAccst (w : Nat) : Dec :=
  (opnd 6 .src (xIx w) ++ unused (xState w) ++ unused (xScale w) ++ need (xMod w < 2) 4 ++ unused (xSub w),
   .accst { h := hdrOf w, scr := xMod w == 1, acc := Fin.ofNat 16 (xAcc w), slot := Fin.ofNat 8 (xSlot w),
            brec := Fin.ofNat 16 (xRec w), ix := .ofCode (xIx w), str := Fin.ofNat 16 (xStr w) })

def decAccscl (w : Nat) : Dec :=
  if xSub w == 0 then
    (unused (xRec w) ++ unused (xIx w) ++ unused (xState w) ++ opnd 5 .src (xScale w) ++ unused (xMod w)
       ++ unused (xStr w),
     .accsclRow { h := hdrOf w, acc := Fin.ofNat 16 (xAcc w), slot := Fin.ofNat 8 (xSlot w),
                  sc := .ofCode (xScale w) })
  else
    (need (xSub w == 1) 4 ++ opnd 6 .src (xIx w) ++ unused (xState w) ++ unused (xScale w) ++ unused (xMod w),
     .accsclCol { h := hdrOf w, acc := Fin.ofNat 16 (xAcc w), slot := Fin.ofNat 8 (xSlot w),
                  brec := Fin.ofNat 16 (xRec w), ix := .ofCode (xIx w), str := Fin.ofNat 16 (xStr w) })

def decAccred (w : Nat) : Dec :=
  if xSub w == 2 then
    (unused (xRec w) ++ unused (xIx w) ++ unused (xState w) ++ unused (xScale w) ++ need (xMod w < 16) 4
       ++ unused (xStr w),
     .accredTile { h := hdrOf w, acc := Fin.ofNat 16 (xAcc w), slot := Fin.ofNat 8 (xSlot w),
                   src := Fin.ofNat 16 (xMod w) })
  else
    let a : AccredArgs := { h := hdrOf w, acc := Fin.ofNat 16 (xAcc w), slot := Fin.ofNat 8 (xSlot w),
                            d := .ofCode (xState w) }
    (need (xSub w < 2) 4 ++ unused (xRec w) ++ unused (xIx w) ++ opnd 4 .gen (xState w) ++ unused (xScale w)
       ++ unused (xMod w) ++ need (xMod w < 16) 4 ++ unused (xStr w),
     if xSub w == 0 then .accredSum a else .accredMax a)

def decMdld (w : Nat) : Dec :=
  (unused (xAcc w) ++ unused (xSlot w) ++ opnd 6 .src (xIx w) ++ unused (xState w) ++ unused (xScale w)
     ++ unused (xMod w) ++ unused (xSub w),
   .mdld { h := hdrOf w, brec := Fin.ofNat 16 (xRec w), ix := .ofCode (xIx w), str := Fin.ofNat 16 (xStr w) })

/-! ### Format G -/

def gRa (w : Nat) : Nat := fl w 41 38
def gRb (w : Nat) : Nat := fl w 37 34
def gRc (w : Nat) : Nat := fl w 33 30
def gOpx (w : Nat) : Nat := fl w 29 21
def gEnt (w : Nat) : Nat := fl w 20 13
def gStr (w : Nat) : Nat := fl w 12 9
def gMod (w : Nat) : Nat := fl w 8 5

/-- SBASE names a general register, and bits [4:0] are reserved (spec 06, R148). -/
def gViol (w : Nat) : List Nat := opnd 0 .gen (aD w) ++ reserved (fl w 4 0)

def decCopy (w : Nat) : Dec :=
  (gViol w ++ unused (gRc w) ++ opnd 5 .gen (gOpx w) ++ unused (gEnt w) ++ need (gMod w < 4) 4,
   .copy { h := hdrOf w, sb := .ofCode (aD w), ra := Fin.ofNat 16 (gRa w), rb := Fin.ofNat 16 (gRb w),
           tok := .ofCode (gOpx w), ss := gMod w % 2 == 1, sd := gMod w / 2 == 1, str := Fin.ofNat 16 (gStr w) })

def decCopyw (w : Nat) : Dec :=
  (gViol w ++ unused (gRc w) ++ opnd 5 .gen (gOpx w) ++ unused (gEnt w) ++ need (gMod w < 2) 4,
   .copyw { h := hdrOf w, sb := .ofCode (aD w), ra := Fin.ofNat 16 (gRa w), rb := Fin.ofNat 16 (gRb w),
            tok := .ofCode (gOpx w), ss := gMod w == 1, str := Fin.ofNat 16 (gStr w) })

/-- `PREF` names an index register in SBASE, which must be a general register (spec 08, R192; spec 06, R148). -/
def decPref (w : Nat) : Dec :=
  (opnd 0 .gen (aD w) ++ reserved (fl w 4 0) ++ unused (gRb w) ++ unused (gRc w) ++ unused (gOpx w)
     ++ unused (gEnt w) ++ unused (gStr w) ++ need (gMod w < 2) 4,
   .pref { h := hdrOf w, ix := .ofCode (aD w), brec := Fin.ofNat 16 (gRa w), l1 := gMod w == 1 })

def decRastri (w : Nat) : Dec :=
  (gViol w ++ unused (gRc w) ++ opnd 5 .src (gOpx w) ++ unused (gEnt w) ++ need (gMod w < 8) 4,
   .rastri { h := hdrOf w, sb := .ofCode (aD w), ra := Fin.ofNat 16 (gRa w), rb := Fin.ofNat 16 (gRb w),
             tri := .ofCode (gOpx w), df := .ofCode (gMod w % 4), cull := gMod w / 4 == 1,
             str := Fin.ofNat 16 (gStr w) })

def decTraverse (w : Nat) : Dec :=
  (gViol w ++ unused (gRc w) ++ unused (gOpx w) ++ unused (gEnt w) ++ need (gMod w < 2) 4,
   .traverse { h := hdrOf w, sb := .ofCode (aD w), ra := Fin.ofNat 16 (gRa w), rb := Fin.ofNat 16 (gRb w),
               gather := gMod w == 1, str := Fin.ofNat 16 (gStr w) })

def decFilter (w : Nat) : Dec :=
  (gViol w ++ unused (gRb w) ++ unused (gRc w) ++ unused (gOpx w) ++ unused (gEnt w) ++ need (gMod w < 2) 4,
   .filter { h := hdrOf w, sb := .ofCode (aD w), ra := Fin.ofNat 16 (gRa w), lod := gMod w == 1,
             str := Fin.ofNat 16 (gStr w) })

def decOblend (w : Nat) : Dec :=
  (gViol w ++ unused (gRc w) ++ opnd 5 .src (gOpx w) ++ unused (gEnt w) ++ need (gMod w < 4) 4,
   .oblend { h := hdrOf w, sb := .ofCode (aD w), ra := Fin.ofNat 16 (gRa w), rb := Fin.ofNat 16 (gRb w),
             zsrc := .ofCode (gOpx w), df := .ofCode (gMod w), str := Fin.ofNat 16 (gStr w) })

def blkRecOf (w : Nat) : BlkRecArgs :=
  { h := hdrOf w, sb := .ofCode (aD w), ra := Fin.ofNat 16 (gRa w), str := Fin.ofNat 16 (gStr w) }

def decBlkRec (mk : BlkRecArgs → Instr) (w : Nat) : Dec :=
  (gViol w ++ unused (gRb w) ++ unused (gRc w) ++ unused (gOpx w) ++ unused (gEnt w) ++ unused (gMod w),
   mk (blkRecOf w))

def decGqpush (w : Nat) : Dec :=
  (gViol w ++ unused (gRb w) ++ unused (gRc w) ++ unused (gOpx w) ++ unused (gEnt w) ++ need (gMod w < 2) 4,
   if gMod w == 1 then .gqpushClose (blkRecOf w) else .gqpush (blkRecOf w))

def decHitsort (w : Nat) : Dec :=
  (gViol w ++ unused (gRa w) ++ unused (gRb w) ++ unused (gRc w) ++ unused (gOpx w) ++ unused (gEnt w)
     ++ unused (gStr w) ++ unused (gMod w), .hitsort { h := hdrOf w, sb := .ofCode (aD w) })

def decAnyhit (w : Nat) : Dec :=
  let a : AnyhitArgs := { h := hdrOf w, sb := .ofCode (aD w), rb := Fin.ofNat 16 (gRb w), x := .ofCode (gOpx w),
                          str := Fin.ofNat 16 (gStr w) }
  (gViol w ++ unused (gRa w) ++ unused (gRc w) ++ unused (gEnt w) ++ need (gMod w < 4) 4
     ++ (if gMod w % 4 == 3 then unused (gOpx w) else opnd 5 (if gMod w % 4 == 0 then .genQ else .src) (gOpx w)),
   match gMod w with
   | 0 => .anyhitNext a
   | 1 => .anyhitAcc a
   | 2 => .anyhitTerm a
   | _ => .anyhitCommit { h := hdrOf w, sb := .ofCode (aD w), rb := Fin.ofNat 16 (gRb w),
                          str := Fin.ofNat 16 (gStr w) })

def decHizq (w : Nat) : Dec :=
  (gViol w ++ unused (gRb w) ++ unused (gRc w) ++ unused (gOpx w) ++ unused (gEnt w) ++ need (gMod w < 4) 4,
   .hizq { h := hdrOf w, sb := .ofCode (aD w), ra := Fin.ofNat 16 (gRa w), df := .ofCode (gMod w),
           str := Fin.ofNat 16 (gStr w) })

def decMacro (w : Nat) : Dec :=
  (gViol w ++ opnd 5 .src (gOpx w),
   .macroPrim { h := hdrOf w, sb := .ofCode (aD w), ra := Fin.ofNat 16 (gRa w), rb := Fin.ofNat 16 (gRb w),
                rc := Fin.ofNat 16 (gRc w), x := .ofCode (gOpx w), entry := Fin.ofNat 256 (gEnt w),
                gmod := Fin.ofNat 16 (gMod w), str := Fin.ofNat 16 (gStr w) })

def decBop (w : Nat) : Dec :=
  (gViol w ++ opnd 5 .src (gOpx w) ++ unused (gEnt w),
   .bop { h := hdrOf w, n := Fin.ofNat 16 (fl w 59 56), sb := .ofCode (aD w), ra := Fin.ofNat 16 (gRa w),
          rb := Fin.ofNat 16 (gRb w), rc := Fin.ofNat 16 (gRc w), x := .ofCode (gOpx w),
          gmod := Fin.ofNat 16 (gMod w), str := Fin.ofNat 16 (gStr w) })

/-! ### Format Y -/

def yIdx (w : Nat) : Nat := fl w 32 23
def yRec (w : Nat) : Nat := fl w 22 19
def ySub (w : Nat) : Nat := fl w 18 11
def yImm (w : Nat) : Nat := fl w 10 0

def yViol (w : Nat) : List Nat := unused (yIdx w) ++ unused (yRec w) ++ unused (yImm w)

def abOf (w : Nat) : Ab := { h := hdrOf w, a := .ofCode (aD w), b := .ofCode (aS1 w) }
def axOf (w : Nat) : Ax := { h := hdrOf w, a := .ofCode (aD w) }

def decEret (w : Nat) : Dec :=
  (yViol w ++ unused (aD w) ++ unused (aS1 w) ++ need (ySub w < 4) 4,
   match ySub w with
   | 0 => .eretRetry { h := hdrOf w }
   | 1 => .eretSkip { h := hdrOf w }
   | 2 => .eretExit { h := hdrOf w }
   | _ => .eretExitall { h := hdrOf w })

def decSrwrp (w : Nat) : Dec :=
  (opnd 0 (srcW (ySub w == 1)) (aD w) ++ unused (aS1 w) ++ unused (yRec w) ++ unused (yImm w) ++ need (ySub w < 2) 4,
   .srwrp { h := hdrOf w, wide := ySub w == 1, a := .ofCode (aD w), idx := Fin.ofNat 1024 (yIdx w) })

def decTlbinv (w : Nat) : Dec :=
  let two := opnd 0 .src (aD w) ++ opnd 1 .srcP (aS1 w) ++ yViol w
  let one := opnd 0 .src (aD w) ++ unused (aS1 w) ++ yViol w
  match ySub w with
  | 0 => (two, .tlbinvPage (abOf w))
  | 1 => (one, .tlbinvPasid (axOf w))
  | 2 => (two, .tlbinvIpa (abOf w))
  | 3 => (one, .tlbinvFunc (axOf w))
  | 4 => (one, .tlbinvDom (axOf w))
  | s => (need (s == 5) 4 ++ unused (aD w) ++ unused (aS1 w) ++ yViol w, .tlbinvAll { h := hdrOf w })

def decDomset (w : Nat) : Dec :=
  match ySub w with
  | 0 => (opnd 0 .src (aD w) ++ unused (aS1 w) ++ yViol w, .domsetEnd (axOf w))
  | s => (need (s == 1) 4 ++ opnd 0 .dst (aD w) ++ opnd 1 .src (aS1 w) ++ yViol w, .domsetStat (abOf w))

def decFinj (w : Nat) : Dec :=
  let one := opnd 0 .src (aD w) ++ unused (aS1 w) ++ yViol w
  let zero := unused (aD w) ++ unused (aS1 w) ++ yViol w
  match ySub w with
  | 0 => (one, .finjAcc (axOf w))
  | 1 => (one, .finjAccue (axOf w))
  | 2 => (one, .finjSpue (axOf w))
  | 3 => (unused (aD w) ++ opnd 1 .srcP (aS1 w) ++ yViol w, .finjLineue { h := hdrOf w, a := .ofCode (aS1 w) })
  | 4 => (zero, .finjReplay { h := hdrOf w })
  | s => (need (s == 5) 4 ++ zero, .finjSig { h := hdrOf w })

def decMcload (w : Nat) : Dec :=
  (opnd 0 .dst (aD w) ++ opnd 1 .srcP (aS1 w) ++ unused (ySub w) ++ yViol w, .mcload (abOf w))

def decSigcmp (w : Nat) : Dec :=
  match ySub w with
  | 0 => (opnd 0 .dst (aD w) ++ opnd 1 .srcP (aS1 w) ++ yViol w, .sigcmpCmp (abOf w))
  | s => (need (s == 1) 4 ++ opnd 0 .dstP (aD w) ++ unused (aS1 w) ++ yViol w, .sigcmpRd (axOf w))

def decHalt (w : Nat) : Dec :=
  (need (ySub w == 0) 4 ++ unused (aD w) ++ unused (aS1 w) ++ yViol w, .halt { h := hdrOf w })

/-! ### The opcode map (spec 06, R151) -/

/-- What an unassigned opcode is. -/
def decNone (w : Nat) : Dec := ([0], .unassignedOpcode (BitVec.ofNat 64 w) 0)

def dec0 (w : Nat) : Nat → Dec
  | 0x00 => decH0I .nop w
  | 0x01 => decA1 .mov (dstWd (aWide w)) (srcW (aWide w)) w
  | 0x02 => decMovi w
  | 0x03 => decMovhi w
  | 0x04 => decA2c .iadd w
  | 0x05 => decA1i .iaddi w
  | 0x06 => decA2cc .iaddc w
  | 0x07 => decA2c .isub w
  | 0x08 => decA2cc .isubb w
  | 0x09 => decA2 .imul (srcW (aWide w)) w
  | 0x0A => decA2 .imulhs (srcW (aWide w)) w
  | 0x0B => decA2 .imulhu (srcW (aWide w)) w
  | 0x0C => decB2 .imulws 0 .dstP w
  | 0x0D => decB2 .imulwu 0 .dstP w
  | 0x0E => decA3 .imad (srcW (aWide w)) w
  | _ => decLea w

def dec1 (w : Nat) : Nat → Dec
  | 0x10 => decDiv .idivs w
  | 0x11 => decDiv .idivu w
  | 0x12 => decA2 .imins (srcW (aWide w)) w
  | 0x13 => decA2 .iminu (srcW (aWide w)) w
  | 0x14 => decA2 .imaxs (srcW (aWide w)) w
  | 0x15 => decA2 .imaxu (srcW (aWide w)) w
  | 0x16 => decA1 .iabs (dstWd (aWide w)) (srcW (aWide w)) w
  | 0x17 => decA2 .and (srcW (aWide w)) w
  | 0x18 => decA1i .andi w
  | 0x19 => decA2 .or (srcW (aWide w)) w
  | 0x1A => decA1i .ori w
  | 0x1B => decA2 .xor (srcW (aWide w)) w
  | 0x1C => decA1i .xori w
  | 0x1D => decA2 .andn (srcW (aWide w)) w
  | 0x1E => decLop3 w
  | _ => decA2 .shl .src w

def dec2 (w : Nat) : Nat → Dec
  | 0x20 => decA2 .shr .src w
  | 0x21 => decA2 .sar .src w
  | 0x22 => decShi .shli w
  | 0x23 => decShi .shri w
  | 0x24 => decShi .sari w
  | 0x25 => decA2 .rotl .src w
  | 0x26 => decA1 .popc .dst (srcW (aWide w)) w
  | 0x27 => decA1 .clz .dst (srcW (aWide w)) w
  | 0x28 => decA1 .brev (dstWd (aWide w)) (srcW (aWide w)) w
  | 0x29 => decA2 .bfxs .src w
  | 0x2A => decA2 .bfxu .src w
  | 0x2B => decA3 .bfi .src w
  | 0x2C => decB3 .prmt 0 w
  | 0x2D => decSel w
  | 0x2E => decIcmp .icmps w
  | _ => decIcmp .icmpu w

def dec3 (w : Nat) : Nat → Dec
  | 0x30 => decPlop w
  | 0x31 => decKballot w
  | 0x32 => decKcnt .kpopc w
  | 0x33 => decKcnt .kfind w
  | 0x34 => decKlop w
  | 0x35 => decKset w
  | 0x36 => decA1 .wmov (if aWide w then .wPair else .wOnly) (srcW (aWide w)) w
  | 0x37 => decShfl w
  | 0x38 => decSrrd w
  | 0x39 => decSrwr w
  | 0x3A => decBra w
  | 0x3B => decBrx w
  | 0x3C => decCall w
  | 0x3D => decCallx w
  | 0x3E => decRet w
  | _ => decH0I .reform w

def dec4 (w : Nat) : Nat → Dec
  | 0x40 => decH0I .yield w
  | 0x41 => decH0I .exit w
  | 0x42 => decTrap .trap w
  | 0x43 => decTrap .bkpt w
  | 0x48 => decLd .ld w
  | 0x49 => decSt w
  | 0x4A => decLds w
  | 0x4B => decSts w
  | 0x4C => decLd .ldw w
  | 0x4D => decLdws w
  | 0x4E => decAtom w
  | 0x4F => decAtoms w
  | _ => decNone w

def dec5 (w : Nat) : Nat → Dec
  | 0x50 => decAtomf w
  | 0x51 => decCas .cas w
  | 0x52 => decCas .cass w
  | 0x53 => decSync .acq .dst w
  | 0x54 => decSync .rel .src w
  | 0x55 => decBrld w
  | 0x56 => decBrset w
  | 0x57 => decFence w
  | 0x58 => decFencex w
  | 0x59 => decBar w
  | 0x5A => decBarx w
  | 0x5B => decWaitc w
  | 0x5C => decWaiteq w
  | 0x5D => decCopy w
  | 0x5E => decCopyw w
  | _ => decPref w

def dec6 (w : Nat) : Nat → Dec
  | 0x60 => decRingGet .sracq w
  | 0x61 => decRingPut .srcommit w
  | 0x62 => decRingGet .srwait w
  | 0x63 => decRingPut .srfree w
  | 0x64 => decColl w
  | _ => decNone w

def dec7 (w : Nat) : Nat → Dec
  | 0x70 => decTask0 .allot w
  | 0x71 => decTask0 .allotrel w
  | 0x72 => decTask2 .fork .genP .gen8 w
  | 0x73 => decTask0 .sync w
  | 0x74 => decTask0 .phend w
  | 0x75 => decTask2 .tsinit .genP .genP w
  | 0x76 => decTask0 .tsrel w
  | 0x77 => decDepinit w
  | 0x78 => decDepdec w
  | 0x79 => decTask2 .tqpost .genP .src w
  | 0x7A => decGcall w
  | 0x7B => decTask0 .gret w
  | 0x7C => decTask0 .nopre w
  | 0x7D => decTask0 .preon w
  | _ => decNone w

def dec8 (w : Nat) : Nat → Dec
  | 0x80 => decB2 .fadd 2 .dst w
  | 0x81 => decB2 .fsub 2 .dst w
  | 0x82 => decB2 .fmul 2 .dst w
  | 0x83 => decB3 .ffma 2 w
  | 0x84 => decB2 .fmin 2 .dst w
  | 0x85 => decB2 .fmax 2 .dst w
  | 0x86 => decFcmp w
  | 0x87 => decB1 .frcp 2 w
  | 0x88 => decB1 .frsq 2 w
  | 0x89 => decB1 .fsqrt 2 w
  | 0x8A => decB2 .fdiv 2 .dst w
  | 0x8B => decB1 .fexp2 2 w
  | 0x8C => decB1 .flog2 2 w
  | 0x8D => decB1 .fsin 2 w
  | 0x8E => decB1 .fcos 2 w
  | _ => decFclass w

def dec9 (w : Nat) : Nat → Dec
  | 0x90 => decFrnd w
  | 0x91 => decB2 .fldexp 2 .dst w
  | 0x92 => decCvt .cvtf w
  | 0x93 => decCvt .cvtfi w
  | 0x94 => decCvt .cvtif w
  | 0x95 => decPack2 w
  | 0x96 => decUnpk2 w
  | 0x97 => decHalf2 .hadd2 w
  | 0x98 => decHalf2 .hmul2 w
  | 0x99 => decHfma2 w
  | 0x9A => decIdp4 w
  | 0x9B => decWred w
  | 0x9C => decDeriv .derivx w
  | 0x9D => decDeriv .derivy w
  | 0x9E => decInterp w
  | _ => decNone w

def decB (w : Nat) : Nat → Dec
  | 0xB0 => decLdstat .ldstat w
  | 0xB1 => decLdstat .ldstatw w
  | 0xB2 => decSwappl w
  | 0xB3 => decMstream .mstream .srcP w
  | 0xB4 => decMstream .mstreams .genQ w
  | 0xB5 => decMstreamc w
  | 0xB6 => decMckv w
  | 0xB7 => decAccz w
  | 0xB8 => decAccrw .accrd w
  | 0xB9 => decAccrw .accwr w
  | 0xBA => decAccld w
  | 0xBB => decAccst w
  | 0xBC => decAccscl w
  | 0xBD => decAccred w
  | 0xBE => decMdld w
  | _ => decNone w

def decD (w : Nat) : Nat → Dec
  | 0xD0 => decRastri w
  | 0xD1 => decTraverse w
  | 0xD2 => decFilter w
  | 0xD3 => decOblend w
  | 0xD4 => decBlkRec .shadeq w
  | 0xD5 => decHitsort w
  | 0xD6 => decAnyhit w
  | 0xD7 => decGqpush w
  | 0xD8 => decBlkRec .gqpop w
  | 0xD9 => decHizq w
  | 0xDA => decMacro w
  | _ => decNone w

def decF (w : Nat) : Nat → Dec
  | 0xF0 => decEret w
  | 0xF1 => decSrwrp w
  | 0xF2 => decTlbinv w
  | 0xF3 => decDomset w
  | 0xF4 => decFinj w
  | 0xF5 => decMcload w
  | 0xF6 => decSigcmp w
  | 0xF7 => decHalt w
  | _ => decNone w

/-- The decoder of an opcode's row of the map (spec 06, R151). -/
def decRow (w : Nat) : Dec :=
  let op := fl w 63 56
  match op / 16 with
  | 0x0 => dec0 w op
  | 0x1 => dec1 w op
  | 0x2 => dec2 w op
  | 0x3 => dec3 w op
  | 0x4 => dec4 w op
  | 0x5 => dec5 w op
  | 0x6 => dec6 w op
  | 0x7 => dec7 w op
  | 0x8 => dec8 w op
  | 0x9 => dec9 w op
  | 0xB => decB w op
  | 0xD => decD w op
  | 0xE => decBop w
  | 0xF => decF w op
  | _ => decNone w

/-- The instruction a word is (spec 06, R137): the one its row gives where the word is well formed, otherwise the
word itself with the lowest cause it meets (spec 17, R388; spec 18, R406). Whether a value of 0xE0 to 0xEF is bound
depends on the launch (R153) and is checked where the instruction issues. -/
def decode (word : IWord) : Instr :=
  match decRow word.toNat with
  | (viol, i) =>
    match lowest viol with
    | none => i
    | some c => .unassignedOpcode word (Fin.ofNat 16 c)

/-- Little-endian value of bytes (spec 00, R1). -/
def leNat : List Byte → Nat
  | [] => 0
  | b :: bs => b.toNat + 256 * leNat bs

/-- Decodes the instruction at the front of a list of bytes, the lowest address first (spec 06, R133). -/
def decodeBytes (bs : List Byte) : Option (Instr × List Byte) :=
  if bs.length < 8 then none
  else some (decode (BitVec.ofNat 64 (leNat (bs.take 8))), bs.drop 8)

/-! ### The encoder -/

/-- A bit as a number. -/
def bit (b : Bool) : Nat := if b then 1 else 0

/-- The header and opcode (spec 06, R134). -/
def encH (op : Nat) (h : Hdr) : Nat := op * 2 ^ 56 + bit h.b * 2 ^ 55 + h.guard.val * 2 ^ 52 + bit h.neg * 2 ^ 51

/-- Format A (spec 06, R138). -/
def encA (op : Nat) (h : Hdr) (d s1 s2 s3 ty sub aux mod : Nat) : Nat :=
  encH op h + d * 2 ^ 42 + s1 * 2 ^ 33 + s2 * 2 ^ 24 + s3 * 2 ^ 15 + ty * 2 ^ 11 + sub * 2 ^ 6 + aux * 2 ^ 3 + mod

/-- Format I (spec 06, R140). -/
def encI (op : Nat) (h : Hdr) (d s1 : Nat) (wide : Bool) (imm : Nat) : Nat :=
  encH op h + d * 2 ^ 42 + s1 * 2 ^ 33 + bit wide * 2 ^ 32 + imm

/-- Format M (spec 06, R141). -/
def encM (op : Nat) (h : Hdr) (data ix rec off str width cache sub : Nat) : Nat :=
  encH op h + data * 2 ^ 42 + ix * 2 ^ 33 + rec * 2 ^ 29 + off * 2 ^ 13 + str * 2 ^ 9 + width * 2 ^ 6 + cache * 2 ^ 4
    + sub

/-- Format M of an atomic (spec 06, R143). -/
def encT (op : Nat) (h : Hdr) (data : Nat) (m : MemOp8) (sc : Scope) (o : Order) (width cache sub : Nat) : Nat :=
  encH op h + data * 2 ^ 42 + m.ix.code * 2 ^ 33 + m.brec.val * 2 ^ 29 + m.off.toNat * 2 ^ 21 + sc.code * 2 ^ 17
    + o.code * 2 ^ 15 + m.str.val * 2 ^ 9 + width * 2 ^ 6 + cache * 2 ^ 4 + sub

/-- Format S (spec 06, R145). -/
def encS (op : Nat) (h : Hdr) (a b id scope smask paths sop : Nat) : Nat :=
  encH op h + a * 2 ^ 42 + b * 2 ^ 33 + id * 2 ^ 27 + scope * 2 ^ 23 + smask * 2 ^ 7 + paths * 2 ^ 2 + sop

/-- Format X (spec 06, R147). -/
def encX (op : Nat) (h : Hdr) (acc slot rec ix state scale xmod str xsub : Nat) : Nat :=
  encH op h + acc * 2 ^ 47 + slot * 2 ^ 44 + rec * 2 ^ 40 + ix * 2 ^ 31 + state * 2 ^ 22 + scale * 2 ^ 13
    + xmod * 2 ^ 8 + str * 2 ^ 4 + xsub

/-- Format G (spec 06, R148). -/
def encG (op : Nat) (h : Hdr) (sb ra rb rc opx entry str gmod : Nat) : Nat :=
  encH op h + sb * 2 ^ 42 + ra * 2 ^ 38 + rb * 2 ^ 34 + rc * 2 ^ 30 + opx * 2 ^ 21 + entry * 2 ^ 13 + str * 2 ^ 9
    + gmod * 2 ^ 5

/-- Format Y (spec 06, R149). -/
def encY (op : Nat) (h : Hdr) (a b idx sub : Nat) : Nat :=
  encH op h + a * 2 ^ 42 + b * 2 ^ 33 + idx * 2 ^ 23 + sub * 2 ^ 11

def A1.enc (op : Nat) (a : A1) : Nat := encA op a.h a.d.code a.s1.code 0 0 (bit a.wide) 0 0 0
def A2.enc (op : Nat) (a : A2) : Nat := encA op a.h a.d.code a.s1.code a.s2.code 0 (bit a.wide) 0 0 0
def A2c.enc (op : Nat) (a : A2c) : Nat := encA op a.h a.d.code a.s1.code a.s2.code 0 (bit a.wide) 0 a.co.val 0
def A2cc.enc (op : Nat) (a : A2cc) : Nat :=
  encA op a.h a.d.code a.s1.code a.s2.code 0 (bit a.wide) 0 a.co.val a.ci.val
def A3.enc (op : Nat) (a : A3) : Nat := encA op a.h a.d.code a.s1.code a.s2.code a.s3.code (bit a.wide) 0 0 0
def B1.enc (op ty : Nat) (a : B1) : Nat := encA op a.h a.d.code a.s1.code 0 0 ty 0 0 0
def B2.enc (op ty : Nat) (a : B2) : Nat := encA op a.h a.d.code a.s1.code a.s2.code 0 ty 0 0 0
def B3.enc (op ty : Nat) (a : B3) : Nat := encA op a.h a.d.code a.s1.code a.s2.code a.s3.code ty 0 0 0
def DivArgs.enc (op : Nat) (a : DivArgs) : Nat :=
  encA op a.h a.d.code a.s1.code a.s2.code 0 (bit a.wide) 0 0 (bit a.rem)
def IcmpArgs.enc (op : Nat) (a : IcmpArgs) : Nat :=
  encA op a.h a.d.code a.s1.code a.s2.code 0 (bit a.wide) (a.cc.code + a.comb.code * 8) a.pd.val a.pm.val
def KcntArgs.enc (op : Nat) (a : KcntArgs) : Nat := encA op a.h a.d.code a.m.code 0 0 0 (bit a.flag) 0 0
def CvtArgs.enc (op : Nat) (a : CvtArgs) : Nat := encA op a.h a.d.code a.s1.code 0 0 0 0 a.slot.val 0
def Half2Args.enc (op : Nat) (a : Half2Args) : Nat := encA op a.h a.d.code a.s1.code a.s2.code 0 a.ty.code 0 0 0
def PlaneArgs.enc (op : Nat) (a : PlaneArgs) : Nat :=
  match a.persp with
  | some o => encA op a.h a.d.code a.s1.code a.s2.code o.code 2 0 0 1
  | none => encA op a.h a.d.code a.s1.code a.s2.code 0 2 0 0 0
def QuadArgs.enc (op : Nat) (a : QuadArgs) : Nat :=
  encA op a.h a.d.code a.s1.code 0 0 2 (1 + bit a.fine * 2) 0 0
def DerivArgs.enc (op : Nat) : DerivArgs → Nat
  | .plane a => a.enc op
  | .quad a => a.enc op
def H0.encI (op : Nat) (a : H0) : Nat := Sys2Proof.encI op a.h 0 0 false 0
def A1i.enc (op : Nat) (a : A1i) : Nat := encI op a.h a.d.code a.s1.code a.wide a.imm.toNat
def ShiArgs.enc (op : Nat) (a : ShiArgs) : Nat := encI op a.h a.d.code a.s1.code a.wide a.sh.val
def MemOp.enc (op : Nat) (h : Hdr) (data : Nat) (m : MemOp) (width cache sub : Nat) : Nat :=
  encM op h data m.ix.code m.brec.val m.off.toNat m.str.val width cache sub
def LdArgs.enc (op : Nat) (a : LdArgs) : Nat := a.m.enc op a.h a.d.code a.width.code a.cache.code (bit a.sx)
def StsArgs.enc (op : Nat) (a : StsArgs) : Nat := a.m.enc op a.h a.d.code a.width.code 0 0
def CasArgs.enc (op : Nat) (a : CasArgs) : Nat := encT op a.h a.d.code a.m a.scope a.order 2 0 0
def SyncArgs.enc (op : Nat) (a : SyncArgs) : Nat :=
  encS op a.h a.d.code a.ix.code (a.brec.val + bit a.scr * 16) a.scope.code a.smask.toNat a.paths.toNat (bit a.wide)
def RingGetArgs.enc (op : Nat) (a : RingGetArgs) : Nat := encS op a.h a.d.code a.a.code 0 3 0 a.paths.toNat 0
def RingPutArgs.enc (op : Nat) (a : RingPutArgs) : Nat := encS op a.h 0 a.a.code 0 3 0 a.paths.toNat 0
def H0.encS (op : Nat) (a : H0) : Nat := Sys2Proof.encS op a.h 0 0 0 0 0 0 0
def Ab.encS (op sop : Nat) (a : Ab) : Nat := Sys2Proof.encS op a.h a.a.code a.b.code 0 0 0 0 sop
def LdstatArgs.enc (op : Nat) (a : LdstatArgs) : Nat :=
  encX op a.h 0 a.slot.val a.brec.val a.ix.code 0 a.sc.code 0 a.str.val 0
def MstreamArgs.enc (op : Nat) (a : MstreamArgs) : Nat :=
  encX op a.h a.acc.val a.slot.val a.brec.val a.ix.code a.gp.code a.sc.code (bit a.z) a.str.val 0
def MckvArgs.enc (sub : Nat) (a : MckvArgs) : Nat := encX 0xB6 a.h a.acc.val 0 0 0 a.d.code 0 0 0 sub
def AccrwArgs.enc (op : Nat) (a : AccrwArgs) : Nat := encX op a.h a.acc.val 0 0 a.ix.code a.d.code 0 0 0 a.n.code
def AccredArgs.enc (sub : Nat) (a : AccredArgs) : Nat := encX 0xBD a.h a.acc.val a.slot.val 0 0 a.d.code 0 0 0 sub
def BlkRecArgs.enc (op gmod : Nat) (a : BlkRecArgs) : Nat :=
  encG op a.h a.sb.code a.ra.val 0 0 0 0 a.str.val gmod
def AnyhitArgs.enc (gmod : Nat) (a : AnyhitArgs) : Nat :=
  encG 0xD6 a.h a.sb.code 0 a.rb.val 0 a.x.code 0 a.str.val gmod
def H0.encY (op sub : Nat) (a : H0) : Nat := Sys2Proof.encY op a.h 0 0 0 sub
def Ab.encY (op sub : Nat) (a : Ab) : Nat := Sys2Proof.encY op a.h a.a.code a.b.code 0 sub
def Ax.encY (op sub : Nat) (a : Ax) : Nat := Sys2Proof.encY op a.h a.a.code 0 0 sub

/-- The word of an encoded instruction as a number; none for an event. -/
def encodeNat : Instr → Option Nat
  | .nop a => some (a.encI 0x00)
  | .mov a => some (a.enc 0x01)
  | .movi a => some (encI 0x02 a.h a.d.code 0 a.wide a.imm.toNat)
  | .movhi a => some (encI 0x03 a.h a.d.code 0 true a.imm.toNat)
  | .iadd a => some (a.enc 0x04)
  | .iaddi a => some (a.enc 0x05)
  | .iaddc a => some (a.enc 0x06)
  | .isub a => some (a.enc 0x07)
  | .isubb a => some (a.enc 0x08)
  | .imul a => some (a.enc 0x09)
  | .imulhs a => some (a.enc 0x0A)
  | .imulhu a => some (a.enc 0x0B)
  | .imulws a => some (a.enc 0x0C 0)
  | .imulwu a => some (a.enc 0x0D 0)
  | .imad a => some (a.enc 0x0E)
  | .lea a => some (encA 0x0F a.h a.d.code a.s1.code a.s2.code 0 0 a.sh.val 0 (bit a.sx))
  | .idivs a => some (a.enc 0x10)
  | .idivu a => some (a.enc 0x11)
  | .imins a => some (a.enc 0x12)
  | .iminu a => some (a.enc 0x13)
  | .imaxs a => some (a.enc 0x14)
  | .imaxu a => some (a.enc 0x15)
  | .iabs a => some (a.enc 0x16)
  | .and a => some (a.enc 0x17)
  | .andi a => some (a.enc 0x18)
  | .or a => some (a.enc 0x19)
  | .ori a => some (a.enc 0x1A)
  | .xor a => some (a.enc 0x1B)
  | .xori a => some (a.enc 0x1C)
  | .andn a => some (a.enc 0x1D)
  | .lop3 a => some (encA 0x1E a.h a.d.code a.s1.code a.s2.code a.s3.code (bit a.wide) (a.table.val / 8)
      (a.table.val % 8) 0)
  | .shl a => some (a.enc 0x1F)
  | .shr a => some (a.enc 0x20)
  | .sar a => some (a.enc 0x21)
  | .shli a => some (a.enc 0x22)
  | .shri a => some (a.enc 0x23)
  | .sari a => some (a.enc 0x24)
  | .rotl a => some (a.enc 0x25)
  | .popc a => some (a.enc 0x26)
  | .clz a => some (a.enc 0x27)
  | .brev a => some (a.enc 0x28)
  | .bfxs a => some (a.enc 0x29)
  | .bfxu a => some (a.enc 0x2A)
  | .bfi a => some (a.enc 0x2B)
  | .prmt a => some (a.enc 0x2C 0)
  | .sel a => some (encA 0x2D a.h a.d.code a.s1.code a.s2.code 0 (bit a.wide) (bit a.neg) 0 a.ps.val)
  | .icmps a => some (a.enc 0x2E)
  | .icmpu a => some (a.enc 0x2F)
  | .plop a => some (encA 0x30 a.h 0 a.pa.val a.pb.val a.pc.val 0 (a.table.val / 8) a.pd.val (a.table.val % 8))
  | .kballot a => some (encA 0x31 a.h a.d.code a.m.code 0 0 0 (bit a.neg) 0 a.ps.val)
  | .kpopc a => some (a.enc 0x32)
  | .kfind a => some (a.enc 0x33)
  | .klop a => some (encA 0x34 a.h a.d.code a.ma.code a.mb.code a.mc.code 0 (a.table.val / 8) (a.table.val % 8) 0)
  | .kset a => some (encI 0x35 a.h a.d.code 0 false a.imm.toNat)
  | .wmov a => some (a.enc 0x36)
  | .shfl a => some (encA 0x37 a.h a.d.code a.s1.code a.s2.code a.m.code (bit a.wide) a.mode.code a.pd.val 0)
  | .srrd a => some (encI 0x38 a.h a.d.code 0 a.wide a.idx.val)
  | .srwr a => some (encI 0x39 a.h 0 a.s1.code a.wide a.idx.val)
  | .bra a => some (encI 0x3A a.h 0 0 false a.off.toNat)
  | .brx a => some (encI 0x3B a.h 0 a.t.code false 0)
  | .call a => some (encI 0x3C a.h a.link.code 0 false a.off.toNat)
  | .callx a => some (encI 0x3D a.h a.link.code a.t.code false 0)
  | .ret a => some (a.encI 0x3E)
  | .reform a => some (a.encI 0x3F)
  | .yield a => some (a.encI 0x40)
  | .exit a => some (a.encI 0x41)
  | .trap a => some (encI 0x42 a.h 0 0 false a.imm.toNat)
  | .bkpt a => some (encI 0x43 a.h 0 0 false a.imm.toNat)
  | .unassignedOpcode w _ => some w.toNat
  | .ld a => some (a.enc 0x48)
  | .st a => some (a.m.enc 0x49 a.h a.data.code a.width.code a.cache.code 0)
  | .lds a => some (a.m.enc 0x4A a.h a.d.code a.width.code 0 (bit a.sx))
  | .sts a => some (a.enc 0x4B)
  | .ldw a => some (a.enc 0x4C)
  | .ldws a => some (a.enc 0x4D)
  | .atom a => some (encT 0x4E a.h a.d.code a.m a.scope a.order (2 + bit a.wide) (bit a.nr) a.op.code)
  | .atoms a => some (encT 0x4F a.h a.d.code a.m a.scope a.order (2 + bit a.wide) 0 a.op.code)
  | .atomf a => some (encT 0x50 a.h a.d.code a.m a.scope a.order 2 (bit a.nr) a.op.code)
  | .cas a => some (a.enc 0x51)
  | .cass a => some (a.enc 0x52)
  | .acq a => some (a.enc 0x53)
  | .rel a => some (a.enc 0x54)
  | .brld a => some (a.m.enc 0x55 a.h 0 4 a.cache.code a.target.val)
  | .brset a => some (encM 0x56 a.h a.q.code 0 0 0 0 4 0 a.target.val)
  | .fence a => some (encS 0x57 a.h 0 0 0 0 a.smask.toNat 0 0)
  | .fencex a => some (encS 0x58 a.h 0 0 0 0 a.smask.toNat a.paths.toNat 0)
  | .bar a => some (encS 0x59 a.h 0 a.cnt.code a.id.val 2 0 0 (bit a.ph))
  | .barx a => some (encS 0x5A a.h 0 a.cnt.code a.id.val 2 0 a.paths.toNat (bit a.ph))
  | .waitc a => some (encH 0x5B a.h + a.nld.val * 2 ^ 45 + a.nst.val * 2 ^ 39 + a.ncp.val * 2 ^ 33
      + a.ntl.val * 2 ^ 27)
  | .waiteq a => some (a.m.enc 0x5C a.h a.d.code (2 + bit a.wide) 0 (bit a.ne + bit a.acq * 2 + bit a.scr * 4))
  | .copy a => some (encG 0x5D a.h a.sb.code a.ra.val a.rb.val 0 a.tok.code 0 a.str.val (bit a.ss + bit a.sd * 2))
  | .copyw a => some (encG 0x5E a.h a.sb.code a.ra.val a.rb.val 0 a.tok.code 0 a.str.val (bit a.ss))
  | .pref a => some (encG 0x5F a.h a.ix.code a.brec.val 0 0 0 0 0 (bit a.l1))
  | .sracq a => some (a.enc 0x60)
  | .srcommit a => some (a.enc 0x61)
  | .srwait a => some (a.enc 0x62)
  | .srfree a => some (a.enc 0x63)
  | .coll a => some (encS 0x64 a.h a.buf.code a.ctl.code a.set.val (5 + bit a.dom) 0 0 a.op.code)
  | .allot a => some (a.encS 0x70)
  | .allotrel a => some (a.encS 0x71)
  | .fork a => some (a.encS 0x72 0)
  | .sync a => some (a.encS 0x73)
  | .phend a => some (a.encS 0x74)
  | .tsinit a => some (a.encS 0x75 0)
  | .tsrel a => some (a.encS 0x76)
  | .depinit a => some (a.encS 0x77 0)
  | .depinitSelf a => some (a.encS 0x77 1)
  | .depdec a => some (encS 0x78 a.h a.a.code 0 0 0 0 0 0)
  | .tqpost a => some (a.encS 0x79 0)
  | .gcall a => some (encS 0x7A a.h 0 a.cnt.code a.gate.val 0 0 0 0)
  | .gret a => some (a.encS 0x7B)
  | .nopre a => some (a.encS 0x7C)
  | .preon a => some (a.encS 0x7D)
  | .fadd a => some (a.enc 0x80 2)
  | .fsub a => some (a.enc 0x81 2)
  | .fmul a => some (a.enc 0x82 2)
  | .ffma a => some (a.enc 0x83 2)
  | .fmin a => some (a.enc 0x84 2)
  | .fmax a => some (a.enc 0x85 2)
  | .fcmp a => some (encA 0x86 a.h a.d.code a.s1.code a.s2.code 0 2 (a.cc.code + a.comb.code * 8) a.pd.val a.pm.val)
  | .frcp a => some (a.enc 0x87 2)
  | .frsq a => some (a.enc 0x88 2)
  | .fsqrt a => some (a.enc 0x89 2)
  | .fdiv a => some (a.enc 0x8A 2)
  | .fexp2 a => some (a.enc 0x8B 2)
  | .flog2 a => some (a.enc 0x8C 2)
  | .fsin a => some (a.enc 0x8D 2)
  | .fcos a => some (a.enc 0x8E 2)
  | .fclass a => some (encA 0x8F a.h a.d.code a.s1.code 0 0 a.ty.code 0 0 0)
  | .frnd a => some (encA 0x90 a.h a.d.code a.s1.code 0 0 2 a.mode.code 0 0)
  | .fldexp a => some (a.enc 0x91 2)
  | .cvtf a => some (a.enc 0x92)
  | .cvtfi a => some (a.enc 0x93)
  | .cvtif a => some (a.enc 0x94)
  | .pack2 a => some (encA 0x95 a.h a.d.code a.s1.code a.s2.code a.s3.code 0 0 a.slot.val (bit a.hi))
  | .unpk2 a => some (encA 0x96 a.h a.d.code a.s1.code 0 0 0 0 a.slot.val (bit a.hi))
  | .hadd2 a => some (a.enc 0x97)
  | .hmul2 a => some (a.enc 0x98)
  | .hfma2 a => some (encA 0x99 a.h a.d.code a.s1.code a.s2.code a.s3.code a.ty.code 0 0 0)
  | .idp4 a => some (encA 0x9A a.h a.d.code a.s1.code a.s2.code a.s3.code 0 (bit a.sa + bit a.sb * 2) 0 0)
  | .wred a => some (encA 0x9B a.h a.d.code a.s1.code a.m.code 0 a.op.code.1 (a.op.code.2 + bit a.scan * 16) 0 0)
  | .derivx a => some (a.enc 0x9C)
  | .derivy a => some (a.enc 0x9D)
  | .interp a => some (a.enc 0x9E)
  | .ldstat a => some (a.enc 0xB0)
  | .ldstatw a => some (a.enc 0xB1)
  | .swappl a => some (encX 0xB2 a.h 0 0 0 0 0 0 0 0 0)
  | .mstream a => some (a.enc 0xB3)
  | .mstreams a => some (a.enc 0xB4)
  | .mstreamc a => some (encX 0xB5 a.h a.acc.val a.slot.val a.brec.val a.ix.code a.gp.code a.sc.code 0 a.str.val 0)
  | .mckvChk a => some (a.enc 0)
  | .mckvFix a => some (a.enc 1)
  | .mckvBase a => some (a.enc 2)
  | .accz a => some (encX 0xB7 a.h a.acc.val 0 0 0 0 0 0 0 0)
  | .acczAll a => some (encX 0xB7 a.h a.acc.val 0 0 0 0 0 1 0 0)
  | .accrd a => some (a.enc 0xB8)
  | .accwr a => some (a.enc 0xB9)
  | .accld a => some (encX 0xBA a.h a.acc.val 0 a.brec.val a.ix.code 0 0 (bit a.scr) a.str.val 0)
  | .accst a => some (encX 0xBB a.h a.acc.val a.slot.val a.brec.val a.ix.code 0 0 (bit a.scr) a.str.val 0)
  | .accsclRow a => some (encX 0xBC a.h a.acc.val a.slot.val 0 0 0 a.sc.code 0 0 0)
  | .accsclCol a => some (encX 0xBC a.h a.acc.val a.slot.val a.brec.val a.ix.code 0 0 0 a.str.val 1)
  | .accredSum a => some (a.enc 0)
  | .accredMax a => some (a.enc 1)
  | .accredTile a => some (encX 0xBD a.h a.acc.val a.slot.val 0 0 0 0 a.src.val 0 2)
  | .mdld a => some (encX 0xBE a.h 0 0 a.brec.val a.ix.code 0 0 0 a.str.val 0)
  | .rastri a => some (encG 0xD0 a.h a.sb.code a.ra.val a.rb.val 0 a.tri.code 0 a.str.val
      (a.df.code + bit a.cull * 4))
  | .traverse a => some (encG 0xD1 a.h a.sb.code a.ra.val a.rb.val 0 0 0 a.str.val (bit a.gather))
  | .filter a => some (encG 0xD2 a.h a.sb.code a.ra.val 0 0 0 0 a.str.val (bit a.lod))
  | .oblend a => some (encG 0xD3 a.h a.sb.code a.ra.val a.rb.val 0 a.zsrc.code 0 a.str.val a.df.code)
  | .shadeq a => some (a.enc 0xD4 0)
  | .hitsort a => some (encG 0xD5 a.h a.sb.code 0 0 0 0 0 0 0)
  | .anyhitNext a => some (a.enc 0)
  | .anyhitAcc a => some (a.enc 1)
  | .anyhitTerm a => some (a.enc 2)
  | .anyhitCommit a => some (encG 0xD6 a.h a.sb.code 0 a.rb.val 0 0 0 a.str.val 3)
  | .gqpush a => some (a.enc 0xD7 0)
  | .gqpushClose a => some (a.enc 0xD7 1)
  | .gqpop a => some (a.enc 0xD8 0)
  | .hizq a => some (encG 0xD9 a.h a.sb.code a.ra.val 0 0 0 0 a.str.val a.df.code)
  | .macroPrim a => some (encG 0xDA a.h a.sb.code a.ra.val a.rb.val a.rc.val a.x.code a.entry.val a.str.val a.gmod.val)
  | .bop a => some (encG (0xE0 + a.n.val) a.h a.sb.code a.ra.val a.rb.val a.rc.val a.x.code 0 a.str.val a.gmod.val)
  | .eretRetry a => some (a.encY 0xF0 0)
  | .eretSkip a => some (a.encY 0xF0 1)
  | .eretExit a => some (a.encY 0xF0 2)
  | .eretExitall a => some (a.encY 0xF0 3)
  | .srwrp a => some (encY 0xF1 a.h a.a.code 0 a.idx.val (bit a.wide))
  | .tlbinvPage a => some (a.encY 0xF2 0)
  | .tlbinvPasid a => some (a.encY 0xF2 1)
  | .tlbinvIpa a => some (a.encY 0xF2 2)
  | .tlbinvFunc a => some (a.encY 0xF2 3)
  | .tlbinvDom a => some (a.encY 0xF2 4)
  | .tlbinvAll a => some (a.encY 0xF2 5)
  | .domsetEnd a => some (a.encY 0xF3 0)
  | .domsetStat a => some (a.encY 0xF3 1)
  | .finjAcc a => some (a.encY 0xF4 0)
  | .finjAccue a => some (a.encY 0xF4 1)
  | .finjSpue a => some (a.encY 0xF4 2)
  | .finjLineue a => some (encY 0xF4 a.h 0 a.a.code 0 3)
  | .finjReplay a => some (a.encY 0xF4 4)
  | .finjSig a => some (a.encY 0xF4 5)
  | .mcload a => some (a.encY 0xF5 0)
  | .sigcmpCmp a => some (a.encY 0xF6 0)
  | .sigcmpRd a => some (a.encY 0xF6 1)
  | .halt a => some (a.encY 0xF7 0)
  | _ => none

/-- The word of an encoded instruction; none for an event, which has no encoding. -/
def encode (i : Instr) : Option IWord := (encodeNat i).map (BitVec.ofNat 64)

/-- The instruction the decoder reads from the table's bits: `nbits` of them, every bit above zero (a word is 64
bits, stored little-endian, so the table's bit numbers are the word's own). -/
def decodeTableWord (nbits w : Nat) : Option Instr :=
  (decodeBytes ((List.range 8).map (fun k => BitVec.ofNat 8 (w % 2 ^ nbits / 2 ^ (8 * k))))).map Prod.fst

end Sys2Proof
end

