-- ==== Sys2Proof/Machine/Bits.lean ====
section
/-!
DEFINITION. Bit fields, byte order, sign extension and counts: the plain helpers of the other files.
-/

namespace Sys2Proof.Machine

/-- Bits [hi:lo] of `n`. -/
def bits (n hi lo : Nat) : Nat := n / 2 ^ lo % 2 ^ (hi + 1 - lo)

/-- Bit `i` of `n`. -/
def bitAt (n i : Nat) : Bool := n.testBit i

/-- 1 for true, 0 for false. -/
def b2n (b : Bool) : Nat := if b then 1 else 0

/-- `n`, of width `w`, read as two's complement. -/
def sInt (w n : Nat) : Int := if n % 2 ^ w < 2 ^ (w - 1) then (n % 2 ^ w : Nat) else (n % 2 ^ w : Nat) - (2 ^ w : Nat)

/-- An integer modulo 2^w. -/
def wrap (w : Nat) (x : Int) : Nat := (x % (2 ^ w : Nat)).toNat

/-- The `n` low bytes of a number, least significant first (spec 00, R1). -/
def toBytes (n v : Nat) : List Byte :=
  match n with
  | 0 => []
  | k + 1 => BitVec.ofNat 8 v :: toBytes k (v / 256)

/-- The number that bytes spell, least significant first. -/
def ofBytes (l : List Byte) : Nat :=
  match l with
  | [] => 0
  | b :: r => b.toNat + 256 * ofBytes r

/-- The number of one bits among the `k` low bits of `n`. -/
def popCount (k n : Nat) : Nat :=
  match k with
  | 0 => 0
  | j + 1 => b2n (n.testBit j) + popCount j n

/-- The lowest set bit among the `k` low bits of `n`. -/
def lowBit (k n : Nat) : Option Nat := (List.range k).find? (fun i => n.testBit i)

/-- The highest set bit among the `k` low bits of `n`. -/
def highBit (k n : Nat) : Option Nat :=
  match k with
  | 0 => none
  | j + 1 => if n.testBit j then some j else highBit j n

/-- The lanes of a mask, ascending. -/
def lanesOf (m : Mask) : List Nat := (List.range 32).filter (fun i => m.getLsbD i)

/-- The mask of a list of lanes. -/
def maskOf (l : List Nat) : Mask := l.foldl (fun m i => m ||| BitVec.ofNat 32 (2 ^ i)) 0

/-- The lowest lane of a mask. -/
def lowLane (m : Mask) : Option Nat := (List.range 32).find? (fun i => m.getLsbD i)

/-- The value built from the bits that `f` gives, `n` of them. -/
def buildNat (n : Nat) (f : Nat → Bool) : Nat :=
  match n with
  | 0 => 0
  | k + 1 => b2n (f k) * 2 ^ k + buildNat k f

/-- Smallest of a list of codes. -/
def minCode (l : List Nat) : Option Nat :=
  match l with
  | [] => none
  | a :: r => match minCode r with
    | none => some a
    | some b => some (min a b)

/-- The lower 57 bits of an address. -/
def vaOf (n : Nat) : VA := BitVec.ofNat 57 n

/-- Insert `a` into a sorted list, before the first element that does not come before it. -/
def insertBy {α : Type} (le : α → α → Bool) (a : α) : List α → List α
  | [] => [a]
  | b :: r => if le a b then a :: b :: r else b :: insertBy le a r

/-- A list sorted by `le`; equal elements keep their order. -/
def sortBy {α : Type} (le : α → α → Bool) (l : List α) : List α := l.foldr (insertBy le) []

/-- `a` rounded up to a multiple of `b`, divided by `b`. -/
def ceilDiv (a b : Nat) : Nat := (a + b - 1) / b

end Sys2Proof.Machine
end

