-- ==== Sys2Proof/Machine/Map.lean ====
section
/-!
DEFINITION. Finite maps from natural numbers as lists of pairs with rising keys: plain data with one form for each
map.
-/

namespace Sys2Proof.Machine

/-- A finite map from keys to values; `Map.wf` is its canonical form. -/
abbrev Map (α : Type) := List (Nat × α)

namespace Map

variable {α : Type}

/-- The value at key `k`, if any. -/
def find (m : Map α) (k : Nat) : Option α :=
  match m with
  | [] => none
  | (a, v) :: r => if a = k then some v else find r k

/-- The value at key `k`, or `d`. -/
def get (m : Map α) (d : α) (k : Nat) : α := (Map.find m k).getD d

/-- Whether key `k` is present. -/
def has (m : Map α) (k : Nat) : Bool := (Map.find m k).isSome

/-- The map with `v` at key `k`. -/
def put (m : Map α) (k : Nat) (v : α) : Map α :=
  match m with
  | [] => [(k, v)]
  | (a, x) :: r => if k < a then (k, v) :: (a, x) :: r else if k = a then (k, v) :: r else (a, x) :: put r k v

/-- The map without key `k`. -/
def del (m : Map α) (k : Nat) : Map α := List.filter (fun p => !(p.1 == k)) m

/-- The map with the value at key `k`, if any, changed by `f`. -/
def upd (m : Map α) (k : Nat) (f : α → α) : Map α :=
  match m with
  | [] => []
  | (a, x) :: r => if a = k then (a, f x) :: r else (a, x) :: upd r k f

/-- Every value changed by `f`, which also sees the key. -/
def mapv (m : Map α) (f : Nat → α → α) : Map α := List.map (fun p => (p.1, f p.1 p.2)) m

/-- The entries that satisfy `p`. -/
def keep (m : Map α) (p : Nat → α → Bool) : Map α := List.filter (fun e => p e.1 e.2) m

/-- The keys in ascending order. -/
def keysOf (m : Map α) : List Nat := List.map Prod.fst m

/-- The values in ascending order of their keys. -/
def valsOf (m : Map α) : List α := List.map Prod.snd m

/-- The first key whose entry satisfies `p`. -/
def firstKey (m : Map α) (p : Nat → α → Bool) : Option Nat := (List.find? (fun e => p e.1 e.2) m).map Prod.fst

/-- Canonical form: the keys rise strictly. -/
def wf (m : Map α) : Bool :=
  match m with
  | [] => true
  | [_] => true
  | (a, _) :: (b, y) :: r => a < b && wf ((b, y) :: r)

/-- The map with `v` at key `k`, where an absent key reads as `d`: writing `d` removes the key. -/
def putD [DecidableEq α] (m : Map α) (d : α) (k : Nat) (v : α) : Map α :=
  if v = d then Map.del m k else Map.put m k v

end Map

end Sys2Proof.Machine
end

