-- ==== Sys2Proof/Machine/State.lean ====
section
/-!
DEFINITION. The state of the machine as plain data: every piece of state the spec gives it, the model's own fields
(`agenda`, `cur`, `freeCtr`, `nextKey`: log 1 and 2), the reasons a step can stop, and the state after reset.
-/

namespace Sys2Proof.Machine

/-! ### Why a step can stop -/

/-- Faults of the model. -/
inductive Fault where
  /-- An instruction was executed in a state in which no ready fragment issues. `step` never does so: it hands an
  encoded instruction to `exec` only for the fragment it fetched for (log 1). Safe. -/
  | noIssuer
deriving DecidableEq, Repr

/-- Refusals of the model. -/
inductive Refusal where
  /-- The instruction has no meaning in the model yet. Raised only by an arm of `exec`. Safe. -/
  | notModelled (mnemonic : String)
deriving DecidableEq, Repr

/-! ### Accesses in flight (spec 04, R103 to R112) -/

/-- Where an access lands once its address is formed and translated. -/
inductive Loc where
  /-- a byte of HBM4 or DDR-5 (spec 01, R13) -/
  | mem (pa : Nat)
  /-- a byte of a group's scratchpad (spec 04, R92) -/
  | scr (gid off : Nat)
  /-- a byte of the weight store (spec 04, R94): to read, at weight address plus die * 2^29; a write reaches both dies -/
  | ws (a : Nat)
  /-- a register of the device register space (spec 01, R13) -/
  | reg (pa : Nat)
  /-- an address of another device (spec 13, R352) -/
  | dom (pa : Nat)
  /-- an address behind a host window (spec 13, R348) -/
  | host (pa : Nat)
  /-- a non-strict access out of extent: nothing is reached (spec 18, R411) -/
  | nil
deriving DecidableEq, Repr

/-- One lane of an access in flight: its thread, lane, place, virtual or scratchpad address, and the data it carries
(a store's or atomic's operand, comparand low and new value high for a compare-and-swap). -/
structure Part where
  tid : Nat
  lane : Nat
  loc : Loc
  addr : Nat
  /-- bytes accessed -/
  len : Nat
  data : List Byte
  /-- the gate call in which the thread made it, 0 outside one: whose registers the result goes to -/
  call : Nat
deriving DecidableEq, Repr

/-- An access in flight: the instruction, its group with the address space it issued in, wave and core, path and streams, its
lanes, the accesses that local order puts before it, and when it issued. `recv` holds the buffer records the instruction
captured; `sent` says that its requests to other devices and hosts have been sent. -/
structure Flight where
  instr : Instr
  gid : Nat
  func : Nat
  pasid : Nat
  domain : Nat
  wave : Nat
  core : Nat
  path : Nat
  smask : BitVec 16
  parts : List Part
  deps : List Nat
  recv : List W128
  born : Nat
  sent : Bool
deriving DecidableEq, Repr

/-- What a fence, release or acquire leaves behind in its thread: a later access on a named path and stream waits for
the accesses of `keys`; with `samePath`, only for those on its own path (spec 04, R106; spec 08, R205). -/
structure FenceRec where
  paths : BitVec 5
  smask : BitVec 16
  keys : List (Nat × Nat)
  samePath : Bool
deriving DecidableEq, Repr

/-! ### Threads (spec 02, R22; spec 03) -/

/-- A caller's registers, predicates, call chain and stream state during a gate call, and the call it was itself in, 0 for none
(spec 02, R46; spec 08, R229). -/
structure Outer where
  call : Nat
  regs : Map W32
  saved : Map W32
  preds : BitVec 7
  chain : List VA
  pend : Map Nat
  fences : List FenceRec
  nLd : Nat
  nSt : Nat
  nCp : Nat
  nTl : Nat
  drew : List Nat
deriving DecidableEq, Repr

/-- A thread. Absent registers read zero. `place` is its wave and lane while it stands in a wave; `pc` is its next
instruction's address while it stands in none. -/
structure Thread where
  gid : Nat
  wid : W64
  regs : Map W32
  /-- carried registers at g16 and above that wait for the next `ALLOT` (spec 02, R39) -/
  saved : Map W32
  preds : BitVec 7
  chain : List VA
  pc : VA
  place : Option (Nat × Nat)
  /-- registers pending in the scoreboard, with the access or copy that writes them (spec 04, R101; spec 11, R311) -/
  pend : Map Nat
  nLd : Nat
  nSt : Nat
  nCp : Nat
  nTl : Nat
  sig : W64
  /-- the gate call the thread is in, as a key of its own, 0 outside one (spec 08, R229) -/
  call : Nat
  outer : List Outer
  /-- already passed once in the `HITSORT` under way (spec 10, R295) -/
  passed : Bool
  /-- bases of the state blocks whose `RASTRI` has written a sample of its current block (spec 10, R277; log 33) -/
  drew : List Nat
  fences : List FenceRec
  /-- held at its next issue by a gate call (spec 08, R229) -/
  held : Bool
deriving DecidableEq, Repr

/-! ### Waves and fragments (spec 02, R24 to R29; spec 17, R393 to R398) -/

/-- What a fragment that does not issue waits for: the instruction, the lanes whose guard was true, values it captured
for each lane, and further data of the wait. -/
structure Wait where
  instr : Instr
  on : Mask
  vals : Map W64
  aux : List Nat
deriving DecidableEq, Repr

/-- State of a fragment. -/
inductive FragSt where
  | ready
  | wait (w : Wait)
  /-- issued, with these lanes' guards true, and waiting for earlier accesses that come before it (spec 04, R106, R107; log 21) -/
  | before (i : Instr) (on : Mask)
  /-- parked on the fault record with this key, and the address at fault in its lowest lane (spec 04, R87) -/
  | parked (rec' addr : Nat)
deriving DecidableEq, Repr

/-- A fragment: its lanes, its address, its state, and whether it is a part of the handler fragment. -/
structure Frag where
  mask : Mask
  pc : VA
  st : FragSt
  hnd : Bool
deriving DecidableEq, Repr

/-- The handler registers of a wave (spec 03, R75; spec 17, R386, R400). -/
structure HRegs where
  cause : W32
  faultmask : W32
  badaddr : W64
  epc : W64
  decop : W32
  decfld0 : W32
  decfld1 : W32
  decfld2 : Map W32
  decfld3 : Map W32
deriving DecidableEq, Repr

/-- Handler mode (spec 17, R396): the causing fragment's faulting and held lanes at `epc`, its other lanes at the
addresses of `rest`, and whether the entry was asynchronous. -/
structure HMode where
  fault : Mask
  held : Mask
  epc : VA
  rest : List (Mask × VA)
  async : Bool
  code : Nat
deriving DecidableEq, Repr

/-- An asynchronous cause that waits for a wave (spec 17, R398): its code, the threads it names, its address. -/
structure AsyncCause where
  code : Nat
  tids : List Nat
  addr : W64
deriving DecidableEq, Repr

/-- A cause that arrived for frozen lanes (spec 17, R396). -/
structure HeldCause where
  code : Nat
  mask : Mask
  pc : VA
  addr : W64
  /-- the word of the instruction, for the decode registers -/
  word : Option IWord
deriving DecidableEq, Repr

/-- A wave. A key present in `wr` or `kr` is a set valid bit (spec 03, R60). -/
structure Wave where
  gid : Nat
  core : Nat
  slot : Nat
  wr : Map W32
  kr : Map W32
  frags : List Frag
  hr : HRegs
  handler : Option HMode
  asyncs : List AsyncCause
  ovf : Bool
  heldCauses : List HeldCause
  age : Nat
  /-- ages of lanes of their own: parked sub-groups take the cycle of their resumption (spec 11, R312) -/
  ages : Map Nat
  /-- the number of its wave entry (spec 03, R54; spec 11, R313) -/
  entry : Nat
  resident : Bool
  /-- `finj.replay` (spec 19, R450) -/
  replay : Bool
  /-- `finj.sig` (spec 19, R450) -/
  sigFlip : Bool
  /-- 0x0F4 or 0x0F5, waiting for the wave's next instruction (spec 18, R417) -/
  regionCause : Option Nat
  /-- lanes that a pre-emption or halt has chosen for eviction (spec 11, R315) -/
  draining : Bool
deriving DecidableEq, Repr

/-! ### The matrix engine -/

/-- A weight plane with the checksum column (spec 09, R249 to R254, R259): contents as bytes, format, K, scale flag
and the four scale words. -/
structure Plane where
  bytes : Map Byte
  bfmt : Nat
  k : Nat
  scale : Nat
  sb : List W32
deriving DecidableEq, Repr

/-- The matrix engine (spec 03, R68; spec 09, R249): tiles keyed tile * 2048 + row * 64 + column, planes, side memory,
row and column checksums keyed by tile, valid bits of the checksums, uncorrectable marks and those that `FINJ` made, owner. -/
structure Eng where
  owner : Option Nat
  acc : Map W32
  act : Plane
  shd : Plane
  side : Map Byte
  rc : Map W32
  cc : Map W32
  ckv : BitVec 16
  uncorr : BitVec 16
  injected : BitVec 16
deriving DecidableEq, Repr

/-! ### Groups, gangs, launches -/

/-- Kinds of role (spec 02, R34; spec 11, R304). -/
inductive RoleKind where | copy | matrix | vector | graphics
deriving DecidableEq, Repr

/-- A barrier instance (spec 08, R206): the count, if explicit; whether `BARX`, its paths, phase flag, the gate depth
at its first arrival, and the cycle of its last arrival. Its arrivals are the fragments that wait at it. -/
structure Bar where
  count : Option Nat
  barx : Bool
  paths : BitVec 5
  ph : Bool
  depth : Nat
  last : Nat
deriving DecidableEq, Repr

/-- A gate frame (spec 08, R229): what the call saved of the group, the entry's words, who takes part, and where the
frame lies: the physical address of its area, the virtual one, and its index there. -/
structure GateFrame where
  bufs : Map W128
  pc : VA
  pasid : Nat
  domain : Nat
  hvec : W64
  full : Bool
  budget : Nat
  resmask : Nat
  stkz : Bool
  stack : Nat
  stacksz : Nat
  frames : Nat
  framesVa : Nat
  index : Nat
  callee : Nat
  requesters : List Nat
  others : List Nat
deriving DecidableEq, Repr

/-- What a group that has left its core waits for (spec 02, R39, R43; spec 08, R225). -/
inductive PhaseCond where
  /-- queued -/
  | queued
  /-- its unfinished children -/
  | children
  /-- this many of its counters with a non-zero count -/
  | counters (n : Nat)
deriving DecidableEq, Repr

/-- Where a group is. -/
inductive GroupSt where
  | resident
  /-- spilled in `ALLOT` (spec 02, R38) -/
  | spilled
  /-- between phases (spec 02, R39) -/
  | phase (c : PhaseCond)
  /-- evicted whole to the context save pool (spec 11, R314) -/
  | saved
  /-- every thread has exited (spec 02, R43) -/
  | ended
deriving DecidableEq, Repr

/-- A bucket of the burr sorter (spec 10, R294): group, next address, shader key, the block's base register, threads with
their filing ticks, earliest first. -/
structure Bucket where
  gid : Nat
  pc : VA
  key : Nat
  base : Nat
  tids : List (Nat × Nat)
deriving DecidableEq, Repr

/-- A group (spec 02, R30). -/
structure Group where
  lid : Nat
  gang : Nat
  rank : Nat
  num : Nat
  role : Nat
  core : Nat
  st : GroupSt
  func : Nat
  pasid : Nat
  domain : Nat
  bufs : Map W128
  /-- the model's own: the key at the last write of a buffer record, by gate depth * 16 + record, for the order in which writes of
  two waves are issued (spec 03, R66) -/
  bufSeq : Map Nat
  scr : Map Byte
  scrPages : Nat
  /-- pages whose bytes stand at their backing place, as page and physical address (spec 04, R93) -/
  scrOut : Map Nat
  /-- poisoned lines of 128 bytes, and those that `FINJ` poisoned -/
  scrPoison : List Nat
  scrInjected : List Nat
  mcktol : W32
  mckrows : W32
  mckcols : W64
  hvec : W64
  gates : List GateFrame
  /-- the full allotment is held (spec 02, R36) -/
  full : Bool
  /-- registers of the full allotment, or of the callee's allotment during a gate call -/
  budget : Nat
  children : Nat
  bars : Map Bar
  /-- the tick the non-pre-emptible region began, and the wave that began it (spec 08, R231) -/
  noPre : Option (Nat × Nat)
  /-- the phase end of a `DEPINIT.self` is due and waits for the group's earlier accesses (spec 08, R225) -/
  ending : Bool
  tileRel : Bool
  /-- threads of matrix streams stopped between rows and not yet run to completion (spec 09, R257; spec 18, R417) -/
  stopped : List Nat
  /-- the engine's state while the group is evicted whole (spec 09, R266) -/
  savedEng : Option Eng
  /-- the group's buckets of the burr sorter while it is evicted whole (spec 02, R48) -/
  savedBuckets : List Bucket
  admSeq : Nat
  since : Nat
deriving DecidableEq, Repr

/-- Where a gang is. -/
inductive GangSt where
  /-- waits for its first admission, or for its relaunch, since this tick -/
  | waiting
  | resident
  /-- its groups are between phases -/
  | phase
  /-- evicted whole (spec 11, R314) -/
  | saved
  /-- halted under this HALTID (spec 19, R437) -/
  | halted (id : Nat)
  | ended
deriving DecidableEq, Repr

/-- A gang (spec 02, R31). `parent` is the group that forked it; `fargs` its arguments g0 to g7 when forked;
`frameArea` the cactus-stack area its frame came from. -/
structure Gang where
  lid : Nat
  num : Nat
  groups : List Nat
  die : Nat
  cluster : Nat
  st : GangSt
  relaunches : Nat
  since : Nat
  /-- when a gang of a bounded class was first refused placement, until its first issue (spec 11, R316; spec 17, R391) -/
  asked : Option Nat
  class7 : Bool
  parent : Option Nat
  fargs : List W32
  frameArea : Nat
  /-- a PAIRED gang: its twin takes the same core indices of this logical cluster (spec 19, R447) -/
  twin : Option Nat
deriving DecidableEq, Repr

/-- Who issued a launch. -/
inductive LaunchSrc where
  | queue
  | peer
  | mgmt
  /-- forked by a group of this launch (spec 08, R482) -/
  | fork (lid : Nat)
  /-- enqueued by a dependence counter set in this launch (spec 08, R483) -/
  | succ (lid : Nat)
deriving DecidableEq, Repr

/-- A launch: the engine's copy of the record and of the bound buffer records (spec 11, R304), the packet's fields
(spec 11, R301), and what the engine keeps of its life. -/
structure Launch where
  words : List W64
  binds : Map W128
  args : List W32
  func : Nat
  pasid : Nat
  domain : Nat
  lrec : Nat
  queue : Nat
  etag : Nat
  vec : Nat
  cdep : Nat
  cls : Nat
  sysPriv : Bool
  src : LaunchSrc
  /-- acceptance order (spec 11, R300) -/
  seq : Nat
  /-- the microcode binding: image version number and, for each primitive, its descriptor (spec 06, R153) -/
  binding : Option Nat
  /-- the binding has been fixed, at the first admission -/
  bound : Bool
  nextGang : Nat
  /-- gangs whose admission waits for their tile (spec 02, R44) are those at or above `nextGang` not yet offered;
  this lists the gang numbers already offered out of order -/
  offered : List Nat
  /-- a gang of it was killed for good (spec 19, R434) -/
  failed : Bool
  ended : Bool
  ord : Bool
deriving DecidableEq, Repr

/-! ### Cores -/

/-- A bin (spec 02, R24): group, next address, threads with their filing ticks, earliest first, the first tick at which it may
release a wave again (spec 15, R365), and whether it is being emptied for another key (spec 02, R26). -/
structure Bin where
  gid : Nat
  pc : VA
  tids : List (Nat × Nat)
  next : Nat
  closing : Bool
deriving DecidableEq, Repr

/-- An issue slot (spec 11, R310, R312): whether a run is open, its wave, its count, a lane of the fragment that the run goes
on with, and the wave of the last run. -/
structure Slot where
  isOpen : Bool
  wave : Nat
  count : Nat
  lane : Nat
  last : Nat
deriving DecidableEq, Repr

/-- A copy in the engine's queue (spec 08, R210 to R213): its key, kind, stream, group and context, marked threads with
their lanes, the gate call in which they made it, the token register, descriptor, source and destination records,
boxes done, and the fault record it is parked on. -/
structure Copy where
  key : Nat
  gid : Nat
  func : Nat
  pasid : Nat
  domain : Nat
  weight : Bool
  ss : Bool
  sd : Bool
  stream : Nat
  toks : List (Nat × Nat)
  call : Nat
  token : Nat
  desc : List Nat
  src : W128
  dst : W128
  nbox : Nat
  next : Nat
  parked : Option Nat
  deps : List Nat
  /-- weight-store regions it was accepted to write, for a seal to wait on (spec 04, R95) -/
  regions : List Nat
  /-- what the bytes it has written held before it, for a source that overlaps its destination (spec 08, R210) -/
  old : List (Loc × List Byte)
deriving DecidableEq, Repr

/-- What a group needs of a core: threads, registers, the matrix engine, and loaded sequencer microcode. -/
structure NeedOf where
  threads : Nat
  regs : Nat
  mtx : Bool
  gfx : Bool
deriving DecidableEq, Repr

/-- What a pending request keeps of a core for its gang (spec 11, R302): the gang, as launch and number in it, what it needs,
and its victims, with the thread slots and registers that they free. -/
structure Keep where
  lid : Nat
  num : Nat
  need : NeedOf
  waves : List Nat
  whole : List Nat
  slots : Nat
  regs : Nat
deriving DecidableEq, Repr

/-- The requests to drain that a core serves (spec 11, R313, R315, R318): when drain began, the waves and the gangs to evict
that are not saved yet, what is kept for the gangs that asked, and whether the core moves to another physical one. -/
structure Drain where
  start : Nat
  waves : List Nat
  whole : List Nat
  keeps : List Keep
  move : Bool
deriving DecidableEq, Repr

/-- A line of 128 bytes of a core's L1 data cache (spec 01, R11): its unit, the group whose stores it holds, the bytes that
those wrote and that have not left the core, by address (spec 04, R110), and whether one request wrote all 128. -/
structure Line where
  unit : Nat
  gid : Nat
  dirty : Map Byte
  whole : Bool
deriving DecidableEq, Repr

/-- A core. `btab` lists the barriers that hold an entry of the barrier register table, as group and number (spec 08,
R207); pending barriers not listed are spilled (spec 17, R402). -/
structure Core where
  bins : List Bin
  /-- threads that wait for a bin that is being emptied, with group and address (spec 02, R26) -/
  filing : List (Nat × Nat × VA)
  buckets : List Bucket
  slots : List Slot
  copyq : List Copy
  btab : List (Nat × Nat)
  eng : Eng
  drain : Option Drain
  ucode : Bool
  /-- the lines of the L1 data cache and the units in the instruction cache, the one used last first (spec 01, R11) -/
  l1 : List Line
  icache : List Nat
  /-- the scratchpad pages in physical pages, as group and page, the one used last first (spec 04, R93) -/
  pages : List (Nat × Nat)
deriving DecidableEq, Repr

/-! ### Memory -/

/-- A frame tile scoreboard (spec 02, R44; spec 08, R223): size, offsets, retired tiles. -/
structure Board where
  w : Nat
  h : Nat
  stencil : W64
  retired : List (Nat × Nat)
deriving DecidableEq, Repr

/-- What a dependence counter holds beside its 16 bytes (spec 02, R45; spec 08, R225, R483): the function and PASID of
the context that set it, the effective class, queue and tag of its launch, and the group whose phase it requeues, if it
was set with `.self`. -/
structure DepSucc where
  func : Nat
  pasid : Nat
  cls : Nat
  queue : Nat
  etag : Nat
  lid : Nat
  self : Option Nat
deriving DecidableEq, Repr

/-- A weight-store region (spec 04, R95; spec 13, R341). -/
structure Region where
  isSealed : Bool
  sealing : Bool
  domain : Nat
deriving DecidableEq, Repr

/-- The stores of the device. `cells` and `ws` hold bytes in canonical form: an address not listed reads 0x00
(log 3). `cells` holds what has left the L1s: the bytes of the lines of both dies' L2s stand there (log 8). -/
structure Mem where
  cells : List Host.Cell
  /-- the lines of the L2 slices, by die * 48 + slice: units, the one used last first, and whether the line is dirty (spec 01,
  R12, R14) -/
  l2 : Map (List (Nat × Bool))
  /-- the releases recorded at their variables: the place and the group (spec 04, R112) -/
  rels : List (Loc × Nat)
  poison : List Nat
  /-- units of 128 bytes that `FINJ` poisoned (spec 19, R450) -/
  injected : List Nat
  /-- poisoned units whose mark an L2 line holds (spec 19, R428, R431; log 38) -/
  l2Poison : List Nat
  /-- poisoned units whose mark a line of a core's L1 holds, by core (spec 19, R430, R431; log 38) -/
  l1Poison : List (Nat × Nat)
  ddrBytes : Nat
  /-- failed DDR-5 channels, and their units that were written in full since (spec 19, R430, R455) -/
  ddrFailed : List Nat
  ddrRewritten : List Nat
  /-- spare L2 ways used, by die * 48 + slice, and the ticks of the corrected errors of a way within the past hour, by slice *
  64 + way (spec 19, R455) -/
  l2Spares : Map Nat
  l2Fixed : Map (List Nat)
  /-- HBM4: the ticks of the corrected errors of a row within 24 h, the repair rows used of a bank, and the row repairs of a
  channel, by stack * 16 + channel (spec 19, R455; log 14) -/
  hbmFixed : Map (List Nat)
  hbmRows : Map Nat
  hbmRepairs : Map Nat
  ws : List Host.Cell
  /-- poisoned units, as die * 2^22 + unit -/
  wsPoison : List Nat
  regions : Map Region
  /-- scrub row counters by die * 64 + bank (spec 19, R456) -/
  scrub : Map Nat
  /-- the last refresh window taken, by die * 64 + bank (spec 01, R16) -/
  wsWindow : Map Nat
  /-- spare banks used, by die (spec 19, R455) -/
  wsSpares : Map Nat
  /-- rows copied to the spare bank that is being brought in, by die * 64 + bank (spec 19, R456) -/
  wsCopied : Map Nat
  /-- corrected errors of the past hour by die * 64 + bank: their ticks and numbers (spec 19, R455) -/
  wsFixed : Map (List (Nat × Nat))
  depSucc : Map DepSucc
  boards : Map Board
  /-- gate frames in use, by frame address (spec 08, R229) -/
  gframes : List (Nat × Nat)
  /-- cactus-stack frames in use, by area address (spec 02, R42) -/
  cframes : Map Nat
deriving DecidableEq, Repr

/-! ### Translation -/

/-- A TLB entry of a die (spec 01, R17; spec 04, R84): its tags, what it maps, and what it has seen. `size` is the
number of bytes it maps; `leaf1` and `leaf2` are the addresses of its leaf descriptors; `ibase` and `isize` give the
stage-2 page. -/
structure TlbEntry where
  die : Nat
  func : Nat
  pasid : Nat
  domain : Nat
  vbase : Nat
  pbase : Nat
  size : Nat
  ibase : Nat
  isize : Nat
  leaf1 : Nat
  leaf2 : Nat
  r : Bool
  w : Bool
  x : Bool
  nc : Bool
  aSet : Bool
  dSet : Bool
deriving DecidableEq, Repr

/-- A fault record without a response (spec 20, R459 to R462): whether it has been written to the ring, its FID, and
what parked on it is found through `FragSt.parked` and `Copy.parked`. -/
structure FaultRec where
  func : Nat
  pasid : Nat
  code : Nat
  stage : Nat
  fetch : Bool
  vaddr : Nat
  ipa : Nat
  domain : Nat
  level : Nat
  core : Nat
  fid : Option Nat
  written : Nat
  tmo : Nat
deriving DecidableEq, Repr

/-- The fault block of a function (spec 20, R458). -/
structure FaultBlock where
  ctl : W64
  vec : W64
  tail : W32
  head : W32
  held : Bool
  tmohit : Bool
  irmiss : W32
  peerref : W32
deriving DecidableEq, Repr

structure Mmu where
  tlb : List TlbEntry
  fq : Map FaultBlock
  recs : Map FaultRec
  /-- response words that wait to be applied: function and word (spec 20, R461) -/
  resps : List (Nat × W64)
deriving DecidableEq, Repr

/-! ### Host, reports, sweepers, fabric, management -/

/-- A message the device sends to a host, a peer or the management port. -/
inductive OutMsg where
  /-- an RDMA WRITE of the requester: QP, rkey, address, data (spec 13, R338, R348, R350) -/
  | rdmaWrite (qpn rkey : Nat) (va : W64) (data : List Byte)
  /-- an RDMA READ of the requester (spec 13, R348) -/
  | rdmaRead (qpn rkey : Nat) (va : W64) (len : Nat)
  /-- an acknowledgement -/
  | ack (qpn : Nat)
  /-- a READ response -/
  | readResp (qpn : Nat) (data : List Byte)
  /-- a remote-access-error NAK (spec 13, R340) -/
  | nakAccess (qpn : Nat)
  /-- a remote-operational-error NAK (spec 19, R431) -/
  | nakOperational (qpn : Nat)
  /-- a NAK of an operation that is not supported (spec 13, R338) -/
  | nakUnsupported (qpn : Nat)
  /-- a NAK of a packet out of sequence (spec 13, R338; log 67) -/
  | nakSequence (qpn : Nat)
deriving DecidableEq, Repr

/-- What the headers of a sent frame hold (spec 13, R338, R342, R344): host port, next hop and own address, the tag's PCP and
VID, the far address, traffic class, hop limit, far QP, and PSN. -/
structure Head where
  port : Nat
  dmac : Nat
  smac : Nat
  vlan : Option (Nat × Nat)
  dgid : Nat
  tclass : Nat
  hoplim : Nat
  dqpn : Nat
  psn : Nat
deriving DecidableEq, Repr

/-- A frame the device sends. -/
structure OutFrame where
  head : Head
  msg : OutMsg
deriving DecidableEq, Repr

/-- A request of the device that a host has not acknowledged (spec 13, R338, R350): its QP, its first and last PSN, the access
in flight and the launch it belongs to, if any, when it was sent last, and whether it has left on a QP that was ready to
send. -/
structure Sent where
  func : Nat
  qp : Nat
  psn : Nat
  last : Nat
  msg : OutMsg
  key : Option Nat
  lid : Option Nat
  at' : Nat
  out : Bool
  /-- a completion or notify event, whose writing a function reset stops (spec 19, R438) -/
  event : Bool
deriving DecidableEq, Repr

/-- A request of a host that a QP has not served: function, QP, the PSN of its first packet, and what it asks (spec 13, R339,
R344). -/
structure Inbound where
  func : Nat
  qp : Nat
  psn : Nat
  req : RdmaReq
deriving DecidableEq, Repr

/-- A peer packet that passed its first check: sender, function, queue, words, its access-control entry's SYSOK and
PMAX (spec 11, R320), and the queue's TAIL when it came, which is its place in the order of the queue (log 63). -/
structure PeerPkt where
  sender : Nat
  func : Nat
  queue : Nat
  words : List W64
  sysok : Bool
  pmax : Nat
  tail : Nat
deriving DecidableEq, Repr

/-- The host attachment (spec 13). `ftab` holds function table words by function * 8 + word. -/
structure HostSt where
  ftab : Map W64
  peers : Map W128
  csp0 : W64
  csp1 : W64
  cspSize : W64
  inbox : List Inbound
  /-- QPs that have refused a request out of sequence and have not seen the one that is due: function * 4096 + QP (log 67) -/
  gapped : List Nat
  outbox : List OutFrame
  /-- requests of the device that are not acknowledged, oldest first -/
  sent : List Sent
  dropped : Nat
  /-- retries of a QP, by function * 4096 + QP (spec 13, R338, R344) -/
  retries : Map Nat
  frst : List Nat
  portsUp : BitVec 4
  peerq : List PeerPkt
  /-- queues whose ring slot could not be read, until the next retry: function * 2048 + queue (spec 20, R485) -/
  stalled : List Nat
  /-- functions whose event writing a reset has stopped (spec 19, R438) -/
  muted : List Nat
  /-- the queue served last in each class: function * 2048 + queue (spec 11, R302) -/
  served : Map Nat
deriving DecidableEq, Repr

/-- An error-report block (spec 19, R440). -/
structure ErrBlock where
  ctl : W64
  vec : W64
  seq : W32
deriving DecidableEq, Repr

structure Rep where
  er : Map ErrBlock
  counters : Map W32
  /-- DOMEND: the domain written last, and the endings in progress (spec 19, R435) -/
  domend : W64
  ending : List Nat
  /-- HALTREL (spec 19, R437) -/
  haltrel : W64
  nextHalt : Nat
  /-- halts under way: the HALTID of a gang that drains before it is saved (spec 19, R437) -/
  halting : Map Nat
deriving DecidableEq, Repr

/-- A frame sweeper (spec 04, R98; spec 20, R463). -/
structure Sweeper where
  ctl : W64
  tbase : W64
  tcount : W64
  tfirst : W64
  qbase : W64
  qsize : W64
  qhead : W64
  qtail : W64
  mark : W64
  cursor : W64
  dry : Bool
  badent : Bool
  badidx : Nat
  note : W64
  /-- a sweep is running (spec 04, R99) -/
  running : Bool
  /-- entries visited since one was queued -/
  barren : Nat
  /-- tick of the last visit -/
  lastVisit : Nat
deriving DecidableEq, Repr

/-- What the device sends over Frarok to device `dev`, one message a flit (log 43): the spec gives flits no payload format. -/
inductive FabMsg where
  | req (dev : Nat) (req : DomReq)
  /-- the answer to a domain request: data, and whether its unit carries poison -/
  | resp (dev : Nat) (data : List Byte) (poison : Bool)
  | refuse (dev : Nat)
  | coll (dev : Nat) (set : Nat) (data : List Byte)
deriving DecidableEq, Repr

/-- A flit the device sends: its port, its first word (spec 13, R351) and its message. -/
structure Flit where
  port : Nat
  head : W32
  msg : FabMsg
deriving DecidableEq, Repr

/-- A Frarok port (spec 13, R351; spec 20, R469, R470). -/
structure FPort where
  en : Bool
  failed : BitVec 9
  down : Bool
  training : Bool
  crc : W32
  replay : W32
  peer : BitVec 8
  sendSeq : Nat
  recvSeq : Nat
  /-- the replay buffer: SEQ, line and message of what was sent and not acknowledged (log 43) -/
  unacked : List (Nat × Nat × FabMsg)
  /-- line and message of what waits for room in it -/
  waiting : List (Nat × FabMsg)
  /-- replays of the SEQ that is due (log 43) -/
  tries : Nat
deriving DecidableEq, Repr

structure Fab where
  devnum : Nat
  domen : Bool
  routes : Map (BitVec 18)
  ports : Map FPort
  /-- collective set table words by set * 32 + word (spec 13, R353) -/
  csets : Map W64
  /-- issue counts of the sets (spec 18, R415) -/
  collCount : Map Nat
  /-- flits delivered in SEQ order, by port -/
  inbox : List (Nat × List Byte)
  outbox : List Flit
deriving DecidableEq, Repr

/-- States of a physical cluster (spec 19, R451). -/
inductive ClusterRole where
  | logical (n : Nat)
  /-- the target of a migration under way (spec 01, R8) -/
  | target
  | cupping (passed : Bool)
  | reserve
  | degraded
  | failed
deriving DecidableEq, Repr

/-- A physical cluster: its role, voltage margin step, tick of its last test, ticks of windows at 64 or more replays at
step 4, the replays of the current millisecond, and the tick since which no window had 64 and no step fell (spec 19,
R445). -/
structure Cluster where
  role : ClusterRole
  margin : Nat
  tested : Nat
  hotWindows : List Nat
  replays : Nat
  calm : Nat
deriving DecidableEq, Repr

/-- A migration under way (spec 11, R318; spec 01, R8): the logical cluster, its physical cluster and the one it moves to, if
any, the index of the core that drains, and whether the physical cluster is retired (spec 19, R445). Without a target the die
gives the logical cluster up (spec 01, R21). -/
structure Move where
  logical : Nat
  source : Nat
  target : Option Nat
  core : Nat
  retire : Bool
deriving DecidableEq, Repr

/-- A loaded primitive (spec 14, R360): its entry, opcode (0 for `MACRO` only), block size, which operand fields it
uses and the address kinds of its records. -/
structure Prim where
  entry : Nat
  opcode : Nat
  desc : W128
deriving DecidableEq, Repr

/-- An SPDM answer (spec 14, R359). -/
structure SpdmMsg where
  code : Nat
  fields : List Nat
  data : List Byte
deriving DecidableEq, Repr

structure Mgmt where
  stage : Nat
  fail : Nat
  ddrx : Bool
  done : Bool
  pwrcap : BitVec 12
  throt : BitVec 16
  tjmax : BitVec 16
  mw : W32
  mrsel : Nat
  /-- measurement registers MR0 to MR7 as 32 bytes each -/
  mr : Map (List Byte)
  keyhash : Map (List Byte)
  keyrev : Nat
  svn : Nat
  /-- accepted microcode images by number: their primitives (spec 06, R153) -/
  images : Map (List Prim)
  /-- the image new launches bind -/
  binding : Option Nat
  /-- an image accepted later, which new launches bind once no launch uses the binding before it (spec 06, R153) -/
  nextBinding : Option Nat
  /-- physical clusters by die * 32 + number (spec 01, R8) -/
  clusters : Map Cluster
  /-- consecutive skipped rounds of a physical cluster, by die * 32 + number (spec 19, R451, R453) -/
  skips : Map Nat
  /-- clusters whose retirement waits for a round, by die: physical clusters, first the one that is due first (spec 19,
  R445) -/
  retiring : Map (List Nat)
  /-- the migration under way, by die (spec 11, R318) -/
  moving : Map Move
  /-- rotation rounds and replay windows that have passed, by die (spec 11, R318; spec 19, R445) -/
  rounds : Map Nat
  windows : Map Nat
  hot : Bool
  stopped : Bool
  /-- privileged system registers 0x300 to 0x3FF (spec 03, R75, R78) -/
  sysregs : Map W64
  outbox : List SpdmMsg
  /-- HBM4 channels repaired, by stack; channels being copied (spec 19, R455) -/
  stackSpares : Map Nat
  stackCopying : List (Nat × Nat)
deriving DecidableEq, Repr

/-! ### The machine -/

/-- What the next step performs (log 1): the issue of a fragment, an event, or the passing of time. -/
inductive Act where
  | issue (wave frag : Nat)
  | event (i : Instr)
  | idle (cycles : Nat)
deriving DecidableEq, Repr

structure State where
  tick : Nat
  mem : Mem
  mmu : Mmu
  threads : Map Thread
  waves : Map Wave
  groups : Map Group
  gangs : Map Gang
  launches : Map Launch
  cores : Map Core
  flights : Map Flight
  host : HostSt
  rep : Rep
  fsw : Map Sweeper
  fab : Fab
  mgmt : Mgmt
  /-- the model's own: scheduled acts (log 1) -/
  agenda : List Act
  /-- the model's own: the fragment that issues, as wave and index (log 1) -/
  cur : Nat × Nat
  /-- the model's own: the index of the next free value (log 2) -/
  freeCtr : Nat
  /-- the model's own: the next unused key (log 1) -/
  nextKey : Nat
deriving DecidableEq, Repr

/-! ### What absent keys read as -/

/-- An empty weight plane: K 0 (spec 09, R249). -/
def Plane.empty : Plane := { bytes := [], bfmt := 0, k := 0, scale := 0, sb := [0, 0, 0, 0] }

/-- A matrix engine whose tiles, planes and side memory read zero, with every CKV 1 (spec 09, R249). -/
def Eng.init : Eng :=
  { owner := none, acc := [], act := .empty, shd := .empty, side := [], rc := [], cc := [], ckv := BitVec.allOnes 16,
    uncorr := 0, injected := 0 }

/-- A closed issue slot. -/
def Slot.init : Slot := { isOpen := false, wave := 0, count := 0, lane := 0, last := 0 }

/-- A core that holds nothing. -/
def Core.init : Core :=
  { bins := [], filing := [], buckets := [], slots := [.init, .init, .init, .init], copyq := [], btab := [], eng := .init,
    drain := none, ucode := true, l1 := [], icache := [], pages := [] }

/-- Handler registers at a wave's release: zero (spec 03, R75). -/
def HRegs.init : HRegs :=
  { cause := 0, faultmask := 0, badaddr := 0, epc := 0, decop := 0, decfld0 := 0, decfld1 := 0, decfld2 := [],
    decfld3 := [] }

/-- A fault block at reset (spec 20, R458). -/
def FaultBlock.init : FaultBlock :=
  { ctl := 0, vec := 0, tail := 0, head := 0, held := false, tmohit := false, irmiss := 0, peerref := 0 }

/-- An error-report block at reset (spec 19, R440). -/
def ErrBlock.init : ErrBlock := { ctl := 0, vec := 0, seq := 0 }

/-- A sweeper at reset (spec 04, R98; spec 20, R463). -/
def Sweeper.init : Sweeper :=
  { ctl := 0, tbase := 0, tcount := 0, tfirst := 0, qbase := 0, qsize := 0, qhead := 0, qtail := 0, mark := 0,
    cursor := 0, dry := false, badent := false, badidx := 0, note := 0, running := false, barren := 0, lastVisit := 0 }

/-- A Frarok port at reset (spec 20, R469): FPPEER 0xFF, all else 0. -/
def FPort.init : FPort :=
  { en := false, failed := 0, down := false, training := false, crc := 0, replay := 0, peer := 0xFF, sendSeq := 0,
    recvSeq := 0, unacked := [], waiting := [], tries := 0 }

/-- An open weight-store region of domain 0 (log 5). -/
def Region.init : Region := { isSealed := false, sealing := false, domain := 0 }

/-- Physical cluster `n` of a die at reset (spec 01, R8; spec 19, R451; log 7). -/
def Cluster.init (n : Nat) : Cluster :=
  { role := if n < 17 then .logical n else if n = 17 then .cupping false else .reserve, margin := 0, tested := 0,
    hotWindows := [], replays := 0, calm := 0 }

/-! ### Reset -/

/-- The memory system at reset: nothing written (log 3), no DDR-5 installed (log 4), every region open (log 5). -/
def Mem.reset : Mem :=
  { cells := [], l2 := [], rels := [], poison := [], injected := [], l2Poison := [], l1Poison := [], ddrBytes := 0,
    ddrFailed := [], ddrRewritten := [],
    l2Spares := [], l2Fixed := [], hbmFixed := [], hbmRows := [], hbmRepairs := [], ws := [], wsPoison := [], regions := [],
    scrub := [], wsWindow := [], wsSpares := [], wsCopied := [], wsFixed := [],
    depSucc := [], boards := [], gframes := [], cframes := [] }

/-- The host attachment at reset (spec 13, R342): the PF is enabled. -/
def HostSt.reset : HostSt :=
  { ftab := [(0, 0x8000000000000000)], peers := [], csp0 := 0, csp1 := 0, cspSize := 0, inbox := [], gapped := [], outbox := [],
    sent := [], dropped := 0, retries := [], frst := [], portsUp := BitVec.allOnes 4, peerq := [], stalled := [], muted := [],
    served := [] }

/-- The management core at reset (spec 14, R358): PWRCAP 2,400, all else 0 (log 7). -/
def Mgmt.reset : Mgmt :=
  { stage := 0, fail := 0, ddrx := false, done := false, pwrcap := 2400, throt := 0, tjmax := 0, mw := 0, mrsel := 0,
    mr := [], keyhash := [], keyrev := 0, svn := 0, images := [], binding := none, nextBinding := none, clusters := [], skips := [],
    retiring := [], moving := [], rounds := [], windows := [], hot := false, stopped := false, sysregs := [], outbox := [],
    stackSpares := [],
    stackCopying := [] }

/-- The machine right after reset. -/
def State.reset : State :=
  { tick := 0, mem := .reset, mmu := { tlb := [], fq := [], recs := [], resps := [] }, threads := [], waves := [],
    groups := [], gangs := [], launches := [], cores := [], flights := [], host := .reset,
    rep := { er := [], counters := [], domend := 0, ending := [], haltrel := 0, nextHalt := 0, halting := [] }, fsw := [],
    fab := { devnum := 0, domen := false, routes := [], ports := [], csets := [], collCount := [], inbox := [],
             outbox := [] },
    mgmt := .reset, agenda := [], cur := (0, 0), freeCtr := 0, nextKey := 1 }

/-! ### Reading the parts that have a default -/

def State.core (s : State) (n : Nat) : Core := Map.get s.cores .init n

def State.setCore (s : State) (n : Nat) (c : Core) : State := { s with cores := Map.put s.cores n c }

def State.updCore (s : State) (n : Nat) (f : Core → Core) : State := s.setCore n (f (s.core n))

def State.updThread (s : State) (t : Nat) (f : Thread → Thread) : State :=
  { s with threads := Map.upd s.threads t f }

def State.updWave (s : State) (w : Nat) (f : Wave → Wave) : State := { s with waves := Map.upd s.waves w f }

def State.updGroup (s : State) (g : Nat) (f : Group → Group) : State := { s with groups := Map.upd s.groups g f }

def State.updGang (s : State) (g : Nat) (f : Gang → Gang) : State := { s with gangs := Map.upd s.gangs g f }

def State.updLaunch (s : State) (l : Nat) (f : Launch → Launch) : State :=
  { s with launches := Map.upd s.launches l f }

/-- Weight-store region `n`. -/
def State.region (s : State) (n : Nat) : Region := Map.get s.mem.regions .init n

/-- Physical cluster `n` of die `d`. -/
def State.cluster (s : State) (d n : Nat) : Cluster := Map.get s.mgmt.clusters (.init n) (d * 32 + n)

/-- The next unused key. -/
def State.fresh (s : State) : Nat × State := (s.nextKey, { s with nextKey := s.nextKey + 1 })

end Sys2Proof.Machine
end

