-- ==== Sys2Proof/Machine/Mem.lean ====
section
/-!
DEFINITION. The stores of the device as bytes: reading, writing, the poison mark (spec 19, R430), and what a device
physical address names (spec 01, R13).
-/

namespace Sys2Proof.Machine

/-! ### Bytes in canonical form -/

/-- What a byte that nothing has written reads as (log 3). -/
def blankByte : Byte := 0

/-- The byte at address `a`. -/
def cellAt (m : List Host.Cell) (a : Nat) : Byte := Map.get m blankByte a

/-- The cells with `b` at address `a`; writing the blank byte removes the entry. -/
def setCell (m : List Host.Cell) (a : Nat) (b : Byte) : List Host.Cell := Map.putD m blankByte a b

/-- The canonical form of a memory: addresses rise strictly, and no entry is blank. -/
def Memory.wf (m : List Host.Cell) : Bool := Map.wf m && m.all (fun p => !(p.2 == blankByte))

/-- The `n` bytes from address `a`. -/
def cellsAt (m : List Host.Cell) (a n : Nat) : List Byte :=
  match n with
  | 0 => []
  | k + 1 => cellAt m a :: cellsAt m (a + 1) k

/-- The cells with the bytes of `l` from address `a`. -/
def setCells (m : List Host.Cell) (a : Nat) (l : List Byte) : List Host.Cell :=
  match l with
  | [] => m
  | b :: r => setCells (setCell m a b) (a + 1) r

/-! ### The address map (spec 01, R13) -/

/-- What a 52-bit device physical address names. -/
inductive PaKind where
  | mem | reg | dom | host | reserved
deriving DecidableEq, Repr

/-- Bytes of the HBM4 range. -/
def hbmEnd : Nat := 0x06000000000
/-- First byte of the DDR-5 range. -/
def ddrBase : Nat := 0x40000000000
/-- First byte of the device register space. -/
def regBase : Nat := 0xF0000000000
/-- Bytes of the device register space. -/
def regSize : Nat := 0x100000000

/-- Whether a local address lies in HBM4 or in the installed DDR-5. -/
def State.isMem (s : State) (pa : Nat) : Bool :=
  pa < hbmEnd || (ddrBase ≤ pa && pa < ddrBase + s.mem.ddrBytes)

/-- What address `pa` names (spec 01, R13; spec 13, R348, R352). Any address of another device is a domain address, also one whose
low bits name no memory, which that device refuses (log 78). -/
def State.paKind (s : State) (pa : Nat) : PaKind :=
  let top := pa / 2 ^ 44
  if top = 0 then
    if s.isMem pa then .mem
    else if regBase ≤ pa ∧ pa < regBase + regSize then .reg
    else .reserved
  else if top ≤ 144 then .dom
  else if top = 0xFF then .host
  else .reserved

/-! ### Memory by physical address -/

/-- The `n` bytes at physical address `pa`. -/
def State.peek (s : State) (pa n : Nat) : List Byte := cellsAt s.mem.cells pa n

/-- The little-endian number of `n` bytes at `pa`. -/
def State.peekNat (s : State) (pa n : Nat) : Nat := ofBytes (s.peek pa n)

/-- Whether one of the `n` bytes at `pa` lies in a poisoned unit, or in one of a failed DDR-5 channel (spec 19, R455). -/
def State.poisoned (s : State) (pa n : Nat) : Bool :=
  s.mem.poison.any (fun u => u * 128 < pa + n && pa < (u + 1) * 128)
    || (!s.mem.ddrFailed.isEmpty && ddrBase ≤ pa && (List.range ((pa + n - 1) / 128 + 1 - pa / 128)).any (fun i =>
      s.mem.ddrFailed.contains (Config.ddrChannel (pa / 128 + i)) && !s.mem.ddrRewritten.contains (pa / 128 + i)))

/-- Write bytes at `pa` without touching poison marks. -/
def State.poke (s : State) (pa : Nat) (l : List Byte) : State :=
  { s with mem := { s.mem with cells := setCells s.mem.cells pa l } }

/-- Whether the writes `ws`, as one request, write all 128 bytes of unit `u` (spec 04, R91; spec 19, R430). -/
def covers (ws : List (Nat × List Byte)) (u : Nat) : Bool :=
  (List.range 128).all (fun i => ws.any (fun w => w.1 ≤ u * 128 + i && u * 128 + i < w.1 + w.2.length))

/-- The units of failed DDR-5 channels that `ws` writes in full. -/
def State.rewritten (s : State) (ws : List (Nat × List Byte)) : List Nat :=
  if s.mem.ddrFailed.isEmpty then []
  else ((ws.flatMap (fun w => (List.range (w.2.length / 128 + 2)).map (fun i => w.1 / 128 + i))).eraseDups).filter
    (fun u => covers ws u && !s.mem.ddrRewritten.contains u)

/-- Perform the writes `ws` in order, as the requests of one instruction: a unit written in full loses its poison. -/
def State.pokes (s : State) (ws : List (Nat × List Byte)) : State :=
  { s with mem := { s.mem with
      cells := ws.foldl (fun m w => setCells m w.1 w.2) s.mem.cells
      poison := s.mem.poison.filter (fun u => !covers ws u)
      injected := s.mem.injected.filter (fun u => !covers ws u)
      ddrRewritten := s.mem.ddrRewritten ++ s.rewritten ws
      l2Poison := s.mem.l2Poison.filter (fun u => !covers ws u)
      l1Poison := s.mem.l1Poison.filter (fun e => !covers ws e.2) } }

/-- Mark the unit of address `pa` as poisoned. -/
def State.poisonUnit (s : State) (pa : Nat) : State :=
  if s.mem.poison.contains (pa / 128) then s
  else { s with mem := { s.mem with poison := pa / 128 :: s.mem.poison } }

/-- Mark the unit of address `pa` as poisoned in its L2 line; `inj` where `FINJ` does so (spec 19, R450). -/
def State.poisonLine (s : State) (pa : Nat) (inj : Bool) : State :=
  let s := s.poisonUnit pa
  let u := pa / 128
  { s with mem := { s.mem with
      l2Poison := if s.mem.l2Poison.contains u then s.mem.l2Poison else u :: s.mem.l2Poison
      injected := if inj && !s.mem.injected.contains u then u :: s.mem.injected else s.mem.injected } }

/-- A line of a core's L1 holds the mark of unit `u` (spec 19, R430). -/
def State.markL1 (s : State) (core u : Nat) : State :=
  if s.mem.l1Poison.contains (core, u) then s
  else { s with mem := { s.mem with l1Poison := (core, u) :: s.mem.l1Poison } }

/-- The cause of consuming poison at `pa`: 0x14A for HBM4, 0x14B for DDR-5 (spec 17, R392; spec 19, R431). -/
def poisonCause (pa : Nat) : Nat := if pa < hbmEnd then 0x14A else 0x14B

end Sys2Proof.Machine
end

