-- ==== Sys2Proof/Machine/Cache.lean ====
section
/-!
DEFINITION. The L2 of the two core dies (spec 01, R7, R12, R14, R20): which lines a slice holds, the home slice of a line, and
what an operation at the home slice does to the other die's copy. The bytes of the lines stand in `Mem.cells` (log 8).
-/

namespace Sys2Proof.Machine

/-- The die of a logical core (spec 01, R9). -/
def dieOf (core : Nat) : Nat := core / 136

/-- Slices of a die's L2, and lines of 128 bytes in a slice of 4 MiB (spec 01, R7, R12). -/
def sliceCount : Nat := 48

def sliceLines : Nat := 32768

/-- The HBM4 stack that holds a unit's frame (spec 01, R14). -/
def stackOfUnit (unit : Nat) : Nat := Config.stackHash (unit / 32 % 2 ^ 27) % 8

/-- The channel of an HBM4 unit, by stack * 16 + channel: the stack is a hash of the frame, and successive pieces of 256 bytes
go to successive channels (spec 01, R14; log 14). -/
def hbmChannel (unit : Nat) : Nat := stackOfUnit unit * 16 + unit / 2 % 16

/-- The core die that stack `k` stands beside: stacks 0 to 3 beside die 0, 4 to 7 beside die 1 (spec 01, R7; log 14). -/
def dieOfStack (k : Nat) : Nat := k / 4 % 2

/-- The L2 slice of a die that holds a unit (spec 01, R14). -/
def sliceOfUnit (die unit : Nat) : Nat := die % 2 * sliceCount + Config.sliceHash (unit % 2 ^ 32) % sliceCount

/-- The die of the home slice of the line at address `pa` (spec 01, R14). -/
def homeDie (pa : Nat) : Nat :=
  if pa < hbmEnd then dieOfStack (stackOfUnit (pa / 128))
  else if pa / 2 ^ 44 = 0xFF then 0
  else pa / 4096 % 2

/-- The lines of a slice. -/
def State.sliceAt (s : State) (k : Nat) : List (Nat × Bool) := Map.get s.mem.l2 [] k

def State.setSlice (s : State) (k : Nat) (l : List (Nat × Bool)) : State :=
  { s with mem := { s.mem with l2 := Map.putD s.mem.l2 [] k l } }

/-- Whether the L2 of a die holds a unit, and if so whether its line is dirty. -/
def State.inL2 (s : State) (die unit : Nat) : Option Bool :=
  ((s.sliceAt (sliceOfUnit die unit)).find? (fun e => e.1 == unit)).map Prod.snd

/-- A core of `die` uses a unit: the L2 of that die, and only of that die, comes to hold its line; of a full slice the line used
longest ago leaves (spec 01, R14; log 8). `late` puts the line where it leaves next (spec 06, R142). -/
def State.fillL2 (s : State) (die unit : Nat) (dirty : Bool) (late : Bool := false) : State :=
  let k := sliceOfUnit die unit
  let e := (unit, dirty || (s.inL2 die unit).getD false)
  let rest := (s.sliceAt k).filter (fun e => e.1 != unit)
  s.setSlice k (if late then rest.take (sliceLines - 1) ++ [e] else (e :: rest).take sliceLines)

/-- The line of a unit leaves the L2 of a die; a dirty one has been written back, as its bytes stand in memory. -/
def State.dropL2 (s : State) (die unit : Nat) : State :=
  let k := sliceOfUnit die unit
  s.setSlice k ((s.sliceAt k).filter (fun e => e.1 != unit))

/-- An operation on the line of address `pa` is performed at its home slice: the other die's copy is written back and dropped
first (spec 01, R14). -/
def State.atHome (s : State) (pa : Nat) (dirty : Bool) : State :=
  let h := homeDie pa
  (s.dropL2 (1 - h) (pa / 128)).fillL2 h (pa / 128) dirty

end Sys2Proof.Machine
end

