-- ==== Sys2Proof/Machine/Mmu.lean ====
section
/-!
DEFINITION. Translation (spec 04, R80 to R86): descriptors, the two walks, permissions, the setting of A and D, and
the TLB.
-/

namespace Sys2Proof.Machine

/-- What an access needs of its leaves (spec 04, R83). -/
inductive Need where
  | fetch | read | write | atomic
deriving DecidableEq, Repr

/-- Whether the access writes, and so sets D. -/
def Need.writes : Need → Bool
  | .write => true
  | .atomic => true
  | _ => false

/-- Whether permissions RD, W and X grant the access (spec 04, R83). -/
def Need.granted (k : Need) (r w x : Bool) : Bool :=
  match k with
  | .fetch => x
  | .read => r
  | .write => w
  | .atomic => r && w

/-- The context of an access: the die whose TLB serves it, and the address space and domain. -/
structure Ctx where
  die : Nat
  func : Nat
  pasid : Nat
  domain : Nat
deriving DecidableEq, Repr

/-- How a translation fails (spec 04, R86): resolvably, with the base of the cause (0x080 or 0x088), the stage, the
level and the intermediate address of a stage-2 failure; or fatally, with the base of the cause (0x090 or 0x098). -/
inductive TrFail where
  | park (code stage level ipa : Nat)
  | fatal (code : Nat)
deriving DecidableEq, Repr

/-- A successful translation: the physical address, and whether a leaf has NC set. -/
structure Tr where
  pa : Nat
  nc : Bool
deriving DecidableEq, Repr

/-! ### Descriptors (spec 04, R82) -/

def descV (d : Nat) : Bool := d.testBit 0
def descLeaf (d : Nat) : Bool := d.testBit 1
def descA (d : Nat) : Bool := d.testBit 2
def descD (d : Nat) : Bool := d.testBit 3
def descNC (d : Nat) : Bool := d.testBit 7
def descCont (d : Nat) : Bool := d.testBit 61
def descR (d : Nat) : Bool := d.testBit 58
def descW (d : Nat) : Bool := d.testBit 59
def descX (d : Nat) : Bool := d.testBit 60
/-- The output address of a descriptor. -/
def descOut (d : Nat) : Nat := bits d 51 12 * 4096
/-- Whether the reserved fields are zero. -/
def descClean (d : Nat) : Bool := bits d 6 4 == 0 && bits d 11 8 == 0 && bits d 57 52 == 0 && bits d 63 62 == 0

/-- A leaf a walk found: the descriptor's address and value, the base of the output, and the bytes it maps. -/
structure Leaf where
  at' : Nat
  desc : Nat
  size : Nat
  level : Nat
deriving DecidableEq, Repr

/-- The output of a leaf for input address `a`. -/
def Leaf.out (l : Leaf) (a : Nat) : Nat := descOut l.desc / l.size * l.size + a % l.size

/-- Bytes of the page a leaf belongs to: 16 leaves where CONT is set (spec 04, R81). -/
def Leaf.page (l : Leaf) : Nat := if descCont l.desc then 16 * l.size else l.size

/-- How one descriptor at level `level` of a walk is taken (spec 04, R81, R86): a leaf, the next table, or a failure.
`last` levels left decide where a leaf may stand. -/
def takeDesc (stage level left d ipa : Nat) : Except TrFail (Option Nat) :=
  if !descV d then .error (.park 0x080 stage level (if stage = 2 then ipa else 0))
  else if !descClean d then .error (.fatal 0x090)
  else if stage = 1 && bits d 51 48 != 0 then .error (.fatal 0x090)
  else if descLeaf d then
    if left ≤ 1 then .ok none else .error (.fatal 0x090)
  else if left = 0 then .error (.fatal 0x090)
  else .ok (some (descOut d))

/-- The bytes a leaf maps with `left` levels below it. -/
def leafSize (left : Nat) : Nat := if left = 0 then 4096 else 0x200000

/-! ### Function and PASID tables (spec 13, R342, R343) -/

/-- Word `w` of function table entry `f`. -/
def State.ftWord (s : State) (f w : Nat) : Nat := (Map.get s.host.ftab 0 (f * 8 + w)).toNat

/-- A base of the function table (words 2 to 7), bits [51:12]. -/
def State.ftBase (s : State) (f w : Nat) : Nat := bits (s.ftWord f w) 51 12 * 4096

/-- Entries of the PASID table of function `f`. -/
def State.pasidCount (s : State) (f : Nat) : Nat := bits (s.ftWord f 1) 63 44 + 1

/-- Word 0 of a PASID entry; zero beyond the table (spec 13, R343). -/
def State.pasidEntry (s : State) (f p : Nat) : Nat :=
  if p < s.pasidCount f then s.peekNat (s.ftBase f 3 + 16 * p) 8 else 0

/-! ### The walks -/

/-- The stage-2 walk of function `f` for intermediate address `ipa`, from table `t`, with `left` levels below the
present one (spec 04, R81). A table outside memory is a fatal failure (spec 04, R86). -/
def State.walk2 (s : State) (ipa : Nat) (left t : Nat) : Except TrFail Leaf :=
  if !s.isMem t then .error (.fatal 0x098)
  else
    let at' := t + 8 * (ipa / 2 ^ (12 + 9 * left) % 512)
    let d := s.peekNat at' 8
    match takeDesc 2 (4 - left) left d ipa with
    | .error e => .error e
    | .ok none => .ok { at' := at', desc := d, size := leafSize left, level := 4 - left }
    | .ok (some t') =>
      match left with
      | 0 => .error (.fatal 0x090)
      | k + 1 => s.walk2 ipa k t'

/-- Stage 2 of function `f` for `ipa`. -/
def State.stage2 (s : State) (f ipa : Nat) : Except TrFail Leaf := s.walk2 ipa 3 (s.ftBase f 2)

/-- Set A, and D for a write, in the descriptor at `at'` of value `d`, at its home slice. -/
def State.markDesc (s : State) (at' d : Nat) (wr : Bool) : State :=
  if descA d && (descD d || !wr) then s
  else (s.atHome at' true).poke at' (toBytes 8 (d ||| 4 ||| (if wr then 8 else 0)))

/-- A permission denial at stage 2. -/
def deny2 (l : Leaf) (ipa : Nat) : TrFail := .park 0x088 2 l.level ipa

/-- Read the stage-1 descriptor at intermediate address `ipa` through stage 2: it needs RD there and sets A there
(spec 04, R83). Answers its physical address and value. -/
def State.readTable (s : State) (f ipa : Nat) : Except TrFail (Nat × Nat × Leaf) × State :=
  match s.stage2 f ipa with
  | .error e => (.error e, s)
  | .ok l =>
    if !descR l.desc then (.error (deny2 l ipa), s)
    else if !s.isMem (l.out ipa) then (.error (.fatal 0x098), s)
    else (.ok (l.out ipa, s.peekNat (l.out ipa) 8, l), s.markDesc l.at' l.desc false)

/-- The stage-1 walk from the table at intermediate address `t`, with `left` levels below the present one. Answers the
leaf, with the intermediate address of its descriptor. In a CONT group whose leaves disagree it is the page's own leaf, one
of the two that R81 allows (log 55). -/
def State.walk1 (s : State) (f va : Nat) (left t : Nat) : Except TrFail (Leaf × Nat) × State :=
  let ipa := t + 8 * (va / 2 ^ (12 + 9 * left) % 512)
  match s.readTable f ipa with
  | (.error e, s) => (.error e, s)
  | (.ok (at', d, _), s) =>
    match takeDesc 1 (5 - left) left d 0 with
    | .error e => (.error e, s)
    | .ok none => (.ok ({ at' := at', desc := d, size := leafSize left, level := 5 - left }, ipa), s)
    | .ok (some t') =>
      match left with
      | 0 => (.error (.fatal 0x090), s)
      | k + 1 => s.walk1 f va k t'

/-- Set A, and D for a write, in the stage-1 leaf whose descriptor lies at intermediate address `ipa`: a write through
the stage-2 leaf that maps it, which needs W and sets A and D there (spec 04, R83). -/
def State.markLeaf1 (s : State) (f : Nat) (l : Leaf) (ipa : Nat) (wr : Bool) : Except TrFail Unit × State :=
  if descA l.desc && (descD l.desc || !wr) then (.ok (), s)
  else
    match s.stage2 f ipa with
    | .error e => (.error e, s)
    | .ok l2 =>
      if !descW l2.desc then (.error (deny2 l2 ipa), s)
      else (.ok (), (s.markDesc l2.at' l2.desc true).markDesc l.at' l.desc wr)

/-- Whether an output address is refused: a reserved range, or the register space for a virtual function (spec 01,
R13). -/
def State.refusedOut (s : State) (f pa : Nat) : Bool :=
  match s.paKind pa with
  | .reserved => true
  | .reg => f != 0
  | _ => false

/-- The TLB holds at most this many entries for each die (spec 01, R17). -/
def tlbEntries : Nat := 16384

/-- The walk of both stages for an access, which fills the TLB (spec 04, R80 to R86). -/
def State.walk (s : State) (c : Ctx) (va : Nat) (k : Need) : Except TrFail Tr × State :=
  match s.walk1 c.func va 4 (bits (s.pasidEntry c.func c.pasid) 51 12 * 4096) with
  | (.error e, s) => (.error e, s)
  | (.ok (l1, ipa1), s) =>
    if !k.granted (descR l1.desc) (descW l1.desc) (descX l1.desc) then (.error (.park 0x088 1 l1.level 0), s)
    else
      let ipa := l1.out va
      match s.stage2 c.func ipa with
      | .error e => (.error e, s)
      | .ok l2 =>
        if !k.granted (descR l2.desc) (descW l2.desc) (descX l2.desc) then (.error (deny2 l2 ipa), s)
        else if s.refusedOut c.func (l2.out ipa) then (.error (.fatal 0x098), s)
        else
          match s.markLeaf1 c.func l1 ipa1 k.writes with
          | (.error e, s) => (.error e, s)
          | (.ok (), s) =>
            let s := s.markDesc l2.at' (s.peekNat l2.at' 8) k.writes
            let sz := if va % min l1.page l2.page ≤ l2.out ipa then min l1.page l2.page else min l1.size l2.size
            let e : TlbEntry :=
              { die := c.die, func := c.func, pasid := c.pasid, domain := c.domain, vbase := va / sz * sz,
                pbase := l2.out ipa - va % sz, size := sz, ibase := ipa / l2.page * l2.page,
                isize := l2.page, leaf1 := l1.at', leaf2 := l2.at', r := descR l1.desc && descR l2.desc,
                w := descW l1.desc && descW l2.desc, x := descX l1.desc && descX l2.desc,
                nc := descNC l1.desc || descNC l2.desc, aSet := true,
                dSet := k.writes || descD l1.desc && descD l2.desc }
            let old := s.mmu.tlb.filter (fun t => !(t.die == c.die && t.func == c.func && t.pasid == c.pasid
              && t.domain == c.domain && t.vbase < e.vbase + sz && e.vbase < t.vbase + t.size))
            (.ok { pa := l2.out ipa, nc := e.nc },
             { s with mmu := { s.mmu with tlb :=
                (e :: old.filter (fun t => t.die == c.die)).take tlbEntries ++ old.filter (fun t => t.die != c.die) } })

/-- The TLB entry that serves an access without a walk: tags equal, page right, permissions granted, and A and D
already set as the access needs (spec 04, R84). -/
def State.tlbHit (s : State) (c : Ctx) (va : Nat) (k : Need) : Option TlbEntry :=
  s.mmu.tlb.find? (fun t => t.die == c.die && t.func == c.func && t.pasid == c.pasid && t.domain == c.domain
    && t.vbase ≤ va && va < t.vbase + t.size && k.granted t.r t.w t.x && t.aSet && (t.dSet || !k.writes))

/-- Translate virtual address `va` for an access (spec 04, R80 to R86). -/
def State.translate (s : State) (c : Ctx) (va : Nat) (k : Need) : Except TrFail Tr × State :=
  match s.tlbHit c va k with
  | some t => (.ok { pa := t.pbase + (va - t.vbase), nc := t.nc }, s)
  | none => s.walk c va k

end Sys2Proof.Machine
end

