-- ==== Sys2Proof/Machine/Lines.lean ====
section
/-!
DEFINITION. The L1 data cache and the instruction cache of a core (spec 01, R11): what a core reads, what an ordinary store
leaves in its core's L1 and when that leaves it (spec 04, R110), and releases and the acquires that pull (spec 04, R112).
-/

namespace Sys2Proof.Machine

/-- Lines of 128 bytes of the L1 data cache, of 128 KiB, and of the instruction cache, of 64 KiB (spec 01, R11). -/
def l1Lines : Nat := 1024

def icacheLines : Nat := 512

/-- The line of a unit in the L1 of core `c`. -/
def State.l1Line (s : State) (c u : Nat) : Option Line := (s.core c).l1.find? (fun e => e.unit == u)

/-! ### What a core reads -/

/-- The byte at physical address `a` as core `c` reads it: its L1's, where a store has left one there, else memory's. -/
def State.byteAt (s : State) (c : Option Nat) (a : Nat) : Byte :=
  ((c.bind (fun c => (s.core c).l1.findSome? (fun e => Map.find e.dirty a))).getD (cellAt s.mem.cells a))

/-- The `n` bytes at physical address `pa` as core `c` reads them; without a core, what has left the L1s. -/
def State.peekBy (s : State) (c : Option Nat) (pa n : Nat) : List Byte := (List.range n).map (fun i => s.byteAt c (pa + i))

/-- The unit of 128 bytes whose poison core `c` sees at unit `u`: the mark of its L1's line, or memory's, unless one request has
written the whole line in its L1 since (spec 19, R430). -/
def State.poisonedBy (s : State) (c : Option Nat) (u : Nat) : Bool :=
  s.poisoned (u * 128) 128 && !(c.any (fun c => (s.l1Line c u).any (·.whole)))

/-- Whether the line of core `c` for unit `u` holds a mark of its own (spec 19, R430, R431). -/
def State.l1Marked (s : State) (c : Option Nat) (u : Nat) : Bool := c.any (fun c => s.mem.l1Poison.contains (c, u))

/-! ### Leaving the L1 -/

/-- Queues whose entry a write of `n` bytes at `pa` touches are no longer stalled (spec 20, R485). -/
def State.unstall (s : State) (pa n : Nat) : State :=
  if s.host.stalled.isEmpty then s
  else { s with host := { s.host with stalled := s.host.stalled.filter (fun k =>
    let e := s.ftBase (k / 2048) 4 + 32 * (k % 2048)
    !(e < pa + n && pa < e + 32)) } }

/-- The bytes of a line of core `c` leave its L1, for the L2 of its die; the mark of poison of the line goes with them (spec 19,
R430). -/
def State.leaveL1 (s : State) (c : Nat) (e : Line) : State :=
  if e.dirty.isEmpty then s
  else
    let s := (s.fillL2 (dieOf c) e.unit true).unstall (e.unit * 128) 128
    let s := if e.whole then s.pokes [(e.unit * 128, e.dirty.map Prod.snd)]
      else e.dirty.foldl (fun (s : State) b => s.poke b.1 [b.2]) s
    if s.mem.l1Poison.contains (c, e.unit) then
      { s.poisonUnit (e.unit * 128) with mem := { (s.poisonUnit (e.unit * 128)).mem with
          l1Poison := s.mem.l1Poison.filter (· != (c, e.unit)) } }
    else s

/-- A line without the bytes that have left. -/
def Line.clean (e : Line) : Line := { e with gid := 0, dirty := [], whole := false }

/-- The dirty lines of core `c` that satisfy `p` are written back; they stay, clean. -/
def State.cleanBy (s : State) (c : Nat) (p : Line → Bool) : State :=
  let go := (s.core c).l1.filter (fun e => p e && !e.dirty.isEmpty)
  if go.isEmpty then s
  else (go.foldl (fun (s : State) e => s.leaveL1 c e) s).updCore c (fun r =>
    { r with l1 := r.l1.map (fun e => if p e then e.clean else e) })

/-- The lines of `n` bytes at `pa` are written back in core `c`; without a core, in every core. -/
def State.cleanAt (s : State) (c : Option Nat) (pa n : Nat) : State :=
  let p (e : Line) : Bool := pa < (e.unit + 1) * 128 && e.unit * 128 < pa + n
  match c with
  | some c => s.cleanBy c p
  | none => (Map.keysOf s.cores).foldl (fun (s : State) c => s.cleanBy c p) s

/-- The stores of group `gid` leave the L1s: its phase end, its pre-emption, migration or exit, or a pull (spec 04, R110,
R112). -/
def State.flushGroup (s : State) (gid : Nat) : State :=
  let s := (Map.keysOf s.cores).foldl (fun (s : State) c => s.cleanBy c (fun e => e.gid == gid)) s
  if s.mem.rels.isEmpty then s else { s with mem := { s.mem with rels := s.mem.rels.filter (fun e => e.2 != gid) } }

/-- Group `gid` is killed: its dirty lines that are poisoned are lost (spec 19, R432). -/
def State.loseMarked (s : State) (gid : Nat) : State :=
  let bad (c : Nat) (e : Line) : Bool := e.gid == gid && s.mem.l1Poison.contains (c, e.unit)
  { s with
    cores := Map.mapv s.cores (fun c r => { r with l1 := r.l1.filter (fun e => !bad c e) })
    mem := { s.mem with l1Poison := s.mem.l1Poison.filter (fun k =>
      !((s.core k.1).l1.any (fun e => e.gid == gid && e.unit == k.2))) } }

/-- The lines beyond what an L1 holds leave it, the one used longest ago first. -/
def State.trimL1 (s : State) (c : Nat) : State :=
  if (s.core c).l1.length ≤ l1Lines then s
  else (((s.core c).l1.drop l1Lines).foldl (fun (s : State) e => s.leaveL1 c e) s).updCore c (fun r =>
    { r with l1 := r.l1.take l1Lines })

/-- What lies beyond the capacity of the L1s leaves them. -/
def State.trimLines (s : State) : State := (Map.keysOf s.cores).foldl (fun (s : State) c => s.trimL1 c) s

/-! ### Entering a cache -/

/-- Whether the page of an access of a context has NC set: it is cached nowhere (spec 04, R82). -/
def State.uncached (s : State) (c : Ctx) (a : Nat) : Bool :=
  match (s.translate c a .read).1, (s.translate c a .write).1 with
  | .ok t, _ => t.nc
  | .error _, .ok t => t.nc
  | .error _, .error _ => false

/-- Core `c` reads unit `u` through its L1; `late` puts the line where it leaves next (spec 06, R142). -/
def State.fillL1 (s : State) (c u : Nat) (late : Bool) : State :=
  let e := (s.l1Line c u).getD { unit := u, gid := 0, dirty := [], whole := false }
  s.updCore c (fun r =>
    let rest := r.l1.filter (fun e => e.unit != u)
    { r with l1 := if late then rest ++ [e] else e :: rest })

/-- The bytes of the writes `ws` that lie in unit `u`, over `m`. -/
def putBytes (u : Nat) (ws : List (Nat × List Byte)) (m : Map Byte) : Map Byte :=
  ws.foldl (fun m w => (w.2.zipIdx).foldl (fun (m : Map Byte) b => if (w.1 + b.2) / 128 = u then Map.put m (w.1 + b.2) b.1 else m) m) m

/-- Group `gid` stores in unit `u` through the L1 of core `c`, as one request: what another group has left in the line is written
back first. -/
def State.storeLine (s : State) (c gid : Nat) (ws : List (Nat × List Byte)) (u : Nat) : State :=
  let s := s.cleanBy c (fun e => e.unit == u && e.gid != gid)
  let old := (s.l1Line c u).getD { unit := u, gid := gid, dirty := [], whole := false }
  let all := covers ws u
  let s := s.updCore c (fun r =>
    { r with l1 := { unit := u, gid := gid, dirty := putBytes u ws old.dirty, whole := old.whole || all }
        :: r.l1.filter (fun e => e.unit != u) })
  if all then { s with mem := { s.mem with l1Poison := s.mem.l1Poison.filter (· != (c, u)) } } else s

/-- The units that the writes `ws` touch. -/
def unitsWritten (ws : List (Nat × List Byte)) : List Nat :=
  (ws.flatMap (fun w => (w.2.zipIdx).map (fun b => (w.1 + b.2) / 128))).eraseDups

/-- An ordinary store of group `gid` is performed in the L1 of core `c` (spec 04, R110). -/
def State.storeL1 (s : State) (c gid : Nat) (ws : List (Nat × List Byte)) : State :=
  (unitsWritten ws).foldl (fun (s : State) u => s.storeLine c gid ws u) s

/-- Units that core `c` reads past its L1 are in the L2 of its die. -/
def State.readL2 (s : State) (c : Nat) (us : List Nat) (late : Bool := false) : State :=
  us.foldl (fun (s : State) u => s.fillL2 (dieOf c) u false late) s

/-- Core `c` fetches an instruction in unit `u`: its instruction cache and the L2 of its die hold it. -/
def State.fillIcache (s : State) (c u : Nat) : State :=
  (if (s.core c).icache.contains u then s else s.fillL2 (dieOf c) u false).updCore c (fun r =>
    { r with icache := (u :: r.icache.filter (· != u)).take icacheLines })

/-! ### Writes past the L1 -/

/-- Writes reach memory: what the L1 of the core that makes them holds of the lines leaves it first, and the L2 of its die comes
to hold them (spec 01, R14; spec 04, R110). What no core makes is written behind every L1. -/
def State.writeMem (s : State) (c : Option Nat) (mem : List (Nat × List Byte)) : State :=
  if mem.isEmpty then s
  else
    let s := mem.foldl (fun (s : State) w => s.cleanAt c w.1 w.2.length) s
    let s := match c with
      | some c => (unitsWritten mem).foldl (fun (s : State) u => s.fillL2 (dieOf c) u true) s
      | none => s
    mem.foldl (fun (s : State) w => s.unstall w.1 w.2.length) (s.pokes mem)

/-! ### Releases (spec 04, R112) -/

/-- A release of group `gid` records itself at its variable; at one on another device it is not kept, and the group's lines leave
at once. -/
def State.recordRelease (s : State) (gid : Nat) (l : Loc) : State :=
  match l with
  | .mem _ => { s with mem := { s.mem with rels := (l, gid) :: s.mem.rels.filter (· != (l, gid)) } }
  | .scr _ _ => { s with mem := { s.mem with rels := (l, gid) :: s.mem.rels.filter (· != (l, gid)) } }
  | .nil => s
  | _ => s.flushGroup gid

/-- An acquire that reads places for which `p` holds pulls the lines of the groups that have released there. -/
def State.pullBy (s : State) (p : Loc → Bool) : State :=
  ((s.mem.rels.filter (fun e => p e.1)).map Prod.snd).eraseDups.foldl (fun (s : State) g => s.flushGroup g) s

end Sys2Proof.Machine
end

