-- ==== Sys2Proof/Machine/Report.lean ====
section
/-!
DEFINITION. What the device reports: cause counters (spec 19, R442), completion events through the remap table (spec
13, R349, R350), error records (spec 19, R440, R441), and fault records (spec 20, R458 to R460).
-/

namespace Sys2Proof.Machine

/-! ### Counters -/

/-- Add one to a 32-bit counter that saturates. -/
def satInc (c : W32) : W32 := if c = BitVec.allOnes 32 then c else c + 1

/-- Count a cause (spec 19, R442). -/
def State.count (s : State) (code : Nat) : State :=
  { s with rep := { s.rep with counters := Map.put s.rep.counters code (satInc (Map.get s.rep.counters 0 code)) } }

/-- The fault block of a function. -/
def State.fblock (s : State) (f : Nat) : FaultBlock := Map.get s.mmu.fq .init f

def State.setFblock (s : State) (f : Nat) (b : FaultBlock) : State :=
  { s with mmu := { s.mmu with fq := Map.put s.mmu.fq f b } }

/-- Count a remap miss or an undeliverable event (spec 20, R467). -/
def State.irMiss (s : State) (f : Nat) : State :=
  s.setFblock f { s.fblock f with irmiss := satInc (s.fblock f).irmiss }

/-! ### Queue pairs (spec 13, R344) -/

/-- Address of the context of QP `j` of function `f`. -/
def State.qpAddr (s : State) (f j : Nat) : Nat := s.ftBase f 7 + 64 * j

/-- QPs of function `f`. -/
def State.qpCount (s : State) (f : Nat) : Nat := bits (s.ftWord f 1) 43 32 + 1

/-- STATE of QP `j` of function `f`. -/
def State.qpState (s : State) (f j : Nat) : Nat := bits (s.peekNat (s.qpAddr f j) 8) 6 4

/-- Set STATE of QP `j` of function `f`. -/
def State.setQpState (s : State) (f j v : Nat) : State :=
  let w := s.peekNat (s.qpAddr f j) 8
  s.poke (s.qpAddr f j) (toBytes 8 (w - bits w 6 4 * 16 + v * 16))

/-- Bytes of one packet on QP `j` of function `f` (PMTU). -/
def State.qpMtu (s : State) (f j : Nat) : Nat := 1024 * 2 ^ bits (s.peekNat (s.qpAddr f j) 8) 3 2

/-- Advance the next send PSN by the packets of `len` bytes. -/
def State.advanceSend (s : State) (f j len : Nat) : State :=
  let w := s.peekNat (s.qpAddr f j + 8) 8
  s.poke (s.qpAddr f j + 8)
    (toBytes 8 (w - bits w 23 0 + (bits w 23 0 + max 1 (ceilDiv len (s.qpMtu f j))) % 2 ^ 24))

/-- Advance the expected receive PSN by the packets of `len` bytes. -/
def State.advanceRecv (s : State) (f j len : Nat) : State :=
  let w := s.peekNat (s.qpAddr f j + 8) 8
  s.poke (s.qpAddr f j + 8)
    (toBytes 8 (w - bits w 55 32 * 2 ^ 32
      + (bits w 55 32 + max 1 (ceilDiv len (s.qpMtu f j))) % 2 ^ 24 * 2 ^ 32))

/-- The headers of a frame of QP `j` of function `f` with PSN `psn`. -/
def State.qpHead (s : State) (f j psn : Nat) : Head :=
  let w (i : Nat) : Nat := s.peekNat (s.qpAddr f j + 8 * i) 8
  let ft := s.ftWord f 1
  { port := bits (w 0) 1 0, dmac := bits (w 4) 47 0, smac := bits (s.ftWord f 0) 47 0
    vlan := if ft.testBit 15 then some (bits ft 14 12, bits ft 11 0) else none
    dgid := w 2 + w 3 * 2 ^ 64, tclass := bits (w 5) 7 0, hoplim := bits (w 5) 15 8, dqpn := bits (w 0) 31 8, psn := psn }

/-- The next send PSN and the expected receive PSN of QP `j` of function `f`. -/
def State.sendPsn (s : State) (f j : Nat) : Nat := bits (s.peekNat (s.qpAddr f j + 8) 8) 23 0
def State.recvPsn (s : State) (f j : Nat) : Nat := bits (s.peekNat (s.qpAddr f j + 8) 8) 55 32

/-- A frame of QP `j` of function `f` leaves on its port; with the link down it is lost (spec 20, R467). -/
def State.emit (s : State) (f j psn : Nat) (m : OutMsg) : State :=
  let h := s.qpHead f j psn
  if s.host.portsUp.getLsbD h.port then { s with host := { s.host with outbox := s.host.outbox ++ [{ head := h, msg := m }] } }
  else s

/-- On whose behalf the device makes a request: a function and, for what a launch does, the launch that answers for it. -/
structure Party where
  func : Nat
  lid : Option Nat
  /-- the core that makes it, whose L1 its reads see (spec 04, R110) -/
  core : Option Nat
deriving DecidableEq, Repr

/-- A function alone. -/
def Party.of (f : Nat) : Party := { func := f, lid := none, core := none }

/-- The launch whose completion answers for what launch `lid` does: the one that forked it, or itself. -/
def State.rootOf (s : State) (lid : Nat) : Nat → Nat
  | 0 => lid
  | n + 1 => match Map.find s.launches lid with
    | none => lid
    | some l => match l.src with
      | .fork r => s.rootOf r n
      | _ => lid

/-- A group as the one on whose behalf a request is made. -/
def State.partyOf (s : State) (g : Group) : Party :=
  { func := g.func, lid := some (s.rootOf g.lid s.launches.length), core := some g.core }

/-- Send a request of `len` bytes on QP `j` of the function, for access `key`: at once on a QP that is ready to send; on
another it does not leave (spec 13, R339). -/
def State.send (s : State) (p : Party) (key : Option Nat) (event : Bool) (j len : Nat) (m : OutMsg) : State :=
  let psn := s.sendPsn p.func j
  let n := max 1 (ceilDiv len (s.qpMtu p.func j))
  let out := s.qpState p.func j == 3
  let e : Sent :=
    { func := p.func, qp := j, psn := psn, last := (psn + n - 1) % 2 ^ 24, msg := m, key := key, lid := p.lid, at' := s.tick,
      out := out, event := event }
  let s := if out then (s.emit p.func j psn m).advanceSend p.func j len else s
  { s with host := { s.host with sent := s.host.sent ++ [e] } }

/-! ### Completion events (spec 13, R349, R350; spec 20, R466, R467) -/

/-- Write the completion event of function `f` through vector `vec`. `owner` is the packet's PASID; a notice of the
device itself has no packet and no owner to compare (log 16). -/
def State.writeEvent (s : State) (f vec : Nat) (owner : Option Nat) (status queue etag : Nat) : State :=
  if s.host.muted.contains f then s
  else
    let ea := s.ftBase f 5 + 32 * vec
    let w0 := s.peekNat ea 8
    let w2 := s.peekNat (ea + 16) 8
    let w3 := s.peekNat (ea + 24) 8
    let qpn := bits w0 31 8
    let j := bits qpn 11 0
    let miss := bits (s.ftWord f 1) 31 16 < vec || !w0.testBit 0
      || (match owner with | some p => bits w0 51 32 != p | none => false)
      || bits qpn 23 12 != f || s.qpCount f ≤ j
    if miss || s.qpState f j != 3 then s.irMiss f
    else
      let seq := bits w3 63 32
      let ev := etag % 2 ^ 16 + queue % 2 ^ 11 * 2 ^ 16 + f % 2 ^ 6 * 2 ^ 32 + status % 2 ^ 8 * 2 ^ 40 + seq * 2 ^ 64
        + bits w2 63 32 * 2 ^ 96
      let s := s.send (.of f) none true j 16 (.rdmaWrite qpn (bits w2 31 0)
        (BitVec.ofNat 64 (s.peekNat (ea + 8) 8 + 16 * (seq % 2 ^ bits w3 4 0))) (toBytes 16 ev))
      s.poke (ea + 24) (toBytes 8 (w3 - seq * 2 ^ 32 + (seq + 1) % 2 ^ 32 * 2 ^ 32))

/-! ### Error records (spec 19, R440, R441) -/

/-- The fields of an error record. -/
structure ErrInfo where
  cause : Nat
  action : Nat := 0
  relq : Bool := false
  relcnt : Nat := 0
  cause2 : Option Nat := none
  cause3 : Option Nat := none
  inj : Bool := false
  func : Nat := 0
  pasid : Nat := 0
  domain : Nat := 0
  core : Nat := 0x1FF
  lrec : Nat := 0
  gang : Nat := 0
  queue : Nat := 0
  etag : Nat := 0
  addr : Nat := 0
  aphys : Bool := false
deriving DecidableEq, Repr

/-- The 64 bytes of a record with number `seq`, detected at `tick` (spec 19, R441). -/
def ErrInfo.bytes (r : ErrInfo) (seq tick : Nat) : List Byte :=
  toBytes 8 (r.cause % 512 + b2n r.cause2.isSome * 2 ^ 11 + r.cause2.getD 0 % 512 * 2 ^ 12 + r.action % 8 * 2 ^ 24
      + b2n r.relq * 2 ^ 30 + b2n r.inj * 2 ^ 31 + seq % 2 ^ 32 * 2 ^ 32)
    ++ toBytes 8 (r.core % 512 + r.relcnt % 4 * 2 ^ 18 + r.func % 64 * 2 ^ 20 + r.pasid % 2 ^ 20 * 2 ^ 32
      + r.domain % 2 ^ 12 * 2 ^ 52)
    ++ toBytes 8 r.lrec
    ++ toBytes 8 (r.etag % 2 ^ 16 + r.queue % 2 ^ 11 * 2 ^ 16 + r.gang % 2 ^ 32 * 2 ^ 32)
    ++ toBytes 8 r.addr
    ++ toBytes 8 tick
    ++ toBytes 8 (b2n r.aphys + b2n r.cause3.isSome * 2 ^ 16 + r.cause3.getD 0 % 512 * 2 ^ 17)
    ++ toBytes 8 0

/-- Write a record to the ring of function `f` (spec 19, R440). -/
def State.ringRecord (s : State) (f : Nat) (r : ErrInfo) : State :=
  let b := Map.get s.rep.er .init f
  if !b.ctl.getLsbD 63 then s
  else
    let seq := b.seq.toNat
    let base := bits b.ctl.toNat 51 12 * 4096
    let s := s.poke (base + 64 * (seq % 2 ^ bits b.ctl.toNat 4 0)) (r.bytes seq s.tick)
    let s := { s with rep := { s.rep with er := Map.put s.rep.er f { b with seq := b.seq + 1 } } }
    if b.vec.getLsbD 16 then s.writeEvent f (bits b.vec.toNat 15 0) none 0xFE 0x7FF (seq % 2 ^ 16) else s

/-- Write an error record: to the ring of its function, and to that of function 0 when the function is a VF (spec 19,
R440). -/
def State.errRecord (s : State) (r : ErrInfo) : State :=
  let s := s.ringRecord r.func r
  if r.func = 0 then s else s.ringRecord 0 r

/-- A cause with delivery E: counted, and written as a record (spec 17, R387; spec 19, R440, R442). -/
def State.hostReport (s : State) (r : ErrInfo) : State := (s.count r.cause).errRecord r

/-- A report that no context owns. -/
def State.deviceReport (s : State) (code action : Nat) : State := s.hostReport { cause := code, action := action }

/-- A spare of the kind with cause `code` is brought in (spec 17, R392; spec 19, R455; log 59). -/
def State.spareUsed (s : State) (code : Nat) : State := (s.count 0x15E).count code

/-- No spare is left of the kind with exhaustion cause `code` (spec 17, R392; spec 19, R455; log 59). -/
def State.sparesGone (s : State) (code action : Nat) : State := (s.deviceReport 0x15F action).deviceReport code action

/-! ### The fault queue (spec 20, R458 to R460) -/

/-- The 32 bytes of a fault record with identifier `fid` (spec 20, R460). -/
def FaultRec.bytes (r : FaultRec) (fid : Nat) : List Byte :=
  toBytes 8 (r.code % 512 + b2n r.fetch * 2 ^ 9 + r.stage % 4 * 2 ^ 10 + r.pasid % 2 ^ 20 * 2 ^ 12
      + fid % 2 ^ 32 * 2 ^ 32)
    ++ toBytes 8 (r.vaddr % 2 ^ 57)
    ++ toBytes 8 ((if r.stage = 2 then r.ipa % 2 ^ 48 else 0) + r.domain % 2 ^ 12 * 2 ^ 52)
    ++ toBytes 8 (r.core % 512 + r.level % 8 * 2 ^ 13)

/-- Records the ring of a function has space for: FQTAIL − FQHEAD below 2^LOG2N. -/
def FaultBlock.room (b : FaultBlock) : Bool := (b.tail - b.head).toNat < 2 ^ bits b.ctl.toNat 4 0

/-- Write record `k` to its function's ring and advance FQTAIL (spec 20, R459). -/
def State.putFault (s : State) (k : Nat) (r : FaultRec) : State :=
  let b := s.fblock r.func
  let fid := b.tail.toNat
  let s := s.poke (bits b.ctl.toNat 51 12 * 4096 + 32 * (fid % 2 ^ bits b.ctl.toNat 4 0)) (r.bytes fid)
  let s := s.setFblock r.func { b with tail := b.tail + 1 }
  let r' := { r with fid := some fid, written := s.tick, tmo := bits b.vec.toNat 47 32 }
  let s := { s with mmu := { s.mmu with recs := Map.put s.mmu.recs k r' } }
  if b.vec.getLsbD 16 then s.writeEvent r.func (bits b.vec.toNat 15 0) none 0xFD 0x7FF (fid % 2 ^ 16) else s

/-- Write the held records of function `f`, in order, while the ring has room; HELD stays while one waits. -/
def State.flushHeld (s : State) (f : Nat) : State :=
  let held := s.mmu.recs.filter (fun p => p.2.func == f && p.2.fid.isNone)
  let s := held.foldl (fun s p => if (s.fblock f).room then s.putFault p.1 p.2 else s) s
  s.setFblock f { s.fblock f with
    held := s.mmu.recs.any (fun p => p.2.func == f && p.2.fid.isNone) }

/-- Whether fault `r` joins record `q` (spec 20, R459). -/
def FaultRec.joins (q r : FaultRec) : Bool :=
  q.func == r.func && q.pasid == r.pasid && q.code == r.code && q.stage == r.stage
    && (if r.stage = 2 then q.ipa / 4096 == r.ipa / 4096 else q.vaddr / 4096 == r.vaddr / 4096)

/-- Deliver a resolvable fault: none if the queue is disabled, and the fault is fatal at once; else the key of the
record it is parked on (spec 20, R459). -/
def State.faultRecord (s : State) (r : FaultRec) : Option Nat × State :=
  let b := s.fblock r.func
  if !b.ctl.getLsbD 63 then (none, s)
  else
    let s := s.count r.code
    match Map.firstKey s.mmu.recs (fun _ q => q.joins r) with
    | some k => (some k, s)
    | none =>
      let k := s.nextKey
      let s := { s with nextKey := k + 1 }
      let r := { r with fid := none }
      let waiting := s.mmu.recs.any (fun p => p.2.func == r.func && p.2.fid.isNone)
      let s := { s with mmu := { s.mmu with recs := Map.put s.mmu.recs k r } }
      if b.room && !waiting then (some k, s.putFault k r)
      else (some k, s.setFblock r.func { b with held := true })

end Sys2Proof.Machine
end

