-- ==== Sys2Proof/Machine/Record.lean ====
section
/-!
DEFINITION. The launch record and the packet (spec 11, R301, R304, R305), format slot words (spec 03, R69 to R71) and
buffer records (spec 03, R63, R64), read from their words.
-/

namespace Sys2Proof.Machine

/-! ### Buffer records (spec 03, R63, R64) -/

def recBase (r : W128) : Nat := bits r.toNat 56 0
def recExtent (r : W128) : Nat := bits r.toNat 95 64
def recStrideField (r : W128) : Nat := bits r.toNat 119 96
def recEsizeCode (r : W128) : Nat := bits r.toNat 123 120
def recSwz (r : W128) : Nat := bits r.toNat 126 124
def recStrict (r : W128) : Bool := r.getLsbD 127

/-- Bytes of an element (spec 03, R64). -/
def recEsize (r : W128) : Nat := 2 ^ recEsizeCode r

/-- Bytes from one element to the next (spec 03, R63). -/
def recStride (r : W128) : Nat := if recStrideField r = 0 then recEsize r else recStrideField r

/-- Why a record value is refused (spec 03, R64), as the detail of 0x068 (spec 17, R389); the lowest that applies. -/
def recRefusal (r : W128) : Option Nat :=
  if 7 < recEsizeCode r then some 0
  else if 3 < recSwz r then some 1
  else if bits r.toNat 63 57 ≠ 0 then some 2
  else if recBase r % min (recEsize r) 16 ≠ 0 then some 3
  else none

/-- The byte offset of element `e` after the swizzle (spec 03, R65). -/
def swizzle (swz o : Nat) : Nat :=
  match swz with
  | 1 => o ^^^ (bits o 7 6 * 2 ^ 4)
  | 2 => o ^^^ (bits o 9 7 * 2 ^ 4)
  | 3 => o ^^^ (bits o 11 8 * 2 ^ 4)
  | _ => o

/-- The address of element `e` (spec 03, R65); the handler is told it for an element out of extent too (spec 18, R406). -/
def elemAddr (r : W128) (e : Int) : Nat := (recBase r + swizzle (recSwz r) (wrap 57 (e * recStride r))) % 2 ^ 57

/-- Whether an access of `w` bytes at element index `e` is in extent (spec 04, R89). -/
def inExtent (r : W128) (e : Int) (w : Nat) : Bool :=
  0 ≤ e && e < recExtent r && e.toNat * recStride r + w ≤ (recExtent r - 1) * recStride r + recEsize r

/-! ### Format slot words (spec 03, R69 to R71) -/

def slotA (w : W32) : Nat := bits w.toNat 31 28
def slotB (w : W32) : Nat := bits w.toNat 27 24
def slotO (w : W32) : Nat := bits w.toNat 23 20
def slotC (w : W32) : Nat := bits w.toNat 19 16
def slotRnd (w : W32) : Nat := bits w.toNat 15 14
def slotSat (w : W32) : Bool := w.getLsbD 13
def slotScale (w : W32) : Nat := bits w.toNat 12 10

/-- Whether a slot word passes the launch (spec 03, R71). -/
def slotOk (w : W32) : Bool :=
  slotA w ≤ 7 && slotB w ≤ 7 && slotO w ≤ 7 && slotC w ≤ 7 && slotScale w ≤ 1 && bits w.toNat 9 0 == 0

/-! ### The launch record (spec 11, R304) -/

/-- Word `i` of a record. -/
def recWord (ws : List W64) (i : Nat) : Nat := (ws.getD i 0).toNat

section
variable (ws : List W64)

def lrPrio : Nat := bits (recWord ws 0) 60 58
def lrPeclass : Nat := bits (recWord ws 0) 57 56
def lrArb : Bool := (recWord ws 0).testBit 55
def lrSlotmask : Nat := bits (recWord ws 0) 54 51
def lrSyspriv : Bool := (recWord ws 0).testBit 50
def lrNpok : Bool := (recWord ws 0).testBit 49
def lrPaired : Bool := (recWord ws 0).testBit 48
def lrRelaunch : Bool := (recWord ws 0).testBit 47
def lrNodisc : Bool := (recWord ws 0).testBit 46
def lrNodepth : Bool := (recWord ws 0).testBit 45
def lrHelper : Bool := (recWord ws 0).testBit 44
def lrPack : Bool := (recWord ws 0).testBit 43
def lrRoles : Nat := bits (recWord ws 0) 42 41 + 1
def lrTlev : Nat := bits (recWord ws 0) 40 38
def lrGlev : Nat := bits (recWord ws 0) 37 35
def lrNcarry : Nat := bits (recWord ws 0) 34 29
def lrScrpg : Nat := bits (recWord ws 0) 28 22
/-- Width of field `i`. -/
def lrWidth (i : Nat) : Nat := bits (recWord ws 1) (6 * i + 5) (6 * i)
/-- Extent of field `i`. -/
def lrExt (i : Nat) : Nat := bits (recWord ws (2 + i / 2)) (32 * (i % 2) + 31) (32 * (i % 2)) + 1
/-- Entry PC of role `i`. -/
def lrEpc (i : Nat) : Nat := bits (recWord ws (5 + i)) 63 10 * 8
def lrKindCode (i : Nat) : Nat := bits (recWord ws (5 + i)) 9 8
/-- Register budget of role `i`. -/
def lrBudget (i : Nat) : Nat := 8 * (bits (recWord ws (5 + i)) 7 3 + 1)
/-- Groups of role `i` in a gang. -/
def lrNgrp (i : Nat) : Nat := bits (recWord ws (5 + i)) 2 0 + 1
/-- Format slot word `i`. -/
def lrSlot (i : Nat) : W32 := BitVec.ofNat 32 (bits (recWord ws (9 + i / 2)) (32 * (i % 2) + 31) (32 * (i % 2)))
/-- Whether g`i` is in the carry set. -/
def lrCarry (i : Nat) : Bool := (recWord ws (13 + i / 64)).testBit (i % 64)
def lrBindtab : Nat := bits (recWord ws 17) 56 0
def lrTsen : Bool := (recWord ws 18).testBit 22
def lrTsfy : Nat := bits (recWord ws 18) 21 19
def lrTsfx : Nat := bits (recWord ws 18) 18 16
def lrBindmask (i : Nat) : Bool := (recWord ws 18).testBit i
def lrTsarea : Nat := bits (recWord ws 19) 56 0
def lrTsstencil : W64 := ws.getD 20 0
def lrPrarea : Nat := bits (recWord ws 21) 56 0
def lrSbarea : Nat := bits (recWord ws 22) 56 0
def lrCsarea : Nat := bits (recWord ws 23) 56 0
def lrCsbytes : Nat := bits (recWord ws 24) 31 0
/-- Constant argument `i`. -/
def lrCarg (i : Nat) : W32 := BitVec.ofNat 32 (bits (recWord ws (25 + i / 2)) (32 * (i % 2) + 31) (32 * (i % 2)))

/-- The product of the extents of fields `a` to `b` − 1. -/
def lrProd (a b : Nat) : Nat := ((List.range 6).filter (fun i => a ≤ i && i < b)).foldl (fun p i => p * lrExt ws i) 1

/-- Threads of a group (spec 02, R32). -/
def lrThreads : Nat := lrProd ws 0 (lrTlev ws)
/-- Groups of a gang. -/
def lrGroups : Nat := lrProd ws (lrTlev ws) (lrGlev ws)
/-- Gangs of the grid. -/
def lrGangs : Nat := lrProd ws (lrGlev ws) 6

/-- The full allotment of role `i` (spec 02, R36). -/
def lrFull (i : Nat) : Nat := max 16 (lrBudget ws i)

/-- The role of the group with rank `k` (spec 02, R34): the first role takes the lowest ranks. -/
def lrRoleOf (k : Nat) : Nat :=
  ((List.range (lrRoles ws)).find? (fun i =>
    k < ((List.range (i + 1)).foldl (fun n j => n + lrNgrp ws j) 0))).getD 0

/-- The lowest bit of field `i` in `sr.wid`. -/
def lrShift (i : Nat) : Nat := (List.range i).foldl (fun n j => n + lrWidth ws j) 0

/-- The coordinate of field `i` for dense index `n` of the fields from `a` (spec 02, R34; spec 11, R306). -/
def lrCoord (a i n : Nat) : Nat := n / lrProd ws a i % lrExt ws i

/-- The work identifier of thread `t` of the group with rank `k` of gang `g` (spec 02, R32, R33). -/
def lrWid (g k t : Nat) : W64 :=
  BitVec.ofNat 64 ((List.range 6).foldl (fun n i =>
    n + 2 ^ lrShift ws i *
      (if i < lrTlev ws then lrCoord ws 0 i t
       else if i < lrGlev ws then lrCoord ws (lrTlev ws) i k
       else lrCoord ws (lrGlev ws) i g)) 0)

/-- The scoreboard tile of gang `g` (spec 11, R304, R305). -/
def lrTile (g : Nat) : Nat × Nat := (lrCoord ws (lrGlev ws) (lrTsfx ws) g, lrCoord ws (lrGlev ws) (lrTsfy ws) g)

end

/-- The kind a code names. -/
def kindOf : Nat → RoleKind
  | 0 => .copy
  | 1 => .matrix
  | 2 => .vector
  | _ => .graphics

/-- Whether record `ws`, with bound values `binds` and the scoreboard found at TSAREA, obeys every check of spec 11,
R305, but for the queue's privilege. -/
def recordOk (ws : List W64) (binds : Map W128) (board : Option Board) : Bool :=
  let w0 := recWord ws 0
  let nr := lrRoles ws
  -- reserved fields and unused role words
  bits w0 63 61 == 0 && bits w0 21 0 == 0 && bits (recWord ws 1) 63 36 == 0
    && (List.range 4).all (fun i => i < nr || recWord ws (5 + i) == 0)
    && bits (recWord ws 17) 63 57 == 0 && bits (recWord ws 18) 63 23 == 0 && bits (recWord ws 19) 63 57 == 0
    && bits (recWord ws 21) 63 57 == 0 && bits (recWord ws 22) 63 57 == 0 && bits (recWord ws 23) 63 57 == 0
    && bits (recWord ws 24) 63 32 == 0 && recWord ws 29 == 0 && recWord ws 30 == 0 && recWord ws 31 == 0
    && lrPeclass ws != 3
    -- addresses that must be multiples
    && lrBindtab ws % 256 == 0 && lrPrarea ws % 128 == 0 && lrSbarea ws % 4096 == 0 && lrCsarea ws % 128 == 0
    && lrNcarry ws ≤ 32 && 1 ≤ lrScrpg ws && lrScrpg ws ≤ 64
    -- widths, extents, levels (spec 02, R32)
    && (List.range 6).all (fun i => lrWidth ws i ≤ 32 && lrExt ws i ≤ 2 ^ lrWidth ws i)
    && lrShift ws 6 ≤ 64
    && 1 ≤ lrTlev ws && lrTlev ws ≤ 5 && lrTlev ws ≤ lrGlev ws && lrGlev ws ≤ 5
    && lrThreads ws ≤ 1024 && lrGroups ws ≤ 8 && lrGangs ws ≤ 2 ^ 32
    -- roles
    && (List.range nr).foldl (fun n i => n + lrNgrp ws i) 0 == lrGroups ws
    && (List.range nr).all (fun i => lrFull ws i * lrThreads ws ≤ 131072)
    -- carry set
    && ((List.range 256).filter (lrCarry ws)).length == lrNcarry ws
    && (List.range 256).all (fun i => !lrCarry ws i || (i != 255 && (List.range nr).all (fun r => i < lrBudget ws r)))
    -- slots and bound records
    && (List.range 8).all (fun i => slotOk (lrSlot ws i))
    && (List.range 16).all (fun i => !lrBindmask ws i || (recRefusal (Map.get binds 0 i)).isNone)
    -- tile scoreboard
    && (!lrTsen ws ||
        (match board with
         | none => false
         | some b =>
           b.stencil == lrTsstencil ws && lrTsfx ws != lrTsfy ws && lrGlev ws ≤ lrTsfx ws && lrGlev ws ≤ lrTsfy ws
             && lrTsfx ws < 6 && lrTsfy ws < 6 && lrExt ws (lrTsfx ws) == b.w && lrExt ws (lrTsfy ws) == b.h
             && (List.range 6).all (fun i => i < lrGlev ws || i == lrTsfx ws || i == lrTsfy ws || lrExt ws i == 1)))
    -- privilege
    && (lrPeclass ws != 2 || lrSyspriv ws)

/-! ### The packet (spec 11, R301) -/

def pkType (ws : List W64) : Nat := bits (recWord ws 0) 7 0
def pkSize (ws : List W64) : Nat := bits (recWord ws 0) 15 8
def pkPasid (ws : List W64) : Nat := bits (recWord ws 0) 35 16
def pkOrd (ws : List W64) : Bool := (recWord ws 0).testBit 36
def pkLrec (ws : List W64) : Nat := bits (recWord ws 1) 56 0
def pkArg (ws : List W64) (i : Nat) : W32 :=
  BitVec.ofNat 32 (bits (recWord ws (2 + i / 2)) (32 * (i % 2) + 31) (32 * (i % 2)))
def pkEtag (ws : List W64) : Nat := bits (recWord ws 6) 31 16
def pkVec (ws : List W64) : Nat := bits (recWord ws 6) 15 0
def pkCdep (ws : List W64) : Nat := bits (recWord ws 7) 56 0

/-- The checks of order 2 on a packet (spec 20, R465). -/
def packetOk (ws : List W64) : Bool :=
  pkType ws ≤ 1 && pkSize ws == 1 && bits (recWord ws 0) 63 37 == 0 && bits (recWord ws 1) 63 57 == 0
    && bits (recWord ws 6) 63 32 == 0 && bits (recWord ws 7) 63 57 == 0 && pkLrec ws % 256 == 0 && pkCdep ws % 16 == 0

end Sys2Proof.Machine
end

