-- ==== Sys2Proof/Machine/Waves.lean ====
section
/-!
DEFINITION. Waves and fragments (spec 02, R25 to R29): which thread stands in a lane, and how fragments split, leave
and end.
-/

namespace Sys2Proof.Machine

/-- The key of the thread in lane `l` of wave `w`. -/
def State.laneTid (s : State) (w l : Nat) : Option Nat := Map.firstKey s.threads (fun _ t => t.place == some (w, l))

/-- The thread in lane `l` of wave `w`. -/
def State.laneThread (s : State) (w l : Nat) : Option Thread := (s.laneTid w l).bind (Map.find s.threads)

/-- The keys of the threads in the lanes of `m` of wave `w`, lowest lane first. -/
def State.tidsOf (s : State) (w : Nat) (m : Mask) : List Nat := (lanesOf m).filterMap (s.laneTid w)

/-- The lanes of wave `w` that hold the threads `ts`. -/
def State.lanesOfTids (s : State) (w : Nat) (ts : List Nat) : Mask :=
  maskOf (ts.filterMap (fun t => match (Map.find s.threads t).bind (·.place) with
    | some (w', l) => if w' = w then some l else none
    | none => none))

/-- Every lane of wave `w` that holds a thread. -/
def State.waveLanes (s : State) (w : Nat) : Mask :=
  maskOf (s.threads.filterMap (fun p => match p.2.place with
    | some (w', l) => if w' = w then some l else none
    | none => none))

/-- The live threads of group `g`. -/
def State.groupTids (s : State) (g : Nat) : List Nat := Map.keysOf (Map.keep s.threads (fun _ t => t.gid == g))

/-- The waves of group `g`. -/
def State.groupWaves (s : State) (g : Nat) : List Nat := Map.keysOf (Map.keep s.waves (fun _ w => w.gid == g))

/-- Fragment `f` of wave `w`. -/
def State.frag (s : State) (w f : Nat) : Option Frag := (Map.find s.waves w).bind (fun v => v.frags[f]?)

/-- Change every thread in a lane of `m` of wave `w`. -/
def State.mapLanes (s : State) (w : Nat) (m : Mask) (f : Nat → Thread → Thread) : State :=
  { s with threads := Map.mapv s.threads (fun _ t => match t.place with
      | some (w', l) => if w' = w && m.getLsbD l then f l t else t
      | none => t) }

/-- Lanes grouped by address, the group with the lowest lane first (spec 02, R27; spec 07, R184). -/
def groupByPc (l : List (Nat × VA)) : List (Mask × VA) :=
  match l with
  | [] => []
  | (i, pc) :: r =>
    let g := groupByPc r
    match g.find? (fun e => e.2 == pc) with
    | some e => (e.1 ||| BitVec.ofNat 32 (2 ^ i), pc) :: g.filter (fun x => x.2 != pc)
    | none => (BitVec.ofNat 32 (2 ^ i), pc) :: g

/-- Ready fragments at the given addresses. -/
def readyFrags (hnd : Bool) (l : List (Mask × VA)) : List Frag :=
  (l.filter (fun e => e.1 != 0)).map (fun e => { mask := e.1, pc := e.2, st := .ready, hnd := hnd })

/-- The list with element `i` replaced by the elements of `r`. -/
def spliceAt {α : Type} (l : List α) (i : Nat) (r : List α) : List α := l.take i ++ r ++ l.drop (i + 1)

/-- Fragment `f` of wave `w` replaced by `r`. -/
def State.spliceFrag (s : State) (w f : Nat) (r : List Frag) : State :=
  s.updWave w (fun v => { v with frags := spliceAt v.frags f r })

/-- The lanes of `m` taken out of a fragment. -/
def Frag.without (m : Mask) (f : Frag) : Frag := { f with mask := f.mask &&& ~~~m }

/-- The lanes of `m` taken out of a wait. -/
def Wait.without (m : Mask) (w : Wait) : Wait := { w with on := w.on &&& ~~~m }

/-- The lanes of `m` taken out of every fragment of a wave, its frozen table included; empty fragments end. -/
def Wave.dropLanes (v : Wave) (m : Mask) : Wave :=
  { v with
    frags := (v.frags.map (fun f => f.without m)).filter (fun f => f.mask != 0)
    handler := v.handler.map (fun h =>
      { h with fault := h.fault &&& ~~~m, held := h.held &&& ~~~m,
               rest := (h.rest.map (fun e => (e.1 &&& ~~~m, e.2))).filter (fun e => e.1 != 0) })
    heldCauses := (v.heldCauses.map (fun h => { h with mask := h.mask &&& ~~~m })).filter (fun h => h.mask != 0) }

/-- A wave ends when its last thread has left it (spec 02, R27). -/
def State.endEmptyWave (s : State) (w : Nat) : State :=
  if s.threads.any (fun p => match p.2.place with | some (w', _) => w' == w | none => false) then s
  else { s with waves := Map.del s.waves w }

/-- The threads in the lanes of `m` leave wave `w` and stand in no wave. -/
def State.leaveWave (s : State) (w : Nat) (m : Mask) : State :=
  ((s.mapLanes w m (fun _ t => { t with place := none })).updWave w (·.dropLanes m)).endEmptyWave w

/-- The launch of a group. -/
def State.launchOf (s : State) (g : Group) : Option Launch := Map.find s.launches g.lid

/-- The launch record of a group; no words where there is none. -/
def State.recOf (s : State) (g : Group) : List W64 := ((s.launchOf g).map (·.words)).getD []

/-- The role kind of a group (spec 02, R34). -/
def State.kindOfGroup (s : State) (g : Group) : RoleKind := kindOf (lrKindCode (s.recOf g) g.role)

/-- Whether a group runs with system privilege (spec 06, R154). -/
def State.privOf (s : State) (g : Group) : Bool := ((s.launchOf g).map (·.sysPriv)).getD false

/-- The registers a thread of the group may name: those below this. g254 is the highest, also with a budget of 256 (spec 02,
R36; spec 03, R58, R72). -/
def Group.allot (g : Group) : Nat := min (if g.full then g.budget else 16) 255

/-- The group as its threads that have entered `d` of its gate calls see it: a call keeps in its frame what the group was before it
(spec 08, R229). -/
def Group.atDepth (g : Group) (d : Nat) : Group :=
  match (if g.gates.length ≤ d then none else g.gates[g.gates.length - 1 - d]?) with
  | none => g
  | some f =>
    { g with bufs := f.bufs, pasid := f.pasid, domain := f.domain, hvec := f.hvec, full := f.full, budget := f.budget,
             gates := g.gates.drop (g.gates.length - d) }

/-- Write buffer record `n` of the group's threads at gate depth `d`, for the instruction with key `key`. -/
def Group.setBuf (g : Group) (d n key : Nat) (r : W128) : Group :=
  let g := { g with bufSeq := Map.put g.bufSeq (16 * d + n) key }
  if g.gates.length ≤ d then { g with bufs := Map.putD g.bufs 0 n r }
  else { g with gates := g.gates.zipIdx.map (fun e =>
    if e.2 = g.gates.length - 1 - d then { e.1 with bufs := Map.putD e.1.bufs 0 n r } else e.1) }

/-- Write a buffer record unless an instruction that issued later has written it (spec 03, R66). -/
def Group.putBuf (g : Group) (d n key : Nat) (r : W128) : Group :=
  if key < Map.get g.bufSeq 0 (16 * d + n) then g else g.setBuf d n key r

/-- The context in which a group accesses memory. -/
def Group.ctx (g : Group) : Ctx := { die := dieOf g.core, func := g.func, pasid := g.pasid, domain := g.domain }

end Sys2Proof.Machine
end

