-- ==== Sys2Proof/Machine/Order.lean ====
section
/-!
DEFINITION. Local order among the accesses of a thread (spec 04, R106 to R108; spec 08, R205), and what an instruction whose
release side is performed at its issue waits for (spec 04, R107).
-/

namespace Sys2Proof.Machine

/-! ### Outstanding accesses -/

/-- Whether two accessed ranges overlap. -/
def Loc.overlaps (a : Loc) (n : Nat) (b : Loc) (m : Nat) : Bool :=
  match a, b with
  | .mem p, .mem q => p < q + m && q < p + n
  | .reg p, .reg q => p < q + m && q < p + n
  | .dom p, .dom q => p < q + m && q < p + n
  | .host p, .host q => p < q + m && q < p + n
  | .ws p, .ws q => p < q + m && q < p + n
  | .scr g p, .scr h q => g == h && p < q + m && q < p + n
  | _, _ => false

/-- The physical address of a place in the device's address space. -/
def Loc.pa : Loc → Nat
  | .mem a => a
  | .reg a => a
  | .dom a => a
  | .host a => a
  | _ => 0

/-- The mask of one stream. -/
def streamMask (n : Nat) : BitVec 16 := 1#16 <<< n

/-- Every stream. -/
def allStreams : BitVec 16 := BitVec.allOnes 16

/-- Every path. -/
def allPaths : BitVec 5 := BitVec.allOnes 5

/-- The outstanding accesses of thread `tid`, as key, path and streams: those in flight, and its copies. -/
def State.outstanding (s : State) (tid : Nat) : List (Nat × Nat × BitVec 16) :=
  (s.flights.filter (fun p => p.2.parts.any (fun q => q.tid == tid))).map (fun p => (p.1, p.2.path, p.2.smask))
    ++ s.cores.flatMap (fun c => (c.2.copyq.filter (fun q => q.toks.any (fun t => t.1 == tid))).map (fun q =>
        (q.key, 1, streamMask q.stream)))

/-- The outstanding accesses of a thread on named paths and streams. -/
def State.pendingOn (s : State) (tid : Nat) (paths : BitVec 5) (sm : BitVec 16) : List (Nat × Nat) :=
  ((s.outstanding tid).filter (fun e => paths.getLsbD e.2.1 && e.2.2 &&& sm != 0)).map (fun e => (e.1, e.2.1))

/-- The accesses in flight of a thread on named paths and streams, without its copies: what a release side covers, for a
copy is covered only once its token is read (spec 04, R111). -/
def State.flightsOn (s : State) (tid : Nat) (paths : BitVec 5) (sm : BitVec 16) : List (Nat × Nat) :=
  (s.pendingOn tid paths sm).filter (fun e => Map.has s.flights e.1)

/-- Whether an access or copy is still outstanding. -/
def State.isLive (s : State) (key : Nat) : Bool :=
  Map.has s.flights key || s.cores.any (fun c => c.2.copyq.any (fun q => q.key == key))

/-- The accesses that local order puts before an access of thread `tid` on a path and streams, at the given places. -/
def State.localDeps (s : State) (tid path : Nat) (sm : BitVec 16) (at' : List (Loc × Nat)) : List Nat :=
  let own := (s.outstanding tid).filter (fun e => e.2.1 == path && e.2.2 &&& sm != 0)
  let here := s.flights.filter (fun p => p.2.path == path && p.2.parts.any (fun q => q.tid == tid
    && at'.any (fun a => a.1.overlaps a.2 q.loc q.len)))
  let fenced := match Map.find s.threads tid with
    | none => []
    | some t => t.fences.flatMap (fun f =>
        if f.paths.getLsbD path && f.smask &&& sm != 0 then
          (f.keys.filter (fun k => !f.samePath || k.2 == path)).map Prod.fst
        else [])
  (own.map (fun e => e.1) ++ here.map Prod.fst ++ fenced).eraseDups.filter s.isLive

/-- Leave a fence in a thread; fences whose accesses are all done are dropped. -/
def State.addFence (s : State) (tid : Nat) (f : FenceRec) : State :=
  s.updThread tid (fun t => { t with fences := (t.fences.filter (fun f => f.keys.any (fun k => s.isLive k.1)))
    ++ (if f.keys.isEmpty then [] else [f]) })

/-- A `FENCEX` in thread `tid`: later accesses on the named paths and streams wait for the earlier ones there (spec 08,
R205); with `samePath`, only for those on their own path. -/
def State.fence (s : State) (tid : Nat) (paths : BitVec 5) (sm : BitVec 16) (samePath : Bool) : State :=
  s.addFence tid { paths := paths, smask := sm, keys := s.pendingOn tid paths sm, samePath := samePath }

/-- A wait for a location to change, which has no access of its own to perform. -/
def isWaiteq : Instr → Bool
  | .waiteq _ => true
  | _ => false

/-- A load of the matrix engine. -/
def loadsEngine : Instr → Bool
  | .ldstat _ => true
  | .ldstatw _ => true
  | .mdld _ => true
  | .accld _ => true
  | .accsclCol _ => true
  | _ => false

/-- What the end of a phase or of a group leaves of its accesses in flight: loads of an engine that serves it no longer change
nothing (spec 09, R249), and what a `WAITEQ` waits for is not read again. -/
def State.dropLoads (s : State) (gid : Nat) : State :=
  { s with flights := Map.keep s.flights (fun _ f => f.gid != gid || !(loadsEngine f.instr || isWaiteq f.instr)) }

/-! ### Instructions that act at issue -/

/-- Whether a thread has an access in flight on one of `paths`. -/
def State.busy (s : State) (paths : BitVec 5) (tids : List Nat) : Bool :=
  tids.any (fun t => !(s.flightsOn t paths allStreams).isEmpty)

/-- Whether local order puts an outstanding access before an LSU access that a thread would make now; the instructions that
ask this name no stream, and count as in every stream (log 21). -/
def State.ordered (s : State) (tids : List Nat) : Bool := tids.any (fun t => !(s.localDeps t 0 allStreams []).isEmpty)

/-- Every path but the copy engine's: outstanding copies go on across a phase end (spec 02, R40). -/
def notCopies : BitVec 5 := 0b11101

/-- The paths a barrier waits for: those it names; with a phase end, every path but that of copies. -/
def barPaths (ph : Bool) (paths : BitVec 5) : BitVec 5 := if ph then paths ||| notCopies else paths

/-- What an instruction that acts in one step waits for once it has issued: a release side for the earlier accesses it covers, on
paths of the lanes that arrive, or of those with a true guard (spec 04, R107); a write of its own, or a read, for what
local order puts before it (spec 04, R106). -/
inductive Before where
  | nothing
  | arrivals (paths : BitVec 5)
  | lanes (paths : BitVec 5)
  | access
  | both
deriving DecidableEq, Repr

/-- What each instruction waits for. -/
def beforeOf : Instr → Before
  | .bar a => .arrivals (barPaths a.ph 1)
  | .barx a => .arrivals (barPaths a.ph a.paths)
  | .sync _ => .arrivals notCopies
  | .phend _ => .arrivals notCopies
  | .srcommit a => .lanes a.paths
  | .srfree a => .lanes a.paths
  | .tsrel _ => .lanes allPaths
  | .fork _ => .both
  | .depdec _ => .both
  | .tqpost _ => .both
  | .tsinit _ => .access
  | .depinit _ => .access
  | .depinitSelf _ => .access
  | _ => .nothing

/-- The lanes of wave `w` whose threads an instruction ends, if any: the exit of a group's last thread is a release side
(spec 07, R188). -/
def endedBy (v : Wave) (on all : Mask) : Instr → Mask
  | .exit _ => on
  | .eretExit _ => (v.handler.map (·.fault)).getD 0
  | .eretExitall _ => all
  | _ => 0

/-- Whether an instruction of wave `w`, whose fragment has the lanes `m`, of which `on` have a true guard, has to wait for
earlier accesses (log 21). -/
def State.waitsBefore (s : State) (w : Nat) (v : Wave) (m on : Mask) (i : Instr) : Bool :=
  (match beforeOf i with
   | .nothing => false
   | .arrivals ps => s.busy ps (s.tidsOf w m)
   | .lanes ps => s.busy ps (s.tidsOf w on)
   | .access => s.ordered (s.tidsOf w on)
   | .both => s.busy allPaths (s.tidsOf w on) || s.ordered (s.tidsOf w on))
  || (let gone := endedBy v on (s.waveLanes w) i
      gone != 0 && (let ts := s.tidsOf w gone
        (s.groupTids v.gid).all ts.contains && s.busy allPaths ts))

/-- A fragment that waits for earlier accesses may go on with its instruction once none is before it. -/
def State.unwait (s : State) : State :=
  let free (w : Nat) (v : Wave) (f : Frag) : Bool := match f.st with
    | .before i on => !s.waitsBefore w v f.mask (on &&& f.mask) i
    | _ => false
  if s.waves.any (fun p => p.2.frags.any (free p.1 p.2)) then
    { s with waves := Map.mapv s.waves (fun w v =>
        { v with frags := v.frags.map (fun f => if free w v f then { f with st := .ready } else f) }) }
  else s

end Sys2Proof.Machine
end

