-- ==== Sys2Proof/Machine/Filing.lean ====
section
/-!
DEFINITION. The bins that release waves (spec 02, R24 to R26; spec 03, R54; spec 11, R309; spec 15, R365).
-/

namespace Sys2Proof.Machine

/-! ### New waves -/

/-- The number of the lowest wave entry that no wave on core `c` holds (spec 03, R54; log 52). -/
def State.freeEntry (s : State) (c : Nat) : Nat :=
  let used := s.waves.filterMap (fun p => if p.2.core == c && p.2.resident then some p.2.entry else none)
  ((List.range (used.length + 1)).find? (fun n => !used.contains n)).getD 0

/-- The issue slot a new wave is bound to: the one with the fewest waves on the core (spec 11, R309). -/
def State.slotFor (s : State) (c mask : Nat) : Nat :=
  let ok := (List.range 4).filter (fun i => mask = 0 || mask.testBit i)
  let load (i : Nat) := (s.waves.filter (fun p => p.2.core == c && p.2.slot == i && p.2.resident)).length
  ok.foldl (fun b i => if load i < load b then i else b) (ok.headD 0)

/-- Whether a wave of group `gid` that is released on core `c` drains at once: its core moves, or its gang is to leave (spec 11,
R315). -/
def State.leaves (s : State) (c gid : Nat) : Bool :=
  (((s.core c).drain.map (·.move)).getD false)
    || (match Map.find s.groups gid with
      | some g => s.cores.any (fun p => (p.2.drain.map (fun d => d.whole.contains g.gang)).getD false)
      | none => false)

/-- A wave of the threads `ts`, lanes in their order, is released on core `c` at `pc` (spec 02, R25; spec 11, R309). -/
def State.newWave (s : State) (c gid : Nat) (pc : VA) (ts : List Nat) : State :=
  let w := s.nextKey
  let mask := ((Map.find s.groups gid).map (fun g => lrSlotmask (s.recOf g))).getD 0
  let v : Wave :=
    { gid := gid, core := c, slot := s.slotFor c mask, wr := [], kr := [],
      frags := [{ mask := maskOf (List.range ts.length), pc := pc, st := .ready, hnd := false }],
      hr := .init, handler := none, asyncs := [], ovf := false, heldCauses := [], age := s.tick, ages := [],
      entry := s.freeEntry c, resident := true,
      replay := false, sigFlip := false, regionCause := none, draining := s.leaves c gid }
  let s := { s with nextKey := w + 1, waves := Map.put s.waves w v }
  { s with threads := Map.mapv s.threads (fun k t =>
      if ts.contains k then { t with place := some (w, ts.findIdx (· == k)), pc := pc } else t) }

/-- Release a wave of up to 32 of the earliest threads of bin `i`; an emptied bin is freed, another releases no other wave in this
cycle (spec 02, R25; spec 15, R365). -/
def State.releaseBin (s : State) (c i : Nat) : State :=
  match (s.core c).bins[i]? with
  | none => s
  | some b =>
    let left := if b.tids.length ≤ 32 then [] else [{ b with tids := b.tids.drop 32, next := s.tick + 1 }]
    let s := s.updCore c (fun r => { r with bins := spliceAt r.bins i left })
    s.newWave c b.gid b.pc ((b.tids.take 32).map Prod.fst)

/-- Bin `i` is emptied for another key, one wave a cycle (spec 02, R26; spec 15, R365). -/
def State.closeBin (s : State) (c i : Nat) : State :=
  match (s.core c).bins[i]? with
  | none => s
  | some b =>
    let s := s.updCore c (fun r => { r with bins := spliceAt r.bins i [{ b with closing := true }] })
    if b.next ≤ s.tick then s.releaseBin c i else s

/-- The index of the bin whose earliest thread is the oldest (spec 02, R26). Of two equally old the one with the lower index is
taken: the spec names none of them (log 20). -/
def oldestBin (bs : List Bin) : Nat :=
  let age (b : Bin) := (b.tids.head?.map Prod.snd).getD 0
  (List.range bs.length).foldl (fun m i => match bs[i]?, bs[m]? with
    | some a, some b => if age a < age b then i else m
    | _, _ => m) 0

/-- Insert a thread in filing order: by tick, then by thread slot (spec 02, R25; log 20). -/
def fileIn (tid tick : Nat) : List (Nat × Nat) → List (Nat × Nat)
  | [] => [(tid, tick)]
  | e :: r => if tick < e.2 || tick == e.2 && tid < e.1 then (tid, tick) :: e :: r else e :: fileIn tid tick r

/-- File a thread into the bin of its group and address, where there is one or a bin is empty; else empty the bin that is being
emptied, or the oldest, and until it is empty the thread waits (spec 02, R24, R26). -/
def State.tryFile (s : State) (c gid tid : Nat) (pc : VA) : State :=
  let key (b : Bin) : Bool := b.gid == gid && b.pc == pc
  let bs := (s.core c).bins
  let s := if bs.any key || bs.length < 64 then s
    else s.closeBin c ((bs.findIdx? Bin.closing).getD (oldestBin bs))
  if (s.core c).bins.any key || (s.core c).bins.length < 64 then
    let fresh : Bin := { gid := gid, pc := pc, tids := [(tid, s.tick)], next := 0, closing := false }
    s.updCore c (fun r =>
      let old := r.bins.map (fun b => if key b then { b with tids := fileIn tid s.tick b.tids } else b)
      { r with bins := if r.bins.any key then old else r.bins ++ [fresh] })
  else s.updCore c (fun r => { r with filing := r.filing ++ [(tid, gid, pc)] })

/-- File thread `tid`, which stands in no wave (spec 02, R24 to R26). -/
def State.fileThread (s : State) (c gid tid : Nat) (pc : VA) : State :=
  (s.updThread tid (fun t => { t with place := none, pc := pc })).tryFile c gid tid pc

/-- The threads that wait for a bin are tried again, in their order. -/
def State.refile (s : State) : State :=
  s.cores.foldl (fun (s : State) p => p.2.filing.foldl (fun (s : State) e => s.tryFile p.1 e.2.1 e.1 e.2.2)
    (if p.2.filing.isEmpty then s else s.updCore p.1 (fun r => { r with filing := [] }))) s

/-- File threads in order. -/
def State.fileThreads (s : State) (c gid : Nat) (l : List (Nat × VA)) : State :=
  l.foldl (fun (s : State) e => s.fileThread c gid e.1 e.2) s

/-! ### Buckets of the burr sorter (spec 10, R294) -/

/-- Release a wave of up to 32 of the earliest threads of bucket `i`; an emptied bucket is freed. -/
def State.releaseBucket (s : State) (c i : Nat) : State :=
  match (s.core c).buckets[i]? with
  | none => s
  | some b =>
    let left := if b.tids.length ≤ 32 then [] else [{ b with tids := b.tids.drop 32 }]
    let s := s.updCore c (fun r => { r with buckets := spliceAt r.buckets i left })
    s.newWave c b.gid b.pc ((b.tids.take 32).map Prod.fst)

/-- Release bucket `i` until it is empty. -/
def State.drainBucket (s : State) (c i n : Nat) : State :=
  match n with
  | 0 => s
  | k + 1 =>
    match (s.core c).buckets[i]? with
    | none => s
    | some b => if b.tids.length ≤ 32 then s.releaseBucket c i else (s.releaseBucket c i).drainBucket c i k

/-- The index of the bucket whose earliest thread is the oldest, the lowest one of several (log 20). -/
def oldestBucket (bs : List Bucket) : Nat :=
  let age (b : Bucket) := (b.tids.head?.map Prod.snd).getD 0
  (List.range bs.length).foldl (fun m i => match bs[i]?, bs[m]? with
    | some a, some b => if age a < age b then i else m
    | _, _ => m) 0

/-- File thread `tid` of group `gid` into the bucket of its group, address and shader key; a new key
that finds no free bucket first empties the oldest one. -/
def State.fileBucket (s : State) (c gid tid : Nat) (pc : VA) (key base : Nat) : State :=
  let s := s.updThread tid (fun t => { t with place := none, pc := pc })
  let same (b : Bucket) : Bool := b.gid == gid && b.pc == pc && b.key == key
  let s := if (s.core c).buckets.any same || (s.core c).buckets.length < 64 then s
    else s.drainBucket c (oldestBucket (s.core c).buckets) 64
  let fresh : Bucket := { gid := gid, pc := pc, key := key, base := base, tids := [(tid, s.tick)] }
  s.updCore c (fun r =>
    let old := r.buckets.map (fun b => if same b then { b with tids := fileIn tid s.tick b.tids } else b)
    { r with buckets := if r.buckets.any same then old else r.buckets ++ [fresh] })

/-- The part of a bucket that holds threads `ts`, or that does not. -/
def Bucket.part (b : Bucket) (keep : Nat → Bool) : Bucket := { b with tids := b.tids.filter (fun e => keep e.1) }

/-- The buckets that are left with a thread. -/
def nonEmpty (bs : List Bucket) : List Bucket := bs.filter (fun b => !b.tids.isEmpty)

/-- Buckets of group `gid` come back to core `c`, their threads' filing times beginning again (spec 02, R48). -/
def State.rebucket (s : State) (c gid : Nat) (bs : List Bucket) : State :=
  bs.foldl (fun (s : State) b => b.tids.foldl (fun (s : State) e => s.fileBucket c gid e.1 b.pc b.key b.base) s) s

/-- Take threads out of every bin and bucket; emptied ones are freed. -/
def State.unfile (s : State) (ts : List Nat) : State :=
  let out (l : List (Nat × Nat)) : List (Nat × Nat) := l.filter (fun e => !ts.contains e.1)
  { s with cores := Map.mapv s.cores (fun _ c =>
      { c with bins := (c.bins.map (fun b => { b with tids := out b.tids })).filter (fun b => !b.tids.isEmpty),
               filing := c.filing.filter (fun e => !ts.contains e.1),
               buckets := (c.buckets.map (fun b => { b with tids := out b.tids })).filter (fun b => !b.tids.isEmpty) }) }

/-! ### Release of full bins and buckets -/

/-- The indices of the lists that hold 32 or more threads, the last one first. -/
def fullOnes (l : List (List (Nat × Nat))) : List Nat :=
  ((List.range l.length).filter (fun i => 32 ≤ ((l[i]?).map (·.length)).getD 0)).reverse

/-- At the end of a cycle each bin and each bucket with 32 or more threads releases one wave, a bin that has released none in
this cycle (spec 02, R25; spec 10, R294; spec 15, R365). -/
def State.releaseFull (s : State) : State :=
  s.cores.foldl (fun (s : State) p =>
    let s := (fullOnes (p.2.bins.map (fun b => if b.next ≤ s.tick then b.tids else []))).foldl
      (fun (s : State) i => s.releaseBin p.1 i) s
    (fullOnes (p.2.buckets.map (·.tids))).foldl (fun (s : State) i => s.releaseBucket p.1 i) s) s

/-- A cycle passes: the L1s lose what lies beyond their capacity. -/
def State.cycle (s : State) : State := (({ s.releaseFull with tick := s.tick + 1 } : State).refile.unwait).trimLines

end Sys2Proof.Machine
end

