-- ==== Sys2Proof/Machine/Pages.lean ====
section
/-!
DEFINITION. The physical scratchpad of a core (spec 01, R11; spec 04, R93): 64 pages, which hold the pages of its groups that were
used last; the others stand at their backing places.
-/

namespace Sys2Proof.Machine

/-- Physical pages of a core's scratchpad. -/
def physPages : Nat := 64

/-- Whether an instruction streams rows of a plane's operand through the matrix engine. -/
def isMstream : Instr → Bool
  | .mstream _ => true
  | .mstreams _ => true
  | .mstreamc _ => true
  | _ => false

/-- Whether a stream of group `gid` is in progress: its pages stay pinned (spec 04, R93). -/
def State.streaming (s : State) (gid : Nat) : Bool :=
  s.waves.any (fun p => p.2.gid == gid && p.2.frags.any (fun f => match f.st with
    | .wait wt => isMstream wt.instr
    | _ => false))

/-- The context of a group's own launch, whose address space holds its backing area. -/
def State.launchCtx (s : State) (g : Group) : Option (Launch × Ctx) :=
  (s.launchOf g).map (fun l => (l, { die := dieOf g.core, func := l.func, pasid := l.pasid, domain := l.domain }))

/-- The place in memory of the backing of page `i` of a group, translated as a store (spec 04, R93; spec 11, R304). -/
def State.backing (s : State) (g : Group) (i : Nat) : Option Nat × State :=
  match s.launchCtx g with
  | none => (none, s)
  | some (l, c) =>
    match s.translate c (lrSbarea l.words + (g.num * lrScrpg l.words + i) * 4096) .write with
    | (.ok t, s) => (if s.isMem t.pa then some t.pa else none, s)
    | (.error _, s) => (none, s)

/-- The units of a page of 4 KiB from unit `u`. -/
def pageUnits (u : Nat) : List Nat := List.range' u 32

/-- The bytes of page `i` of a group's scratchpad. -/
def Group.pageBytes (g : Group) (i : Nat) : List Byte := (List.range 4096).map (fun j => Map.get g.scr 0 (4096 * i + j))

/-- The physical page of page `i` of group `gid` is reused: the page is written back to its backing place, with its marks of
poison, as lines of the L2; a page whose backing cannot be reached keeps its physical page (log 10). -/
def State.spillPage (s : State) (gid i : Nat) : Bool × State :=
  match Map.find s.groups gid with
  | none => (true, s)
  | some g =>
    match s.backing g i with
    | (none, s) => (false, s)
    | (some pa, s) =>
      let s := s.cleanAt none pa 4096
      let s := s.pokes [(pa, g.pageBytes i)]
      let s := (pageUnits (pa / 128)).foldl (fun (s : State) u => s.fillL2 (dieOf g.core) u true) s
      let bad := (pageUnits (32 * i)).filter (fun u => g.scrPoison.contains u)
      let s := bad.foldl (fun (s : State) u => s.poisonLine (pa + (u - 32 * i) * 128) (g.scrInjected.contains u)) s
      (true, s.updGroup gid (fun g =>
        { g with scr := g.scr.filter (fun e => e.1 / 4096 != i), scrOut := Map.put g.scrOut i pa,
                 scrPoison := g.scrPoison.filter (fun u => u / 32 != i), scrInjected := g.scrInjected.filter (fun u => u / 32 != i) }))

/-- The page of a core that was used longest ago and is not of a running stream gives up its physical page, until no more are in use
than the core has. -/
def State.trimPages (s : State) (c : Nat) : List (Nat × Nat) → State
  | [] => s
  | (k, i) :: r =>
    if (s.core c).pages.length ≤ physPages then s
    else if s.streaming k then s.trimPages c r
    else match s.spillPage k i with
      | (true, s) => (s.updCore c (fun q => { q with pages := q.pages.filter (· != (k, i)) })).trimPages c r
      | (false, s) => s.trimPages c r

/-- Page `i` of group `gid` is filled again from its backing place. -/
def State.refillPage (s : State) (gid i : Nat) : State :=
  match (Map.find s.groups gid).bind (fun g => (Map.find g.scrOut i).map (fun pa => (g, pa))) with
  | none => s
  | some (g, pa) =>
    let bytes := s.peek pa 4096
    let bad := (pageUnits 0).filter (fun u => s.poisoned (pa + u * 128) 128)
    let inj := bad.filter (fun u => s.mem.injected.contains (pa / 128 + u))
    let s := (pageUnits (pa / 128)).foldl (fun (s : State) u => s.fillL2 (dieOf g.core) u false) s
    s.updGroup gid (fun g =>
      { g with scr := (bytes.zipIdx).foldl (fun m b => Map.putD m 0 (4096 * i + b.2) b.1) g.scr, scrOut := Map.del g.scrOut i,
               scrPoison := g.scrPoison ++ bad.map (· + 32 * i), scrInjected := g.scrInjected ++ inj.map (· + 32 * i) })

/-- Page `i` of group `gid` is used: it takes a physical page of the group's core, from the page used longest ago where none is
free, and counts as used last (spec 04, R93). -/
def State.pin (s : State) (gid i : Nat) : State :=
  match Map.find s.groups gid with
  | none => s
  | some g =>
    if (s.core g.core).pages.head? = some (gid, i) then s
    else
      let s := s.refillPage gid i
      let s := { s with cores := Map.mapv s.cores (fun _ r => { r with pages := r.pages.filter (· != (gid, i)) }) }
      let s := s.updCore g.core (fun r => { r with pages := (gid, i) :: r.pages })
      s.trimPages g.core (((s.core g.core).pages.drop 1).reverse)

/-- The pages that `n` bytes from offset `o` of a scratchpad touch are used. -/
def State.pinRange (s : State) (gid o n : Nat) : State :=
  (List.range' (o / 4096) ((o + max 1 n - 1) / 4096 + 1 - o / 4096)).foldl (fun (s : State) i => s.pin gid i) s

/-- A group leaves its core: its pages are no longer pinned, and their physical pages are the first to be reused. -/
def State.unpin (s : State) (gid : Nat) : State :=
  { s with cores := Map.mapv s.cores (fun _ r =>
      { r with pages := r.pages.filter (fun p => p.1 != gid) ++ r.pages.filter (fun p => p.1 == gid) }) }

/-- The pages of a group that ends are free; a kill scrubs their backing too (spec 19, R432). -/
def State.freePages (s : State) (gid : Nat) (scrub : Bool) : State :=
  let out := if scrub then ((Map.find s.groups gid).map (·.scrOut)).getD [] else []
  let s := { s with cores := Map.mapv s.cores (fun _ r => { r with pages := r.pages.filter (fun p => p.1 != gid) }) }
  out.foldl (fun (s : State) e => s.pokes [(e.2, List.replicate 4096 0)]) s

/-- What core `c` holds in its L1, instruction cache and physical scratchpad leaves it: another physical core takes its place (spec
02, R39; spec 04, R110). -/
def State.emptyCore (s : State) (c : Nat) : State :=
  let s := s.cleanBy c (fun _ => true)
  ((s.core c).pages.foldl (fun (s : State) p => (s.spillPage p.1 p.2).2) s).updCore c (fun r =>
    { r with l1 := [], icache := [], pages := [] })

end Sys2Proof.Machine
end

