-- ==== Sys2Proof/Machine/Contain.lean ====
section
/-!
DEFINITION. Containment (spec 19): killing a gang (R432 to R434), ending a domain (R435), gate calls cut short (R439),
and the ends of groups and gangs (spec 02, R43).
-/

namespace Sys2Proof.Machine

/-! ### Ends of groups and gangs -/

/-- Whether group `g` has ended with no unfinished child (spec 02, R43). -/
def State.groupDone (s : State) (g : Nat) : Bool :=
  match Map.find s.groups g with
  | none => true
  | some v => v.st == .ended && v.children == 0

/-- The next phase of group `g` is queued: its gang's waiting time begins (spec 02, R39; spec 11, R303). -/
def State.queuePhase (s : State) (g : Nat) : State :=
  match Map.find s.groups g with
  | none => s
  | some v => (s.updGroup g (fun v => { v with st := .phase .queued })).updGang v.gang (fun q => { q with since := s.tick })

/-- One child of group `g` has finished: its frame is freed, and a group that waits for its children is queued when
the last one has (spec 02, R42, R43). -/
def State.childFinished (s : State) (g area : Nat) : State :=
  let s := { s with mem := { s.mem with cframes := Map.upd s.mem.cframes area (· - 1) } }
  let s := s.updGroup g (fun v => { v with children := v.children - 1 })
  match Map.find s.groups g with
  | some v => if v.children = 0 && v.st == .phase .children then s.queuePhase g else s
  | none => s

/-- End the first resident gang whose groups are all done; its parent group sees a finished child. The groups' records
stay while an access or copy of theirs is still to be performed (spec 07, R188). -/
def State.settleGang (s : State) : State :=
  match Map.firstKey s.gangs (fun _ g => g.st != .ended && g.st != .waiting && g.groups.all s.groupDone) with
  | none => s
  | some k =>
    match Map.find s.gangs k with
    | none => s
    | some g =>
      let s := s.updGang k (fun g => { g with st := .ended })
      match g.parent with
      | none => s
      | some p => s.childFinished p g.frameArea

/-- Whether an access or copy of group `g` is still to be performed. -/
def State.groupBusy (s : State) (g : Nat) : Bool :=
  s.flights.any (fun p => p.2.gid == g) || s.cores.any (fun c => c.2.copyq.any (fun q => q.gid == g))

/-- Forget the ended gangs that have nothing left to perform, their groups, and the launches of forked children and
successors that have no gang left. -/
def State.reap (s : State) : State :=
  let gone := Map.keysOf (Map.keep s.gangs (fun _ g => g.st == .ended && !g.groups.any s.groupBusy))
  let s := { s with
    groups := Map.keep s.groups (fun _ g => !gone.contains g.gang)
    gangs := Map.keep s.gangs (fun k _ => !gone.contains k) }
  { s with launches := Map.keep s.launches (fun k l => match l.src with
      | .fork _ => s.gangs.any (fun p => p.2.lid == k)
      | .succ _ => (!l.ended && l.nextGang < lrGangs l.words) || s.gangs.any (fun p => p.2.lid == k)
      | _ => true) }

/-- End every gang whose groups are all done, children before parents, and forget what is left of them. -/
def State.settleGangs (s : State) : State :=
  ((List.range (s.gangs.length)).foldl (fun (s : State) _ => s.settleGang) s).reap

/-! ### Leaving a gate call (spec 08, R230; spec 19, R439) -/

/-- The caller's registers after a call: g0 to g3 take the callee's where RESMASK says so, or all ones where the
service was lost. -/
def resultRegs (lost : Bool) (resmask : Nat) (callee caller : Map W32) : Map W32 :=
  [0, 1, 2, 3].foldl (fun r i =>
    if lost then Map.putD r 0 i (BitVec.allOnes 32)
    else if resmask.testBit i then Map.putD r 0 i (Map.get callee 0 i)
    else r) caller

/-- A requesting thread returns to its caller's state. -/
def Thread.leaveCall (t : Thread) (lost : Bool) (resmask : Nat) : Thread :=
  match t.outer with
  | [] => t
  | o :: os =>
    { t with call := o.call, regs := resultRegs lost resmask t.regs o.regs, saved := o.saved, preds := o.preds, chain := o.chain,
             pend := o.pend, fences := o.fences ++ t.fences, nLd := o.nLd, nSt := o.nSt, nCp := o.nCp, nTl := o.nTl,
             drew := o.drew, outer := os }

/-- The lanes of `m` in the fragments of a wave that hold them go on at `pc`, each fragment on its own; a handler entry of
theirs is over, and what it had held apart is one fragment again (spec 02, R27). A handler of other lanes goes on. -/
def Wave.goOn (v : Wave) (m : Mask) (pc : VA) : Wave :=
  let go (k : Mask) : List Frag := if k &&& m = 0 then [] else [{ mask := k &&& m, pc := pc, st := .ready, hnd := false }]
  let ends := v.frags.all (fun f => !f.hnd || f.mask &&& ~~~m = 0)
  let split (f : Frag) : List Frag :=
    if f.hnd then (if ends then [] else [f])
    else go f.mask ++ (if f.mask &&& ~~~m = 0 then [] else [f.without m])
  { v with
    frags := v.frags.flatMap split ++ (match v.handler with
      | some h => if ends then go (h.rest.foldl (fun k e => k ||| e.1) (if h.async then 0 else h.fault ||| h.held)) else []
      | none => [])
    handler := if ends then none else v.handler
    heldCauses := (v.heldCauses.map (fun h => { h with mask := h.mask &&& ~~~m })).filter (fun h => h.mask != 0) }

/-- End the innermost gate call of group `g`: registers, records, address space, domain and handler vector are the
caller's again, the frame is free, wave-uniform registers and masks are invalid, and every thread of the call stands
ready at the call's PC + 8, in the fragments in which they waited. Threads that stood in no wave are filed again (spec 08,
R232). -/
def State.endCall (s : State) (g : Nat) (lost : Bool) : State :=
  match Map.find s.groups g with
  | none => s
  | some v =>
    match v.gates with
    | [] => s
    | fr :: rest =>
      let s := s.updGroup g (fun v =>
        { v with bufs := fr.bufs, pasid := fr.pasid, domain := fr.domain, hvec := fr.hvec, full := fr.full,
                 budget := fr.budget, gates := rest })
      let s := { s with
        threads := Map.mapv s.threads (fun k t =>
          let t := if fr.requesters.contains k then t.leaveCall lost fr.resmask else t
          let t := if (fr.requesters.contains k || fr.others.contains k) && t.place.isNone then { t with pc := fr.pc }
            else t
          if t.gid = g then
            { t with held := rest.any (fun f => !f.requesters.contains k && !f.others.contains k) }
          else t)
        mem := { s.mem with gframes := s.mem.gframes.filter (fun p => p != (fr.frames, fr.index)) } }
      let s := (s.groupWaves g).foldl (fun (s : State) w =>
        let m := s.lanesOfTids w (fr.requesters ++ fr.others)
        s.updWave w (fun u =>
          let u := { u with wr := [], kr := [] }
          if m = 0 then u else u.goOn m fr.pc)) s
      let still (k : Nat) : Bool := ((Map.find s.threads k).map (·.held)).getD false
      let kept := nonEmpty (v.savedBuckets.map (fun b => b.part (fun k =>
        !(fr.requesters.contains k || fr.others.contains k))))
      if v.st != .resident then s.updGroup g (fun v => { v with savedBuckets := kept })
      else
        let back := nonEmpty (kept.map (fun b => b.part (fun k => !still k)))
        let bucketed := back.flatMap (fun b => b.tids.map Prod.fst)
        let loose := s.threads.filter (fun p => p.2.gid == g && p.2.place.isNone && !p.2.held && !bucketed.contains p.1)
        let s := s.updGroup g (fun v => { v with savedBuckets := nonEmpty (kept.map (fun b => b.part still)) })
        let s := (s.unfile (loose.map Prod.fst)).fileThreads v.core g (loose.map (fun p => (p.1, p.2.pc)))
        s.rebucket v.core g back

/-! ### Killing a gang (spec 19, R432 to R434) -/

/-- Why a gang is killed: the record's causes, whether `FINJ` is behind it, the damaged unit, the core of the group that the
damage belongs to, and whether the kill is final whatever the record says. -/
structure Kill where
  cause : Nat
  cause2 : Option Nat := none
  cause3 : Option Nat := none
  inj : Bool := false
  addr : Nat := 0
  aphys : Bool := false
  core : Option Nat := none
  final : Bool := false
deriving DecidableEq, Repr

/-- The stores of group `g` that are not poisoned leave its core, and its scratchpad pages are freed and scrubbed (spec 19, R432,
steps 3 and 4). -/
def State.dropCached (s : State) (g : Nat) : State := ((s.loseMarked g).flushGroup g).freePages g true

/-- Drop everything of group `g`: waves, threads, bins, buckets, copies, accesses that have not left the core, barrier
entries, engine, gate frames, and the group itself (spec 19, R432, steps 1 to 4). -/
def State.dropGroup (s : State) (g : Nat) : State :=
  { s with
    threads := Map.keep s.threads (fun _ t => t.gid != g)
    waves := Map.keep s.waves (fun _ w => w.gid != g)
    flights := Map.keep s.flights (fun _ f => f.gid != g)
    groups := Map.del s.groups g
    mem := { s.mem with gframes := match Map.find s.groups g with
      | none => s.mem.gframes
      | some v => s.mem.gframes.filter (fun p => !v.gates.any (fun f => p == (f.frames, f.index))) }
    cores := Map.mapv s.cores (fun _ c =>
      { c with bins := c.bins.filter (fun b => b.gid != g), filing := c.filing.filter (fun e => e.2.1 != g),
               buckets := c.buckets.filter (fun b => b.gid != g),
               copyq := c.copyq.filter (fun q => q.gid != g), btab := c.btab.filter (fun b => b.1 != g),
               eng := if c.eng.owner = some g then .init else c.eng }) }

/-- The gangs forked by gang `k` that have not finished, and their descendants, each after the gang that forked it. -/
def State.descendants (s : State) (k : Nat) : List Nat :=
  (List.range s.gangs.length).foldl (fun ds _ =>
    ds ++ (Map.keysOf (Map.keep s.gangs (fun i g =>
      g.st != .ended && !ds.contains i && i != k
        && (match g.parent with
            | none => false
            | some p => (k :: ds).any (fun a => match Map.find s.gangs a with
                | some ga => ga.groups.contains p
                | none => false)))))) []

/-- Whether a kill of gang `g` queues a relaunch (spec 19, R433). -/
def relaunches (l : Launch) (g : Gang) (k : Kill) : Bool :=
  !k.final && !l.ended && lrRelaunch l.words && g.relaunches < 3

/-- Stop, scrub, report and, where R433 says so, queue again one gang; its children are dealt with apart. -/
def State.killOne (s : State) (gk : Nat) (k : Kill) : State :=
  match Map.find s.gangs gk with
  | none => s
  | some g =>
    match Map.find s.launches g.lid with
    | none => s
    | some l =>
      if g.st = .ended then s
      else
        let core := k.core.or ((g.groups.head?.bind (Map.find s.groups)).map (·.core))
        let again := relaunches l g k
        let s := g.groups.foldl (fun (s : State) r => (s.dropCached r).dropGroup r) s
        let s := s.updGang gk (fun g =>
          { g with groups := [], st := if again then .waiting else .ended, since := s.tick, asked := none, class7 := false,
                   relaunches := if again then g.relaunches + 1 else g.relaunches })
        let s := { s with rep := { s.rep with halting := Map.del s.rep.halting gk } }
        let mark (l : Launch) : Launch := { l with failed := l.failed || !again }
        let s := s.updLaunch g.lid mark
        let s := match l.src with
          | .fork r => s.updLaunch r mark
          | _ => s
        let s := s.count (if again then 0x164 else if lrRelaunch l.words && g.relaunches = 3 then 0x165 else 0x166)
        s.hostReport
          { cause := k.cause, cause2 := k.cause2, cause3 := k.cause3, inj := k.inj, addr := k.addr, aphys := k.aphys,
            action := if again then 1 else 2, relq := again, relcnt := g.relaunches, func := l.func, pasid := l.pasid,
            domain := l.domain, core := core.getD 0x1FF, lrec := l.lrec, gang := g.num, queue := l.queue,
            etag := l.etag }

/-- After a final kill of a forked gang, its parent sees a finished child. -/
def State.orphan (s : State) (gk : Nat) : State :=
  match Map.find s.gangs gk with
  | some g => match g.parent with
    | some p => if g.st = .ended then s.childFinished p g.frameArea else s
    | none => s
  | none => s

/-- Kill a gang (spec 19, R432): its descendants finally, each with its own record and the same cause; then itself,
with a relaunch where R433 allows one. -/
def State.killGang (s : State) (gk : Nat) (k : Kill) : State :=
  match Map.find s.gangs gk with
  | none => s
  | some g =>
    if g.st = .ended then s
    else
      let ds := s.descendants gk
      let s := ds.foldl (fun (s : State) d => (s.killOne d { k with final := true, core := none }).orphan d) s
      ((s.killOne gk k).orphan gk).settleGangs

/-- Kill the gang of group `g`. -/
def State.killGroup (s : State) (g : Nat) (k : Kill) : State :=
  match Map.find s.groups g with
  | none => s
  | some v => s.killGang v.gang { k with core := some v.core }

/-! ### Ending a domain (spec 19, R435) -/

/-- Set LOST in every gate-table entry whose DOMAIN is `d`, of every function (spec 08, R228). A function that is not enabled
and whose GTBASE is zero has no gate table yet. -/
def State.loseGates (s : State) (d : Nat) : State :=
  (List.range 64).foldl (fun s f =>
    if !(s.ftWord f 0).testBit 63 && s.ftBase f 6 = 0 then s
    else (List.range 64).foldl (fun s i =>
      let a := s.ftBase f 6 + 64 * i
      if bits (s.peekNat (a + 8) 8) 63 52 = d && !(s.peekNat a 8).testBit 62 then
        s.poke a (toBytes 8 (s.peekNat a 8 + 2 ^ 62))
      else s) s) s

/-- Bytes of a gate frame. -/
def gateFrameBytes : Nat := 132096

/-- Pages that `n` bytes at `va` lie in. -/
def pagesOf (va n : Nat) : Nat := (va + n - 1) / 4096 + 1 - va / 4096

/-- Whether the bytes of `k` pages of a context, from `va` up to `stop`, cannot all be read: a page does not translate to
memory, or carries poison. -/
def State.pagesBad (s : State) (c : Ctx) (va stop : Nat) : Nat → Bool
  | 0 => false
  | k + 1 => (match (s.translate c va .read).1 with
    | .error _ => true
    | .ok t => s.paKind t.pa != .mem || s.poisoned t.pa (min (stop - va) (4096 - va % 4096)))
      || s.pagesBad c ((va / 4096 + 1) * 4096) stop k

/-- Whether the frame of the innermost call of a group cannot be read. -/
def State.frameBad (s : State) (g : Group) (fr : GateFrame) : Bool :=
  let a := fr.framesVa + fr.index * gateFrameBytes
  s.pagesBad g.ctx a (a + gateFrameBytes) (pagesOf a gateFrameBytes)

/-- End the gate calls of group `g` down to the outermost one whose callee runs in domain `d`; each is reported under
0x136. A frame that cannot be read kills the calling gang under the same cause (spec 19, R439). -/
def State.endCallsOf (s : State) (d g : Nat) : State :=
  match Map.find s.groups g with
  | none => s
  | some v =>
    let deep := ((List.range v.gates.length).filter (fun i => match v.gates[i]? with
      | some fr => fr.callee == d
      | none => false)).foldl (fun n i => max n (i + 1)) 0
    (List.range deep).foldl (fun s _ =>
      match Map.find s.groups g with
      | none => s
      | some w =>
        let hit := match w.gates with | fr :: _ => fr.callee == d | [] => false
        let bad := match w.gates with | fr :: _ => s.frameBad w fr | [] => false
        let s := if bad then s.killGroup g { cause := 0x136 } else s.endCall g true
        if bad || !hit then s
        else
          let l := Map.find s.launches w.lid
          s.hostReport
            { cause := 0x136, action := 4, func := w.func, pasid := (l.map (·.pasid)).getD 0,
              domain := (l.map (·.domain)).getD 0, core := w.core, lrec := (l.map (·.lrec)).getD 0,
              gang := ((Map.find s.gangs w.gang).map (·.num)).getD 0, queue := (l.map (·.queue)).getD 0,
              etag := (l.map (·.etag)).getD 0 }) s

/-- A gang that was relaunchable is not relaunched, because its domain ends (spec 17, R392; spec 19, R435, R457). -/
def State.noRelaunch (s : State) (g : Gang) (l : Launch) : State :=
  s.hostReport
    { cause := 0x137, relcnt := g.relaunches, func := l.func, pasid := l.pasid, domain := l.domain, lrec := l.lrec,
      gang := g.num, queue := l.queue, etag := l.etag }

/-- End domain `d`: its queued launches end without admission, its gangs are killed finally with cause `code`, calls
into it end, its services are lost, its TLB entries are dropped. -/
def State.endDomain (s : State) (d code : Nat) : State :=
  let s := { s with launches := Map.mapv s.launches (fun _ l => if l.domain = d then { l with ended := true } else l) }
  let gs := Map.keep s.gangs (fun _ g => g.st != .ended
    && (match Map.find s.launches g.lid with | some l => l.domain == d | none => false))
  let again := gs.filterMap (fun p => (Map.find s.launches p.2.lid).bind (fun l =>
    if lrRelaunch l.words && (if p.2.st = .waiting then decide (0 < p.2.relaunches) else decide (p.2.relaunches < 3)) then
      some (p.2, l) else none))
  let s := (Map.keysOf gs).foldl (fun s k =>
    match Map.find s.gangs k with
    | none => s
    | some g =>
      if g.st = .waiting then (s.updGang k (fun g => { g with st := .ended })).orphan k
      else s.killGang k { cause := code, final := true }) s
  let s := again.foldl (fun s e => s.noRelaunch e.1 e.2) s
  let s := (Map.keysOf s.groups).foldl (fun s g => s.endCallsOf d g) s
  let s := (s.loseGates d).settleGangs
  { s with mmu := { s.mmu with tlb := s.mmu.tlb.filter (fun t => t.domain != d) } }

/-- A service whose memory or own launch an error has met is ended: the host is told under 0x126, and its domain ends (spec
19, R439). -/
def State.endService (s : State) (v : Group) (d : Nat) (k : Kill) : State :=
  let l := Map.find s.launches v.lid
  (s.hostReport
    { cause := 0x126, cause2 := k.cause2, action := 3, inj := k.inj, func := v.func, pasid := v.pasid, domain := d,
      core := v.core, lrec := (l.map (·.lrec)).getD 0, gang := ((Map.find s.gangs v.gang).map (·.num)).getD 0,
      queue := (l.map (·.queue)).getD 0, etag := (l.map (·.etag)).getD 0, addr := k.addr, aphys := k.aphys }).endDomain d k.cause

/-- Whether a gate call into domain `d` is in progress. -/
def State.serving (s : State) (d : Nat) : Bool := s.groups.any (fun p => p.2.gates.any (fun f => f.callee == d))

/-- Whose an error is that meets a group (spec 19, R428, R439): a structure of its own launch; in a gate call, the callee's
register rows, wave entries or datapath, or memory read through the caller's address space; memory that the callee of a
service's domain read through its own. -/
inductive Met where
  | own
  | caller
  | service (d : Nat)
deriving DecidableEq, Repr

/-- The service domain that an error of group `v` ends, if it ends one: that of the memory it met, or that of the group's own
launch while calls into it are in progress. -/
def State.endsService (s : State) (v : Group) (m : Met) : Option Nat :=
  let own := ((Map.find s.launches v.lid).map (·.domain)).bind (fun d => if s.serving d then some d else none)
  match m with
  | .service d => some d
  | .caller => if v.gates.isEmpty then own else none
  | .own => own

/-- The cause under which an error kills group `v`: 0x124 for one that meets a gate call through its caller. -/
def Met.code (m : Met) (v : Group) (cause : Nat) : Nat := if m = .caller ∧ !v.gates.isEmpty then 0x124 else cause

/-- An error meets group `g`: it ends a service's domain, or kills the group's gang (spec 19, R428, R439). -/
def State.contextError (s : State) (g : Nat) (m : Met) (k : Kill) : State :=
  match Map.find s.groups g with
  | none => s
  | some v => match s.endsService v m with
    | some d => s.endService v d k
    | none => s.killGroup g { k with cause := m.code v k.cause }

/-- The service whose callee a group is in. -/
def Group.callee (g : Group) : Option Nat := if g.gates.isEmpty then none else some g.domain

end Sys2Proof.Machine
end

