-- ==== Sys2Proof/Machine/Operands.lean ====
section
/-!
DEFINITION. Operand forms (spec 03, R55 to R62; spec 07, R160): reading and writing registers, pairs, quadruples,
predicates and masks, and which registers each instruction names (spec 18, R405, R407; spec 11, R311).
-/

namespace Sys2Proof.Machine

/-! ### Registers of a thread -/

/-- General register `k`. -/
def Thread.reg (t : Thread) (k : Nat) : W32 := Map.get t.regs 0 k

/-- Write general register `k`. -/
def Thread.setReg (t : Thread) (k : Nat) (v : W32) : Thread := { t with regs := Map.putD t.regs 0 k v }

/-- The 64-bit value of the pair at `k` (spec 03, R57). -/
def Thread.pair (t : Thread) (k : Nat) : W64 := t.reg (k + 1) ++ t.reg k

/-- Write the pair at `k`. -/
def Thread.setPair (t : Thread) (k : Nat) (v : W64) : Thread :=
  (t.setReg k (v.setWidth 32)).setReg (k + 1) ((v >>> 32).setWidth 32)

/-- Predicate `n`; 7 reads true (spec 03, R59). -/
def Thread.pred (t : Thread) (n : Fin 8) : Bool := n = 7 || t.preds.getLsbD n.val

/-- Write predicate `n`; a write of 7 is discarded. -/
def Thread.setPred (t : Thread) (n : Fin 8) (b : Bool) : Thread :=
  if n = 7 then t
  else { t with preds := if b then t.preds ||| (1#7 <<< n.val) else t.preds &&& ~~~(1#7 <<< n.val) }

/-- The guard of a word (spec 06, R134; spec 03, R59): the negate bit inverts the predicate read. -/
def guardOn (h : Hdr) (t : Thread) : Bool := t.pred h.guard != h.neg

/-! ### Operands -/

/-- The 32-bit value of an operand; an invalid wave-uniform register or mask reads zero (spec 18, R407). -/
def opRead (o : Opnd) (v : Wave) (t : Thread) : W32 :=
  match o with
  | .g k => t.reg k.val
  | .z => 0
  | .w k => Map.get v.wr 0 k.val
  | .k k => Map.get v.kr 0 k.val

/-- The 64-bit value of an operand: a pair, or zero (spec 03, R57). -/
def opRead64 (o : Opnd) (v : Wave) (t : Thread) : W64 :=
  match o with
  | .g k => t.pair k.val
  | .z => 0
  | .w k => Map.get v.wr 0 (k.val + 1) ++ Map.get v.wr 0 k.val
  | .k _ => 0

/-- The value of an operand in the width of a form, as a natural number (spec 07, R160). -/
def opNat (wide : Bool) (o : Opnd) (v : Wave) (t : Thread) : Nat :=
  if wide then (opRead64 o v t).toNat else (opRead o v t).toNat

/-- Write a 32-bit result to a general register; discarded for `gz`, and nothing for the classes a wave owns. -/
def opWrite (o : Opnd) (x : W32) (t : Thread) : Thread :=
  match o with
  | .g k => t.setReg k.val x
  | _ => t

/-- Write a 64-bit result to a general pair. -/
def opWrite64 (o : Opnd) (x : W64) (t : Thread) : Thread :=
  match o with
  | .g k => t.setPair k.val x
  | _ => t

/-- Write a result in the width of a form, modulo 2^wd (spec 07, R160). -/
def opPut (wide : Bool) (o : Opnd) (n : Nat) (t : Thread) : Thread :=
  if wide then opWrite64 o (BitVec.ofNat 64 n) t else opWrite o (BitVec.ofNat 32 n) t

/-- The width of a form in bits. -/
def wdOf (wide : Bool) : Nat := if wide then 64 else 32

/-- Write a wave-uniform register, which sets its valid bit (spec 03, R60, R61). -/
def Wave.setW (v : Wave) (k : Nat) (x : W32) : Wave := { v with wr := Map.put v.wr k x }

/-- Write a lane mask, which sets its valid bit. -/
def Wave.setK (v : Wave) (k : Nat) (x : W32) : Wave := { v with kr := Map.put v.kr k x }

/-- Write one value for the whole wave to a wave-uniform register or mask; nothing for the classes a thread owns. -/
def waveWrite (o : Opnd) (x : W32) (v : Wave) : Wave :=
  match o with
  | .w k => v.setW k.val x
  | .k k => v.setK k.val x
  | _ => v

/-- Write one 64-bit value to a wave-uniform pair. -/
def waveWrite64 (o : Opnd) (x : W64) (v : Wave) : Wave :=
  match o with
  | .w k => (v.setW k.val (x.setWidth 32)).setW (k.val + 1) ((x >>> 32).setWidth 32)
  | _ => v

/-- Whether an operand is a wave-uniform register or a mask. -/
def opWave : Opnd → Bool
  | .w _ => true
  | .k _ => true
  | _ => false

/-! ### The operands of each instruction -/

/-- The header of an encoded instruction; an event has none. -/
def hdrOfInstr : Instr → Option Hdr
  | .unassignedOpcode w _ => some (hdrOf w.toNat)
  | .iadd a | .isub a => some a.h
  | .iaddc a | .isubb a => some a.h
  | .imul a | .imulhs a | .imulhu a | .imins a | .iminu a | .imaxs a | .imaxu a | .and a | .or a | .xor a
  | .andn a => some a.h
  | .shl a | .shr a | .sar a | .rotl a | .bfxs a | .bfxu a => some a.h
  | .mov a | .iabs a | .brev a => some a.h
  | .wmov a => some a.h
  | .popc a | .clz a => some a.h
  | .movi a => some a.h
  | .movhi a => some a.h
  | .kset a => some a.h
  | .iaddi a | .andi a | .ori a | .xori a => some a.h
  | .shli a | .shri a | .sari a => some a.h
  | .imulws a | .imulwu a => some a.h
  | .imad a => some a.h
  | .bfi a => some a.h
  | .lop3 a => some a.h
  | .lea a => some a.h
  | .idivs a | .idivu a => some a.h
  | .prmt a | .ffma a => some a.h
  | .sel a => some a.h
  | .icmps a | .icmpu a => some a.h
  | .plop a => some a.h
  | .kballot a => some a.h
  | .kpopc a | .kfind a => some a.h
  | .klop a => some a.h
  | .shfl a => some a.h
  | .srrd a => some a.h
  | .srwr a => some a.h
  | .bra a => some a.h
  | .brx a => some a.h
  | .call a => some a.h
  | .callx a => some a.h
  | .nop a | .ret a | .reform a | .yield a | .exit a | .allot a | .allotrel a | .sync a | .phend a | .tsrel a
  | .gret a | .nopre a | .preon a | .swappl a | .eretRetry a | .eretSkip a | .eretExit a | .eretExitall a
  | .tlbinvAll a | .finjReplay a | .finjSig a | .halt a => some a.h
  | .trap a | .bkpt a => some a.h
  | .ld a | .ldw a => some a.h
  | .st a => some a.h
  | .lds a => some a.h
  | .sts a => some a.h
  | .ldws a => some a.h
  | .atom a => some a.h
  | .atoms a => some a.h
  | .atomf a => some a.h
  | .cas a | .cass a => some a.h
  | .acq a => some a.h
  | .rel a => some a.h
  | .brld a => some a.h
  | .brset a => some a.h
  | .fence a => some a.h
  | .fencex a => some a.h
  | .bar a => some a.h
  | .barx a => some a.h
  | .waitc a => some a.h
  | .waiteq a => some a.h
  | .copy a => some a.h
  | .copyw a => some a.h
  | .pref a => some a.h
  | .sracq a | .srwait a => some a.h
  | .srcommit a | .srfree a => some a.h
  | .coll a => some a.h
  | .fork a => some a.h
  | .tsinit a | .depinit a | .depinitSelf a => some a.h
  | .depdec a => some a.h
  | .tqpost a => some a.h
  | .gcall a => some a.h
  | .fadd a | .fsub a | .fmul a | .fmin a | .fmax a | .fdiv a | .fldexp a => some a.h
  | .fcmp a => some a.h
  | .frcp a | .frsq a | .fsqrt a | .fexp2 a | .flog2 a | .fsin a | .fcos a => some a.h
  | .fclass a => some a.h
  | .frnd a => some a.h
  | .cvtf a | .cvtfi a | .cvtif a => some a.h
  | .pack2 a => some a.h
  | .unpk2 a => some a.h
  | .hadd2 a | .hmul2 a => some a.h
  | .hfma2 a => some a.h
  | .idp4 a => some a.h
  | .wred a => some a.h
  | .derivx a | .derivy a => some (match a with | .plane p => p.h | .quad q => q.h)
  | .interp a => some a.h
  | .ldstat a | .ldstatw a => some a.h
  | .mstream a => some a.h
  | .mstreams a => some a.h
  | .mstreamc a => some a.h
  | .mckvChk a | .mckvFix a | .mckvBase a => some a.h
  | .accz a | .acczAll a => some a.h
  | .accrd a => some a.h
  | .accwr a => some a.h
  | .accld a => some a.h
  | .accst a => some a.h
  | .accsclRow a => some a.h
  | .accsclCol a => some a.h
  | .accredSum a | .accredMax a => some a.h
  | .accredTile a => some a.h
  | .mdld a => some a.h
  | .rastri a => some a.h
  | .traverse a => some a.h
  | .filter a => some a.h
  | .oblend a => some a.h
  | .shadeq a | .gqpush a | .gqpushClose a | .gqpop a => some a.h
  | .hitsort a => some a.h
  | .anyhitNext a => some a.h
  | .anyhitAcc a | .anyhitTerm a => some a.h
  | .anyhitCommit a => some a.h
  | .hizq a => some a.h
  | .macroPrim a => some a.h
  | .bop a => some a.h
  | .srwrp a => some a.h
  | .tlbinvPage a | .tlbinvIpa a => some a.h
  | .tlbinvPasid a | .tlbinvFunc a | .tlbinvDom a | .domsetEnd a | .finjAcc a | .finjAccue a | .finjSpue a => some a.h
  | .domsetStat a => some a.h
  | .finjLineue a => some a.h
  | .mcload a => some a.h
  | .sigcmpCmp a => some a.h
  | .sigcmpRd a => some a.h
  | _ => none

/-- A register operand: the field detail of spec 17, R388 (none where another check covers the allotment), the
operand, how many registers it spans, and whether it is read. -/
structure Use where
  d : Option Nat
  o : Opnd
  n : Nat
  src : Bool
deriving DecidableEq, Repr

/-- A source. -/
def rd (d : Nat) (o : Opnd) (n : Nat := 1) : Use := { d := some d, o := o, n := n, src := true }
/-- A destination. -/
def wr (d : Nat) (o : Opnd) (n : Nat := 1) : Use := { d := some d, o := o, n := n, src := false }
/-- A block of registers that its own check covers (spec 18, R405). -/
def blk (o : Opnd) (n : Nat) : Use := { d := none, o := o, n := n, src := true }

/-- Registers of a form: 1, or 2 in the 64-bit form. -/
def nWide (wide : Bool) : Nat := if wide then 2 else 1

/-- Registers of an access width (spec 08, R191). -/
def nWidth : Width → Nat
  | .b64 => 2
  | .b128 => 4
  | _ => 1

def nAcc : AccN → Nat
  | .x1 => 1
  | .x2 => 2
  | .x4 => 4

/-- The register operands of each instruction (spec 07, R162; spec 08, R191, R192; spec 09, R234, R250; spec 10, R268;
spec 03, R78; spec 04, R85; spec 14, R361; spec 19, R436, R449, R450). -/
def usesOf : Instr → List Use
  | .iadd a | .isub a =>
    [wr 0 a.d (nWide a.wide), rd 1 a.s1 (nWide a.wide), rd 2 a.s2 (nWide a.wide)]
  | .iaddc a | .isubb a =>
    [wr 0 a.d (nWide a.wide), rd 1 a.s1 (nWide a.wide), rd 2 a.s2 (nWide a.wide)]
  | .imul a | .imulhs a | .imulhu a | .imins a | .iminu a | .imaxs a | .imaxu a | .and a | .or a | .xor a
  | .andn a =>
    [wr 0 a.d (nWide a.wide), rd 1 a.s1 (nWide a.wide), rd 2 a.s2 (nWide a.wide)]
  | .shl a | .shr a | .sar a | .rotl a | .bfxs a | .bfxu a =>
    [wr 0 a.d (nWide a.wide), rd 1 a.s1 (nWide a.wide), rd 2 a.s2]
  | .mov a | .iabs a | .brev a =>
    [wr 0 a.d (nWide a.wide), rd 1 a.s1 (nWide a.wide)]
  | .wmov a =>
    [wr 0 a.d (nWide a.wide), rd 1 a.s1 (nWide a.wide)]
  | .popc a | .clz a =>
    [wr 0 a.d, rd 1 a.s1 (nWide a.wide)]
  | .movi a =>
    [wr 0 a.d (nWide a.wide)]
  | .movhi a =>
    [wr 0 a.d 2]
  | .kset a =>
    [wr 0 a.d]
  | .iaddi a | .andi a | .ori a | .xori a =>
    [wr 0 a.d (nWide a.wide), rd 1 a.s1 (nWide a.wide)]
  | .shli a | .shri a | .sari a =>
    [wr 0 a.d (nWide a.wide), rd 1 a.s1 (nWide a.wide)]
  | .imulws a | .imulwu a =>
    [wr 0 a.d 2, rd 1 a.s1, rd 2 a.s2]
  | .imad a =>
    [wr 0 a.d (nWide a.wide), rd 1 a.s1 (nWide a.wide), rd 2 a.s2 (nWide a.wide), rd 3 a.s3 (nWide a.wide)]
  | .bfi a =>
    [wr 0 a.d (nWide a.wide), rd 1 a.s1 (nWide a.wide), rd 2 a.s2 (nWide a.wide), rd 3 a.s3]
  | .lop3 a =>
    [wr 0 a.d (nWide a.wide), rd 1 a.s1 (nWide a.wide), rd 2 a.s2 (nWide a.wide), rd 3 a.s3 (nWide a.wide)]
  | .lea a =>
    [wr 0 a.d 2, rd 1 a.s1 2, rd 2 a.s2]
  | .idivs a | .idivu a =>
    [wr 0 a.d (nWide a.wide), rd 1 a.s1 (nWide a.wide), rd 2 a.s2 (nWide a.wide)]
  | .prmt a | .ffma a =>
    [wr 0 a.d, rd 1 a.s1, rd 2 a.s2, rd 3 a.s3]
  | .sel a =>
    [wr 0 a.d (nWide a.wide), rd 1 a.s1 (nWide a.wide), rd 2 a.s2 (nWide a.wide)]
  | .icmps a | .icmpu a =>
    [wr 0 a.d (nWide a.wide), rd 1 a.s1 (nWide a.wide), rd 2 a.s2 (nWide a.wide)]
  | .plop _ => []
  | .kballot a =>
    [wr 0 a.d, rd 1 a.m]
  | .kpopc a | .kfind a =>
    [wr 0 a.d, rd 1 a.m]
  | .klop a =>
    [wr 0 a.d, rd 1 a.ma, rd 2 a.mb, rd 3 a.mc]
  | .shfl a =>
    [wr 0 a.d (nWide a.wide), rd 1 a.s1 (nWide a.wide), rd 2 a.s2, rd 3 a.m]
  | .srrd a =>
    [wr 0 a.d (nWide a.wide)]
  | .srwr a =>
    [rd 1 a.s1 (nWide a.wide)]
  | .bra _ => []
  | .brx a =>
    [rd 1 a.t 2]
  | .call a =>
    [wr 0 a.link 2]
  | .callx a =>
    [wr 0 a.link 2, rd 1 a.t 2]
  | .nop _ | .ret _ | .reform _ | .yield _ | .exit _ | .allot _ | .allotrel _ | .sync _ | .phend _ | .tsrel _
  | .nopre _ | .preon _ | .swappl _ | .eretRetry _ | .eretSkip _ | .eretExit _ | .eretExitall _
  | .tlbinvAll _ | .finjReplay _ | .finjSig _ | .halt _ => []
  | .trap _ | .bkpt _ => []
  | .ld a | .ldw a =>
    [wr 0 a.d (nWidth a.width), rd 1 a.m.ix]
  | .st a =>
    [rd 0 a.data (nWidth a.width), rd 1 a.m.ix]
  | .lds a =>
    [wr 0 a.d (nWidth a.width), rd 1 a.m.ix]
  | .sts a =>
    [rd 0 a.d (nWidth a.width), rd 1 a.m.ix]
  | .ldws a =>
    [wr 0 a.d (nWidth a.width), rd 1 a.m.ix]
  | .atom a =>
    [rd 0 a.d (nWide a.wide), rd 1 a.m.ix]
  | .atoms a =>
    [rd 0 a.d (nWide a.wide), rd 1 a.m.ix]
  | .atomf a =>
    [rd 0 a.d, rd 1 a.m.ix]
  | .cas a | .cass a =>
    [rd 0 a.d 2, rd 1 a.m.ix]
  | .acq a =>
    [wr 0 a.d (nWide a.wide), rd 1 a.ix]
  | .rel a =>
    [rd 0 a.d (nWide a.wide), rd 1 a.ix]
  | .brld a =>
    [rd 1 a.m.ix]
  | .brset a =>
    [rd 0 a.q 4]
  | .fence _ => []
  | .fencex _ => []
  | .bar a =>
    [rd 1 a.cnt]
  | .barx a =>
    [rd 1 a.cnt]
  | .waitc _ => []
  | .waiteq a =>
    [rd 0 a.d (nWide a.wide), rd 1 a.m.ix]
  | .copy a =>
    [blk a.sb 8, wr 5 a.tok]
  | .copyw a =>
    [blk a.sb 8, wr 5 a.tok]
  | .pref a =>
    [rd 0 a.ix]
  | .sracq a | .srwait a =>
    [wr 0 a.d, rd 1 a.a]
  | .srcommit a | .srfree a =>
    [rd 1 a.a]
  | .coll a =>
    [rd 0 a.buf, rd 1 a.ctl]
  | .fork a =>
    [rd 0 a.a 2, rd 1 a.b 8]
  | .tsinit a | .depinit a | .depinitSelf a =>
    [rd 0 a.a 2, rd 1 a.b 2]
  | .depdec a =>
    [rd 0 a.a 2]
  | .tqpost a =>
    [rd 0 a.a 2, rd 1 a.b]
  | .gcall a => [rd 1 a.cnt]
  | .fadd a | .fsub a | .fmul a | .fmin a | .fmax a | .fdiv a | .fldexp a =>
    [wr 0 a.d, rd 1 a.s1, rd 2 a.s2]
  | .fcmp a =>
    [wr 0 a.d, rd 1 a.s1, rd 2 a.s2]
  | .frcp a | .frsq a | .fsqrt a | .fexp2 a | .flog2 a | .fsin a | .fcos a =>
    [wr 0 a.d, rd 1 a.s1]
  | .fclass a =>
    [wr 0 a.d, rd 1 a.s1]
  | .frnd a =>
    [wr 0 a.d, rd 1 a.s1]
  | .cvtf a | .cvtfi a | .cvtif a =>
    [wr 0 a.d, rd 1 a.s1]
  | .pack2 a =>
    [wr 0 a.d, rd 1 a.s1, rd 2 a.s2, rd 3 a.s3]
  | .unpk2 a =>
    [wr 0 a.d 2, rd 1 a.s1]
  | .hadd2 a | .hmul2 a =>
    [wr 0 a.d, rd 1 a.s1, rd 2 a.s2]
  | .hfma2 a =>
    [wr 0 a.d, rd 1 a.s1, rd 2 a.s2, rd 3 a.s3]
  | .idp4 a =>
    [wr 0 a.d, rd 1 a.s1, rd 2 a.s2, rd 3 a.s3]
  | .wred a =>
    [wr 0 a.d, rd 1 a.s1, rd 2 a.m]
  | .derivx a | .derivy a => match a with
    | .plane p => wr 0 p.d :: rd 1 p.s1 3 :: rd 2 p.s2 2 :: p.persp.toList.map (fun o => rd 3 o 3)
    | .quad q => [wr 0 q.d, rd 1 q.s1]
  | .interp a => wr 0 a.d :: rd 1 a.s1 3 :: rd 2 a.s2 2 :: a.persp.toList.map (fun o => rd 3 o 3)
  | .ldstat a | .ldstatw a =>
    [rd 6 a.ix, rd 5 a.sc 4]
  | .mstream a =>
    [rd 6 a.ix, rd 4 a.gp, rd 5 a.sc 2]
  | .mstreams a =>
    [rd 6 a.ix, rd 4 a.gp, rd 5 a.sc 4]
  | .mstreamc a =>
    [rd 6 a.ix, rd 4 a.gp, rd 5 a.sc 2]
  | .mckvChk a | .mckvFix a | .mckvBase a =>
    [wr 4 a.d 4]
  | .accz _ | .acczAll _ => []
  | .accrd a =>
    [rd 6 a.ix, wr 4 a.d (nAcc a.n)]
  | .accwr a =>
    [rd 6 a.ix, rd 4 a.d (nAcc a.n)]
  | .accld a =>
    [rd 6 a.ix]
  | .accst a =>
    [rd 6 a.ix]
  | .accsclRow a =>
    [rd 5 a.sc]
  | .accsclCol a =>
    [rd 6 a.ix]
  | .accredSum a | .accredMax a =>
    [wr 4 a.d]
  | .accredTile _ => []
  | .mdld a =>
    [rd 6 a.ix]
  | .rastri a =>
    [blk a.sb 16, rd 5 a.tri]
  | .traverse a =>
    [blk a.sb 32]
  | .filter a =>
    [blk a.sb 16]
  | .oblend a =>
    [blk a.sb 8, rd 5 a.zsrc]
  | .shadeq a | .gqpush a | .gqpushClose a | .gqpop a =>
    [blk a.sb 8]
  | .hitsort a =>
    [blk a.sb 8]
  | .anyhitNext a =>
    [blk a.sb 32, wr 5 a.x 4]
  | .anyhitAcc a | .anyhitTerm a =>
    [blk a.sb 32, rd 5 a.x]
  | .anyhitCommit a =>
    [blk a.sb 32]
  | .hizq a =>
    [blk a.sb 8]
  | .macroPrim a =>
    [rd 5 a.x]
  | .bop a =>
    [rd 5 a.x]
  | .srwrp a =>
    [rd 0 a.a (nWide a.wide)]
  | .tlbinvPage a | .tlbinvIpa a =>
    [rd 0 a.a, rd 1 a.b 2]
  | .tlbinvPasid a | .tlbinvFunc a | .tlbinvDom a | .domsetEnd a | .finjAcc a | .finjAccue a | .finjSpue a =>
    [rd 0 a.a]
  | .domsetStat a =>
    [wr 0 a.a, rd 1 a.b]
  | .finjLineue a =>
    [rd 1 a.a 2]
  | .mcload a =>
    [wr 0 a.a, rd 1 a.b 2]
  | .sigcmpCmp a =>
    [wr 0 a.a, rd 1 a.b 2]
  | .sigcmpRd a =>
    [wr 0 a.a 2]
  | _ => []

/-- The registers of a general-register operand. -/
def Use.regs (u : Use) : List Nat :=
  match u.o with
  | .g k => List.range' k.val u.n
  | _ => []

/-- Whether an operand reaches a register at or above the allotment (spec 18, R405). -/
def Use.beyond (allot : Nat) (u : Use) : Bool :=
  match u.o with
  | .g k => allot ≤ k.val + u.n - 1
  | _ => false

/-- Whether the scoreboard holds an operand back (spec 11, R311). -/
def Use.pending (t : Thread) (u : Use) : Bool := u.regs.any (Map.has t.pend)

/-- Whether a source is a wave-uniform register or mask whose valid bit is clear (spec 18, R407). -/
def Use.invalid (v : Wave) (u : Use) : Bool :=
  u.src && (match u.o with
    | .w k => (List.range' k.val u.n).any (fun i => !Map.has v.wr i)
    | .k k => !Map.has v.kr k.val
    | _ => false)

end Sys2Proof.Machine
end

