-- ==== Sys2Proof/Machine/Flags.lean ====
section
/-!
DEFINITION. Carries, comparisons and truth tables (spec 07, R164, R169, R174): the predicates an instruction computes.
No instruction of the vector and integer blocks sets any other flag (spec 07, R160; spec 09, R233).
-/

namespace Sys2Proof.Machine

/-- The carry out of a sum at width `wd`: the exact sum does not fit (spec 07, R164). -/
def carryOut (wd v : Nat) : Bool := 2 ^ wd ≤ v

/-- The borrow out of a − (b + c) (spec 07, R164). -/
def borrowOut (a b c : Nat) : Bool := a < b + c

/-- Whether a comparison of two integers holds (spec 07, R174). -/
def ccHolds (c : Cc) (a b : Int) : Bool :=
  match c with
  | .eq => a == b
  | .ne => a != b
  | .lt => a < b
  | .le => a ≤ b
  | .gt => b < a
  | .ge => b ≤ a

/-- The predicate a comparison writes: its truth `t` combined with predicate `p` (spec 07, R174). -/
def combine (c : Comb) (t p : Bool) : Bool :=
  match c with
  | .none => t
  | .and => t && p
  | .or => t || p

/-- The bit of a truth table that three bits select; the first gives the least significant bit of the index (spec 07,
R169, R176). -/
def tableBit (table : Nat) (a b c : Bool) : Bool := table.testBit (b2n a + 2 * b2n b + 4 * b2n c)

/-- A truth table applied bit by bit to three values of `n` bits (spec 07, R169). -/
def tableNat (n table a b c : Nat) : Nat :=
  buildNat n (fun j => tableBit table (a.testBit j) (b.testBit j) (c.testBit j))

/-- All ones of a width when `t` holds, else zero (spec 07, R174). -/
def onesIf (wd : Nat) (t : Bool) : Nat := if t then 2 ^ wd - 1 else 0

end Sys2Proof.Machine
end

