-- ==== Sys2Proof/Machine/Ops.lean ====
section
/-!
DEFINITION. The operations every instruction is built of: the issue of a word (guards, the three stages of spec 18,
R406, the scoreboard), how lanes leave an instruction, handler entry and the return from it (spec 17, R393 to R399),
and the delivery of asynchronous causes (R398).
-/

namespace Sys2Proof.Machine

/-! ### The issuing fragment -/

/-- What issues: the instruction, its wave and fragment, its group, and the lanes whose guard is true. -/
structure Iss where
  i : Instr
  w : Nat
  f : Nat
  v : Wave
  fr : Frag
  g : Group
  on : Mask
deriving DecidableEq, Repr

/-- The address of the instruction. -/
def Iss.pc (x : Iss) : VA := x.fr.pc

/-- The address after the instruction. -/
def Iss.next (x : Iss) : VA := x.fr.pc + 8

/-- The group of the issuing fragment. -/
def Iss.gid (x : Iss) : Nat := x.v.gid

/-- The lanes of a fragment whose guard is true (spec 06, R136). -/
def State.guardLanes (s : State) (w : Nat) (m : Mask) (h : Hdr) : Mask :=
  maskOf ((lanesOf m).filter (fun l => match s.laneThread w l with
    | some t => guardOn h t
    | none => false))

/-- Whether a group is inside a non-pre-emptible region. -/
def State.inRegion (s : State) (gid : Nat) : Bool :=
  match Map.find s.groups gid with
  | some g => g.noPre.isSome
  | none => false

/-- Whether group `gid` waits for a phase end that is due, so that nothing of it issues beside handlers (spec 08, R225). -/
def State.phaseDue (s : State) (gid : Nat) : Bool :=
  match Map.find s.groups gid with
  | some g => g.ending
  | none => false

/-- Whether a wave may issue although it drains: in its open run (spec 11, R315), and inside a region, which the request
waits for (spec 08, R231). -/
def State.inRun (s : State) (w : Nat) (v : Wave) : Bool :=
  s.inRegion v.gid || (match (s.core v.core).slots[v.slot]? with
    | some r => r.isOpen && r.wave == w
    | none => false)

/-- Whether a fragment may issue: it is ready, its wave is on its core and does not drain beyond its open run, frozen
fragments wait for the handler's end (spec 17, R396), no gate call holds its threads (spec 08, R229), and its group's phase
does not end (spec 08, R225). -/
def State.eligible (s : State) (w : Nat) (v : Wave) (fr : Frag) : Bool :=
  fr.st == .ready && v.resident && (!v.draining || s.inRun w v) && fr.hnd == v.handler.isSome && (fr.hnd || !s.phaseDue v.gid)
    && (lanesOf fr.mask).all (fun l => match s.laneThread w l with | some t => !t.held | none => false)

/-- The issue of instruction `i` by the current fragment, if that fragment may issue. -/
def State.issuer (s : State) (i : Instr) : Option Iss :=
  match Map.find s.waves s.cur.1 with
  | none => none
  | some v =>
    match v.frags[s.cur.2]? with
    | none => none
    | some fr =>
      match Map.find s.groups v.gid with
      | none => none
      | some g =>
        if s.eligible s.cur.1 v fr then
          some { i := i, w := s.cur.1, f := s.cur.2, v := v, fr := fr, g := g,
                 on := match hdrOfInstr i with
                   | some h => s.guardLanes s.cur.1 fr.mask h
                   | none => fr.mask }
        else none

/-! ### Kinds of instruction -/

/-- The opcode of an instruction's word (spec 06, R134). -/
def opcodeOf (i : Instr) : Nat := (encodeNat i).getD 0 / 2 ^ 56

/-- Whether an instruction is a join (spec 07, R177; spec 09, R233). -/
def isJoin : Instr → Bool
  | .kballot _ => true
  | .shfl _ => true
  | .wred _ => true
  | .derivx (.quad _) => true
  | .derivy (.quad _) => true
  | _ => false

/-- Whether an instruction is group-collective (spec 08, R195). -/
def isCollective : Instr → Bool
  | .bar _ => true
  | .barx _ => true
  | .allot _ => true
  | .allotrel _ => true
  | .sync _ => true
  | .phend _ => true
  | .gcall _ => true
  | _ => false

/-- Whether a wave in handler mode may not issue it (spec 17, R393). -/
def handlerBars (i : Instr) : Bool :=
  isJoin i || isCollective i ||
  (match i with
   | .reform _ => true
   | .hitsort _ => true
   | .exit _ => true
   | .sracq _ => true
   | .srcommit _ => true
   | .srwait _ => true
   | .srfree _ => true
   | .coll _ => true
   | .waiteq _ => true
   | .nopre _ => true
   | .preon _ => true
   | _ => false)
  || (0xD0 ≤ opcodeOf i && opcodeOf i < 0xF0)

/-- Whether a role may issue an opcode (spec 02, R34; spec 19, R446). -/
def roleOk (k : RoleKind) (op : Nat) : Bool :=
  if op = 0x5D ∨ op = 0x5E ∨ op = 0x5F then k == .copy
  else if op = 0x64 then k == .vector
  else if op < 0x80 then true
  else if op < 0xB0 then k != .copy
  else if op < 0xD0 then k == .matrix
  else if op < 0xF0 then k == .graphics
  else true

/-- Whether a special-register index is in the map below 0x300 (spec 03, R75). -/
def srKnown (n : Nat) : Bool :=
  n = 0 || (2 ≤ n && n ≤ 0xB) || n = 0x10 || n = 0x12 || (0x20 ≤ n && n ≤ 0x22) || (0x40 ≤ n && n ≤ 0x82)
    || n = 0x84 || n = 0x86 || (0x88 ≤ n && n ≤ 0x8C) || (0xC0 ≤ n && n ≤ 0xC7)

/-- Whether a special register is RW (spec 03, R75). -/
def srWritable (n : Nat) : Bool := n = 0x20 || n = 0x86

/-- The primitive of an image with a given `MACRO` entry (spec 10, R298). -/
def State.primByEntry (s : State) (l : Launch) (e : Nat) : Option Prim :=
  (l.binding.bind (Map.find s.mgmt.images)).bind (fun ps => ps.find? (fun p => p.entry == e))

/-- The primitive bound to an opcode in 0xE0 to 0xEF (spec 06, R152, R153). -/
def State.primByOpcode (s : State) (l : Launch) (op : Nat) : Option Prim :=
  (l.binding.bind (Map.find s.mgmt.images)).bind (fun ps => ps.find? (fun p => p.opcode == op))

/-- The primitive that an instruction enters (spec 10, R298). -/
def State.primOf (s : State) (g : Group) : Instr → Option Prim
  | .macroPrim a => (s.launchOf g).bind (fun l => s.primByEntry l a.entry.val)
  | .bop a => (s.launchOf g).bind (fun l => s.primByOpcode l (0xE0 + a.n.val))
  | _ => none

/-- The block size of a primitive, from its descriptor (spec 10, R298; log 11). -/
def Prim.block (p : Prim) : Nat := match bits p.desc.toNat 17 16 with
  | 0 => 8
  | 1 => 16
  | _ => 32

/-- Causes of a state block at its base register (spec 03, R72; spec 18, R405, R424). -/
def blockCodes (allot size : Nat) (o : Opnd) : List Nat :=
  match o with
  | .g k => (if k.val % size ≠ 0 then [0x020] else []) ++ (if allot < k.val + size then [0x021] else [])
  | _ => []

/-- Causes of a copy descriptor's base register (spec 18, R405). -/
def copyCodes (allot : Nat) (o : Opnd) : List Nat :=
  match o with
  | .g k => if k.val % 8 ≠ 0 ∨ allot < k.val + 8 then [0x022] else []
  | _ => []

/-- Causes of a special-register index (spec 03, R77; spec 18, R408). -/
def srCodes (priv isWrite : Bool) (n : Nat) : List Nat :=
  if 0x300 ≤ n then
    if !priv then [0x01A] else if isWrite then [0x01B] else []
  else if !srKnown n then [0x01C]
  else if isWrite && !srWritable n then [0x01B]
  else []

/-- A scale operand of a matrix instruction is unused, and so must be zero, where its slot has no scales (spec 09, R250;
spec 06, R137). -/
def scaleCodes (ws : List W64) (slot sc : Nat) : List Nat :=
  if slotScale (lrSlot ws slot) = 0 ∧ sc ≠ 0 then [0x006] else []

/-- The causes of stage 1 that a word meets, beside its decoding and its allotment (spec 18, R406; spec 17, R388). -/
def State.wordCodes (s : State) (g : Group) (hnd : Bool) (i : Instr) : List Nat :=
  let allot := g.allot
  let ws := s.recOf g
  let priv := s.privOf g
  let prim (p : Option Prim) (missing : Nat) (sb : Opnd) : List Nat := match p with
    | none => [missing]
    | some p => blockCodes allot p.block sb
  (match i with
   | .unassignedOpcode w c =>
     c.val :: (match s.launchOf g with
       | some l => if 0xE0 ≤ w.toNat / 2 ^ 56 && w.toNat / 2 ^ 56 < 0xF0
           && (s.primByOpcode l (w.toNat / 2 ^ 56)).isNone then [0x001] else []
       | none => [])
     ++ (if [0xB0, 0xB1, 0xB3, 0xB4, 0xB5].contains (w.toNat / 2 ^ 56) then scaleCodes ws (xSlot w.toNat) (xScale w.toNat)
         else [])
   | .ldstat a => scaleCodes ws a.slot.val a.sc.code
   | .ldstatw a => scaleCodes ws a.slot.val a.sc.code
   | .mstream a => scaleCodes ws a.slot.val a.sc.code
   | .mstreams a => scaleCodes ws a.slot.val a.sc.code
   | .mstreamc a => scaleCodes ws a.slot.val a.sc.code
   | .srrd a => srCodes priv false a.idx.val
   | .srwr a => srCodes priv true a.idx.val
   | .copy a => copyCodes allot a.sb
   | .copyw a => copyCodes allot a.sb
   | .pack2 a =>
     if (slotO (lrSlot ws a.slot.val) = 1 ∨ slotO (lrSlot ws a.slot.val) = 2) ∧ a.s3 ≠ .z then [0x00B] else []
   | .nopre _ => if lrNpok ws then [] else [0x01E]
   | .rastri a => blockCodes allot 16 a.sb
   | .traverse a => blockCodes allot 32 a.sb
   | .filter a => blockCodes allot 16 a.sb
   | .oblend a => blockCodes allot 8 a.sb
   | .shadeq a => blockCodes allot 8 a.sb
   | .hitsort a => blockCodes allot 8 a.sb
   | .anyhitNext a => blockCodes allot 32 a.sb
   | .anyhitAcc a => blockCodes allot 32 a.sb
   | .anyhitTerm a => blockCodes allot 32 a.sb
   | .anyhitCommit a => blockCodes allot 32 a.sb
   | .gqpush a => blockCodes allot 8 a.sb
   | .gqpushClose a => blockCodes allot 8 a.sb
   | .gqpop a => blockCodes allot 8 a.sb
   | .hizq a => blockCodes allot 8 a.sb
   | .macroPrim a => prim (s.primOf g i) 0x023 a.sb
   | .bop a => prim (s.primOf g i) 0x001 a.sb
   | .derivx (.quad _) => if lrHelper ws && s.kindOfGroup g == .graphics then [] else [0x026]
   | .derivy (.quad _) => if lrHelper ws && s.kindOfGroup g == .graphics then [] else [0x026]
   | .mcload _ => match s.launchOf g with
     | some l => if l.src == .mgmt then [] else [0x019]
     | none => [0x019]
   | _ => [])
  ++ (match i with
      | .unassignedOpcode _ _ => []
      | _ =>
        (if 0xF0 < opcodeOf i && !priv then [0x018] else [])
          ++ (if opcodeOf i = 0xF0 && !hnd then (if priv then [0x01D] else [0x018, 0x01D]) else [])
          ++ (if roleOk (s.kindOfGroup g) (opcodeOf i) then [] else [0x01F])
          ++ (if hnd && handlerBars i then [0x025] else []))

/-- Every cause of stage 1 (spec 18, R405, R406). -/
def State.stage1 (s : State) (g : Group) (hnd : Bool) (i : Instr) : List Nat :=
  s.wordCodes g hnd i
    ++ (usesOf i).filterMap (fun u => match u.d with
        | some d => if u.beyond g.allot then some (0x010 + d) else none
        | none => none)

/-- Which outstanding counter an instruction raises in each lane: 0 loads, 1 stores, 2 copies, 3 tile operations (spec
04, R103). -/
def raisesOf : Instr → Option Nat
  | .ld _ => some 0
  | .lds _ => some 0
  | .ldw _ => some 0
  | .ldws _ => some 0
  | .acq _ => some 0
  | .brld _ => some 0
  | .atom a => some (if a.nr then 1 else 0)
  | .atoms _ => some 0
  | .atomf a => some (if a.nr then 1 else 0)
  | .cas _ => some 0
  | .cass _ => some 0
  | .st _ => some 1
  | .sts _ => some 1
  | .rel _ => some 1
  | .tsinit _ => some 1
  | .depinit _ => some 1
  | .depinitSelf _ => some 1
  | .copy _ => some 2
  | .copyw _ => some 2
  | .ldstat _ => some 3
  | .ldstatw _ => some 3
  | .mdld _ => some 3
  | .accld _ => some 3
  | .accst _ => some 3
  | _ => none

/-- An outstanding counter of a thread. -/
def Thread.counter (t : Thread) : Nat → Nat
  | 0 => t.nLd
  | 1 => t.nSt
  | 2 => t.nCp
  | _ => t.nTl

/-- Add to an outstanding counter. -/
def Thread.bump (t : Thread) (c : Nat) (f : Nat → Nat) : Thread :=
  match c with
  | 0 => { t with nLd := f t.nLd }
  | 1 => { t with nSt := f t.nSt }
  | 2 => { t with nCp := f t.nCp }
  | _ => { t with nTl := f t.nTl }

/-- Add to an outstanding counter of a caller. -/
def Outer.bump (o : Outer) (c : Nat) (f : Nat → Nat) : Outer :=
  match c with
  | 0 => { o with nLd := f o.nLd }
  | 1 => { o with nSt := f o.nSt }
  | 2 => { o with nCp := f o.nCp }
  | _ => { o with nTl := f o.nTl }

/-- The registers of a bound primitive's state block, whose number its descriptor gives (spec 10, R270, R298). -/
def State.primUses (s : State) (g : Group) (i : Instr) : List Use :=
  match s.primOf g i, i with
  | some p, .macroPrim a => [blk a.sb p.block]
  | some p, .bop a => [blk a.sb p.block]
  | _, _ => []

/-- Whether an instruction is not issuable (spec 11, R311): in a lane that takes part, a source or destination is
pending, or a counter it would raise is at 63. Every
lane of a join takes part, whatever its guard; a group collective reads its count in a lane with a true guard, where it has
one. -/
def State.stalled (s : State) (x : Iss) : Bool :=
  (lanesOf (if isJoin x.i || isCollective x.i && x.on = 0 then x.fr.mask else x.on)).any (fun l =>
    match s.laneThread x.w l with
    | none => false
    | some t => (usesOf x.i ++ s.primUses x.g x.i).any (Use.pending t)
        || (match raisesOf x.i with | some c => 63 ≤ t.counter c | none => false))

/-- Whether invalid wave-uniform registers and masks trap in an instruction (spec 18, R407). -/
def strictReads (i : Instr) : Bool := isJoin i || (0x48 ≤ opcodeOf i && !(0x80 ≤ opcodeOf i && opcodeOf i < 0xA0))

/-! ### Handler entry (spec 17, R393 to R400) -/

/-- How a lane leaves an instruction: on to an address, waiting, parked on a fault record, with a cause and the address
it concerns, or out of the wave. -/
inductive LaneEnd where
  | go (pc : VA)
  | wait
  | park (rec' addr : Nat)
  | cause (code : Nat) (addr : Nat)
  | gone
deriving DecidableEq, Repr

/-- Whether `sr.hvec` is usable (spec 17, R396). -/
def hvecOk (h : W64) : Bool := h != 0 && h.toNat % 8 == 0 && h.toNat < 2 ^ 57

/-- The value of `sr.cause` (spec 17, R386). -/
def causeWord (code : Nat) (async pend ovf : Bool) : W32 :=
  BitVec.ofNat 32 (code % 512 + b2n async * 2 ^ 9 + b2n pend * 2 ^ 10 + b2n ovf * 2 ^ 11)

/-- The operand of a 9-bit field in each lane, as the decode registers record it (spec 17, R400). -/
def State.decLanes (s : State) (w : Nat) (v : Wave) (field : Nat) : Map W32 :=
  (lanesOf (s.waveLanes w)).filterMap (fun l => (s.laneThread w l).map (fun t =>
    (l, if field < 296 then opRead (Opnd.ofCode field) v t else 0)))

/-- The handler registers of an entry (spec 17, R395, R400); `word` is the trapping word of a synchronous cause. -/
def State.entryRegs (s : State) (w : Nat) (v : Wave) (code : Nat) (async : Bool) (fault : Mask) (addr : Nat)
    (epc : VA) (word : Option IWord) : HRegs :=
  let n := (word.getD 0).toNat
  { cause := causeWord code async (!v.asyncs.isEmpty) v.ovf
    faultmask := fault
    badaddr := if 0x080 ≤ code ∧ code < 0x0C0 then BitVec.ofNat 64 addr else 0
    epc := epc.setWidth 64
    decop := BitVec.ofNat 32 (bits n 63 51)
    decfld0 := BitVec.ofNat 32 (bits n 31 0)
    decfld1 := BitVec.ofNat 32 (bits n 50 32)
    decfld2 := if word.isSome then s.decLanes w v (bits n 41 33) else []
    decfld3 := if word.isSome then s.decLanes w v (bits n 32 24) else [] }

/-- Close the open run of a slot that serves wave `w` (spec 17, R396). -/
def State.closeRun (s : State) (w : Nat) : State :=
  match Map.find s.waves w with
  | none => s
  | some v => s.updCore v.core (fun c => { c with slots := c.slots.map (fun sl =>
      if sl.isOpen && sl.wave == w then { sl with isOpen := false, last := w } else sl) })

/-- Whether a fragment waits in an instruction of spec 02, R49, or at a join, or is parked: such lanes join no handler
fragment (spec 17, R396). -/
def Frag.setAside (f : Frag) : Bool :=
  match f.st with
  | .ready => false
  | .parked _ _ => true
  | .before i _ => isCollective i
  | .wait wt => isJoin wt.instr || isCollective wt.instr || (match wt.instr with
      | .srwait _ => true
      | .sracq _ => true
      | .waiteq _ => true
      | .waitc _ => true
      | .gret _ => true
      | .coll _ => true
      | .mstream _ => true
      | .mstreams _ => true
      | .mstreamc _ => true
      | i => 0xD0 ≤ opcodeOf i && opcodeOf i < 0xF0)

/-- The lanes that join a handler fragment beside those of the causing fragment: those of every fragment that is not set
aside. A wait that spec 02, R49 does not name (`BRLD`, `TLBINV`, `MCLOAD`) goes on in the frozen table. -/
def readyLanes (fs : List Frag) : Mask :=
  fs.foldl (fun m f => if f.setAside then m else m ||| f.mask) 0

/-- The lanes of wave `w` whose threads a gate call holds: they run the caller's code, so no handler of the callee takes
them (spec 08, R229; log 22). -/
def State.heldLanes (s : State) (w : Nat) : Mask :=
  maskOf ((lanesOf (s.waveLanes w)).filter (fun l => ((s.laneThread w l).map (·.held)).getD false))

/-- Handler mode begins in wave `w`: its fragment table becomes `fs`, frozen; `hm` says where the causing fragment's
lanes are recorded; the handler fragment issues from `sr.hvec` with every lane that can join it (spec 17, R396). -/
def State.startHandler (s : State) (w : Nat) (hvec : W64) (fs : List Frag) (hm : HMode) (hr : HRegs) : State :=
  let causing := if hm.async then 0 else
    hm.rest.foldl (fun m e => m ||| e.1) (hm.fault ||| hm.held)
  let held := s.heldLanes w
  let s := s.updWave w (fun v =>
    { v with
      handler := some hm, hr := hr, ovf := false
      frags := fs ++ [{ mask := (readyLanes fs &&& ~~~held) ||| causing, pc := hvec.setWidth 57, st := .ready,
                        hnd := true }] })
  { s.closeRun w with cur := (w, fs.length) }

/-- A synchronous cause of wave `w` enters its handler: `fs` is the fragment table without the causing fragment. With
no usable handler the gang is killed with 0x161; in handler mode it is a nested error, killed with 0x160 (spec 17,
R394 to R396, R399). -/
def State.enterSync (s : State) (w : Nat) (v : Wave) (g : Group) (hnd : Bool) (fs : List Frag) (hm : HMode)
    (addr : Nat) (word : Option IWord) : State :=
  let s := s.count hm.code
  if hnd then
    s.killGroup v.gid { cause := 0x160, cause2 := some hm.code, cause3 := v.handler.map (·.code) }
  else if !hvecOk g.hvec then s.killGroup v.gid { cause := 0x161, cause2 := some hm.code }
  else s.startHandler w g.hvec fs hm (s.entryRegs w v hm.code false hm.fault addr hm.epc word)

/-- Fragments for the lanes that wait or park at an instruction. -/
def stayFrags (x : Iss) (wt : Option Wait) (ends : List (Nat × LaneEnd)) : List Frag :=
  let waits := maskOf (ends.filterMap (fun e => if e.2 = .wait then some e.1 else none))
  let parks := ends.filterMap (fun e => match e.2 with | .park k a => some (e.1, k, a) | _ => none)
  let keys := (parks.map (fun p => p.2.1)).eraseDups
  (match wt with
   | some wt => if waits = 0 then [] else
      [{ mask := waits, pc := x.pc, st := .wait wt, hnd := x.fr.hnd : Frag }]
   | none => [])
  ++ keys.map (fun k =>
    let ps := parks.filter (fun p => p.2.1 == k)
    { mask := maskOf (ps.map Prod.fst), pc := x.pc, st := .parked k ((ps.head?.map (fun p => p.2.2)).getD 0),
      hnd := x.fr.hnd })

/-- The lanes that go on, grouped by address. -/
def goFrags (ends : List (Nat × LaneEnd)) : List (Mask × VA) :=
  groupByPc (ends.filterMap (fun e => match e.2 with | .go pc => some (e.1, pc) | _ => none))

/-- The causes among the lane ends: lane, code, address. -/
def causesOf (ends : List (Nat × LaneEnd)) : List (Nat × Nat × Nat) :=
  ends.filterMap (fun e => match e.2 with | .cause c a => some (e.1, c, a) | _ => none)

/-- The issuing fragment's lanes leave the instruction: those that go on form fragments by address, those that wait or
park stay at it, and if any has a cause the wave enters its handler with the lowest code; lanes with other codes are
held (spec 17, R394). -/
def State.finish (s : State) (x : Iss) (wt : Option Wait) (ends : List (Nat × LaneEnd)) : State :=
  let stay := stayFrags x wt ends
  let go := goFrags ends
  let cs := causesOf ends
  match minCode (cs.map (fun c => c.2.1)) with
  | none => s.spliceFrag x.w x.f (readyFrags x.fr.hnd go ++ stay)
  | some code =>
    let hit := cs.filter (fun c => c.2.1 == code)
    match Map.find s.waves x.w, Map.find s.groups x.gid with
    | some v, some g =>
      s.enterSync x.w v g x.fr.hnd (spliceAt v.frags x.f stay)
        { fault := maskOf (hit.map Prod.fst), held := maskOf ((cs.filter (fun c => c.2.1 != code)).map Prod.fst),
          epc := x.pc, rest := go, async := false, code := code }
        ((hit.head?.map (fun c => c.2.2)).getD 0) (encode x.i)
    | _, _ => s

/-- Every lane of the issuing fragment goes on to the next instruction. -/
def State.advance (s : State) (x : Iss) : State :=
  s.spliceFrag x.w x.f [{ x.fr with pc := x.next }]

/-- The lanes of `bad` take cause `code`; the other lanes of the issuing fragment go on. -/
def State.faultLanes (s : State) (x : Iss) (bad : Mask) (code : Nat) : State :=
  s.finish x none ((lanesOf x.fr.mask).map (fun l =>
    (l, if bad.getLsbD l then .cause code 0 else .go x.next)))

/-! ### The issue of a word -/

/-- One replay of a cycle on a core: counted, for its physical cluster too (spec 19, R444, R445). -/
def State.noteReplay (s : State) (core : Nat) : State :=
  let d := core / 136
  let s := s.count 0x158
  let moved := match Map.find s.mgmt.moving d with
    | some m => if m.logical = core % 136 / 8 && core % 8 < m.core then m.target else none
    | none => none
  match moved.orElse (fun _ => (List.range 19).find? (fun n => (s.cluster d n).role == .logical (core % 136 / 8))) with
  | none => s
  | some n =>
    let c := s.cluster d n
    { s with mgmt := { s.mgmt with clusters := Map.put s.mgmt.clusters (d * 32 + n) { c with replays := c.replays + 1 } } }

/-- `finj.replay`: the next instruction the wave issues takes one replay, 2 core cycles in place of 1 (spec 19, R444,
R450). -/
def State.takeReplay (s : State) (x : Iss) : State :=
  if x.v.replay then
    { (s.updWave x.w (fun v => { v with replay := false })).noteReplay x.g.core with tick := s.tick + 1 }
  else s

/-- The pending cause of a region that was ended falls on the instruction, and the host is told (spec 18, R417). -/
def State.regionFault (s : State) (x : Iss) (code : Nat) : State :=
  let s := s.updWave x.w (fun v => { v with regionCause := none })
  let l := s.launchOf x.g
  let s := s.errRecord
    { cause := code, func := x.g.func, pasid := x.g.pasid, domain := x.g.domain, core := x.g.core,
      lrec := (l.map (·.lrec)).getD 0, gang := ((Map.find s.gangs x.g.gang).map (·.num)).getD 0,
      queue := (l.map (·.queue)).getD 0, etag := (l.map (·.etag)).getD 0 }
  s.faultLanes x x.on code

/-- Whether twins compare the records of an instruction before it is performed (spec 19, R448); those of a macro-instruction are
compared step by step. -/
def comparesRecord : Instr → Bool
  | .st _ => true
  | .sts _ => true
  | .rel _ => true
  | .atom _ => true
  | .atoms _ => true
  | .atomf _ => true
  | .cas _ => true
  | .cass _ => true
  | .copy _ => true
  | .copyw _ => true
  | .accst _ => true
  | .coll _ => true
  | _ => false

/-- Whether `finj.sig` makes the twin's record of this instruction differ (spec 19, R450). -/
def State.sigDiffers (s : State) (x : Iss) : Bool :=
  x.v.sigFlip && x.on != 0 && lrPaired (s.recOf x.g) && comparesRecord x.i

/-- A write whose records differ raises 0x159 before anything of it is performed (spec 19, R448). -/
def State.sigFault (s : State) (x : Iss) : State :=
  (s.updWave x.w (fun v => { v with sigFlip := false })).faultLanes x x.on 0x159

/-- What the issue of `x` comes to once the scoreboard lets it (spec 06, R136; spec 18, R406): the lowest cause of stage 1 in
every lane with a true guard; a pending region cause; 0x024 for an invalid wave-uniform register or mask where that traps; a
wait for earlier accesses that come before it, without the slot (log 21); and otherwise its effect, `body`. With every guard
false the fragment goes on, but at joins and group collectives its lanes arrive (spec 03, R59). -/
def issueNow (i : Instr) (body : Iss → State → State) (x : Iss) (s : State) : State :=
  if x.on = 0 && !(isJoin i || isCollective i) then s.advance x
  else
    match (if x.on = 0 then none else minCode (s.stage1 x.g x.fr.hnd i)) with
    | some c => s.faultLanes x x.on c
    | none =>
      match (if x.on = 0 then none else x.v.regionCause) with
      | some c => s.regionFault x c
      | none =>
        if x.on ≠ 0 && strictReads i && (usesOf i).any (Use.invalid x.v) then s.faultLanes x x.on 0x024
        else if s.sigDiffers x then s.sigFault x
        else if s.waitsBefore x.w x.v x.fr.mask x.on i then s.spliceFrag x.w x.f [{ x.fr with st := .before i x.on }]
        else body x s

/-- The issue of an encoded instruction: nothing while the scoreboard holds it; with an injected replay it takes one cycle more
(spec 19, R450). -/
def issue (i : Instr) (body : Iss → State → State) (s : State) : Host.Outcome State Fault Refusal :=
  match s.issuer i with
  | none => .fault .noIssuer
  | some x =>
    if s.stalled x then .next s
    else if x.v.replay then
      .next (match (s.takeReplay x).issuer i with
        | some y => issueNow i body y (s.takeReplay x)
        | none => s.takeReplay x)
    else .next (issueNow i body x s)

/-- The effect of an instruction on each lane with a true guard alone, after which the fragment goes on. -/
def laneWise (f : Iss → Nat → Thread → Thread) (x : Iss) (s : State) : State :=
  (s.mapLanes x.w x.on (f x)).advance x

/-! ### The fragment a wave would issue (spec 11, R310 to R312) -/

/-- The instruction a fragment would issue, without changing anything. -/
def State.peekInstr (s : State) (v : Wave) (fr : Frag) : Option Instr :=
  match Map.find s.groups v.gid with
  | none => none
  | some g => match (s.translate g.ctx fr.pc.toNat .fetch).1 with
    | .ok t => some (decode (BitVec.ofNat 64 (s.peekNat t.pa 8)))
    | .error _ => none

/-- Whether the scoreboard lets a fragment issue; one whose fetch fails issues so far. -/
def State.issuable (s : State) (w f : Nat) (v : Wave) (fr : Frag) : Bool :=
  s.eligible w v fr && (match s.peekInstr v fr with
    | some i => match ({ s with cur := (w, f) } : State).issuer i with
      | some x => !s.stalled x
      | none => true
    | none => true)

/-- The first fragment of wave `w` that satisfies `p` and holds a lane of the list. -/
def fragHolding (v : Wave) (p : Frag → Bool) (ls : List Nat) : Option (Nat × Nat) :=
  ls.findSome? (fun l => (v.frags.zipIdx.find? (fun e => e.1.mask.getLsbD l && p e.1)).map (fun e => (l, e.2)))

/-- The fragment that the open run of wave `w` goes on with, if the run is open and that fragment may issue. -/
def State.runFrag (s : State) (w : Nat) (v : Wave) : Option Nat :=
  match (s.core v.core).slots[v.slot]? with
  | none => none
  | some r =>
    if r.isOpen && r.wave == w then (fragHolding v (s.eligible w v) [r.lane]).map Prod.snd else none

/-- The age of a fragment: its wave's, or its own since it resumed (spec 11, R312). -/
def fragAge (v : Wave) (fr : Frag) : Nat := ((lowLane fr.mask).bind (Map.find v.ages)).getD v.age

/-- The issuable fragment of wave `w` that is taken when no run is open: the oldest, and of several the one with the lowest
lane (log 15). -/
def State.freshFrag (s : State) (w : Nat) (v : Wave) : Option Nat :=
  ((v.frags.zipIdx.filter (fun e => s.issuable w e.2 v e.1)).foldl (fun (b : Option (Nat × Nat × Nat)) e =>
    let a := fragAge v e.1
    let l := (lowLane e.1.mask).getD 32
    match b with
    | none => some (a, l, e.2)
    | some (c, m, _) => if a < c || a == c && l < m then some (a, l, e.2) else b) none).map (·.2.2)

/-- The fragment wave `w` would issue: that of its open run, if it is issuable; without an open run, `freshFrag`. -/
def State.pickFrag (s : State) (w : Nat) : Option Nat :=
  (Map.find s.waves w).bind (fun v => match s.runFrag w v with
    | some i => (v.frags[i]?).bind (fun fr => if s.issuable w i v fr then some i else none)
    | none => s.freshFrag w v)

/-- The address that wave `w` would issue next: of the fragment it would issue, else of that of its open run, else of the
ready fragment, or of any other that joins a handler fragment, with the lowest lane (log 15). -/
def State.nextPc (s : State) (w : Nat) (v : Wave) : VA :=
  let byLane (p : Frag → Bool) : Option Nat := (fragHolding v p (List.range 32)).map Prod.snd
  let i := (s.pickFrag w).orElse (fun _ => (s.runFrag w v).orElse (fun _ =>
    (byLane (fun f => f.st == .ready)).orElse (fun _ => byLane (fun f => !f.setAside))))
  ((i.bind (fun i => v.frags[i]?)).map (·.pc)).getD 0

/-! ### Asynchronous causes (spec 17, R398) -/

/-- The host error record of an asynchronous cause that no wave can take. -/
def State.asyncOrphan (s : State) (g : Option Group) (c : AsyncCause) : State :=
  let l := g.bind s.launchOf
  s.hostReport
    { cause := c.code, action := 0, func := (g.map (·.func)).getD 0, pasid := (g.map (·.pasid)).getD 0,
      domain := (g.map (·.domain)).getD 0, core := (g.map (·.core)).getD 0x1FF, lrec := (l.map (·.lrec)).getD 0,
      gang := ((g.bind (fun g => Map.find s.gangs g.gang)).map (·.num)).getD 0, queue := (l.map (·.queue)).getD 0,
      etag := (l.map (·.etag)).getD 0, addr := c.addr.toNat }

/-- Deliver an asynchronous cause of group `gid` to the wave that holds the lowest-numbered thread it names; where no wave
holds that thread, to the group's oldest wave; else to the host. A wave holds four; a fifth is discarded and sets OVF. -/
def State.raiseAsync (s : State) (gid : Nat) (c : AsyncCause) : State :=
  let byThread := (minCode c.tids).bind (fun t => (Map.find s.threads t).bind (fun t => t.place.map Prod.fst))
  let oldest := (Map.keep s.waves (fun _ w => w.gid == gid)).foldl (fun (b : Option (Nat × Nat)) p =>
    match b with
    | none => some (p.2.age, p.1)
    | some (a, k) => if p.2.age < a then some (p.2.age, p.1) else some (a, k)) none
  match (match byThread with | some w => some w | none => oldest.map Prod.snd) with
  | none => s.asyncOrphan (Map.find s.groups gid) c
  | some w =>
    s.updWave w (fun v => if 4 ≤ v.asyncs.length then { v with ovf := true } else { v with asyncs := v.asyncs ++ [c] })
      |>.count c.code

/-- Whether a lane of wave `w` could join a handler fragment: none that a gate call holds (log 22). -/
def State.canHandle (s : State) (w : Nat) (v : Wave) : Bool :=
  v.resident && v.handler.isNone && readyLanes v.frags &&& ~~~(s.heldLanes w) != 0

/-- A pending asynchronous cause enters the wave (spec 17, R398): `sr.epc` holds the address of the fragment that would
have issued next. -/
def State.enterAsync (s : State) (w : Nat) (v : Wave) (g : Group) (c : AsyncCause) (rest : List AsyncCause) : State :=
  let s := s.updWave w (fun v => { v with asyncs := rest })
  let v := { v with asyncs := rest }
  let epc := s.nextPc w v
  let fault := s.lanesOfTids w c.tids
  if !hvecOk g.hvec then s.killGroup v.gid { cause := 0x161, cause2 := some c.code }
  else s.startHandler w g.hvec v.frags
    { fault := fault, held := 0, epc := epc, rest := [], async := true, code := c.code }
    (s.entryRegs w v c.code true fault c.addr.toNat epc none)

/-- A cause held for frozen lanes enters after `ERET` as a synchronous entry at its instruction (spec 17, R396). -/
def State.enterHeld (s : State) (w : Nat) (v : Wave) (g : Group) (c : HeldCause) (rest : List HeldCause) : State :=
  let s := s.updWave w (fun v => { v with heldCauses := rest })
  let fs := (v.frags.map (fun f => f.without c.mask)).filter (fun f => f.mask != 0)
  s.enterSync w { v with heldCauses := rest } g false fs
    { fault := c.mask, held := 0, epc := c.pc, rest := [], async := false, code := c.code } c.addr.toNat c.word

/-- A synchronous cause that arrives for lanes `m` of wave `w` that stand at an instruction and do not issue: a wait that
fails, a join or barrier that is abandoned, a fatal answer to a parked lane. `word` is the instruction's word, and `hnd`
whether the lanes stand there in the handler fragment, where it is a nested error; for frozen lanes it is held until
`ERET` (spec 17, R396, R399), and for lanes that a gate call holds, until it returns (spec 08, R229). -/
def State.lateCause (s : State) (w : Nat) (m : Mask) (hnd : Bool) (pc : VA) (code addr : Nat) (word : Option IWord) :
    State :=
  match Map.find s.waves w with
  | none => s
  | some v =>
    match Map.find s.groups v.gid with
    | none => s
    | some g =>
      if m = 0 then s
      else
        let fs := (v.frags.map (fun f => if f.hnd == hnd then f.without m else f)).filter (fun f => f.mask != 0)
        if (v.handler.isSome || m &&& s.heldLanes w ≠ 0) && !hnd then
          s.updWave w (fun v =>
            { v with
              frags := fs ++ [{ mask := m, pc := pc, st := .ready, hnd := false }]
              heldCauses := v.heldCauses ++ [{ code := code, mask := m, pc := pc, addr := BitVec.ofNat 64 addr,
                                               word := word }] })
        else
          s.enterSync w v g hnd fs
            { fault := m, held := 0, epc := pc, rest := [], async := false, code := code } addr word

/-- What enters a wave before its next instruction issues: a held cause, unless a gate call holds its lanes, then an asynchronous
one. -/
def State.pendingEntry (s : State) (w : Nat) : Option State :=
  match Map.find s.waves w with
  | none => none
  | some v =>
    match Map.find s.groups v.gid with
    | none => none
    | some g =>
      if !(v.resident && v.handler.isNone) then none
      else
        match v.heldCauses.find? (fun c => c.mask &&& s.heldLanes w = 0) with
        | some c => some (s.enterHeld w v g c (v.heldCauses.erase c))
        | none =>
          match v.asyncs with
          | c :: r => if s.canHandle w v then some (s.enterAsync w v g c r) else none
          | [] => none

/-! ### The return from a handler (spec 17, R397) -/

/-- Where each recorded lane of the causing fragment resumes; `faultPc` is none when the faulting lanes end. -/
def HMode.resume (h : HMode) (faultPc : Option VA) : List (Mask × VA) :=
  let lanes := h.rest.flatMap (fun e => (lanesOf e.1).map (fun l => (l, e.2)))
    ++ (lanesOf h.held).map (fun l => (l, h.epc))
    ++ (match faultPc with
        | some pc => (lanesOf h.fault).map (fun l => (l, pc))
        | none => [])
  groupByPc lanes

/-- Handler mode ends in wave `w`: the frozen table is restored, and the causing fragment's lanes form fragments at the
addresses where they resume. After an asynchronous entry every lane is in the frozen table already. -/
def State.endHandler (s : State) (w : Nat) (faultPc : Option VA) : State :=
  (s.updWave w (fun v => match v.handler with
    | none => v
    | some h =>
      { v with
        handler := none
        frags := v.frags.filter (fun f => !f.hnd) ++ (if h.async then [] else readyFrags false (h.resume faultPc)) }))
    |>.closeRun w

end Sys2Proof.Machine
end

