-- ==== Sys2Proof/Machine/Access.lean ====
section
/-!
DEFINITION. How an access forms its address and is checked (spec 04, R89 to R95; spec 18, R406, R411, R412; spec 20,
R463), local order (spec 04, R106 to R108), and the accesses in flight.
-/

namespace Sys2Proof.Machine

/-! ### Where an address leads -/

/-- The address spaces of an access: virtual with the permissions it needs, scratchpad, weight store read, and weight
store written by a copy that was accepted for the regions listed. -/
inductive Space where
  | virt (need : Need)
  | scr
  | ws
  | wsw (regions : List Nat)
deriving DecidableEq, Repr

/-- What one lane's access comes to: a place, nothing (a non-strict access out of extent), a cause with its address, a
resolvable fault on a record, or a structure tagged to another domain (spec 19, R429). -/
inductive Formed where
  | at' (loc : Loc) (addr : Nat)
  | skip (addr : Nat)
  | cause (code addr : Nat)
  | park (rec' addr : Nat)
  | mismatch (code addr : Nat)
deriving DecidableEq, Repr

/-- The domain that tags the structures of a group: its launch's (spec 19, R428). -/
def State.tagOf (s : State) (g : Group) : Nat := ((s.launchOf g).map (·.domain)).getD 0

/-- The group that a scratchpad address names, seen from group `gid` (spec 04, R92): itself, or the member of its gang
with the rank of bits [20:18]. -/
def State.scrTarget (s : State) (gid : Nat) (g : Group) (a : Nat) : Option Nat :=
  if 2 ^ 22 ≤ a then none
  else if a.testBit 21 then
    (Map.find s.gangs g.gang).bind (fun q => q.groups.find? (fun k => match Map.find s.groups k with
      | some t => t.rank == bits a 20 18
      | none => false))
  else some gid

/-- The place of a scratchpad access of `n` bytes: the group and the offset, inside its allotment. -/
def State.scrLoc (s : State) (gid : Nat) (g : Group) (a n : Nat) : Option (Nat × Nat) :=
  (s.scrTarget gid g a).bind (fun k => (Map.find s.groups k).bind (fun t =>
    if a % 2 ^ 18 + n ≤ 4096 * t.scrPages then some (k, a % 2 ^ 18) else none))

/-- Whether a host address is refused at the core: no valid window, beyond its length, a store without WR, an atomic
(spec 13, R348; spec 20, R463). -/
def State.hostRefused (s : State) (f pa n : Nat) (k : Need) : Bool :=
  let e := s.ftBase f 4 + 0x10800 + 32 * bits pa 43 38
  let w0 := s.peekNat e 8
  !w0.testBit 0 || s.peekNat (e + 24) 8 < bits pa 37 0 + n || (k == .write && !w0.testBit 1) || k == .atomic

/-- Whether a domain address is refused: DOMEN 0, or no port reaches its device (spec 13, R352). -/
def State.domRefused (s : State) (pa : Nat) : Bool :=
  !s.fab.domen || Map.get s.fab.routes 0 (pa / 2 ^ 44 - 1) == 0

/-- The fault record of a failed translation (spec 20, R460). -/
def Group.faultRec (g : Group) (code stage level ipa va : Nat) (fetch : Bool) : FaultRec :=
  { func := g.func, pasid := g.pasid, code := code, stage := stage, fetch := fetch, vaddr := va, ipa := ipa,
    domain := g.domain, level := level, core := g.core, fid := none, written := 0, tmo := 0 }

/-- Translate a virtual address for an access of kind `d` (spec 17, R390): a place, a fatal cause, or a record to park
on; with the fault queue disabled a resolvable fault is fatal at once (spec 20, R459). -/
def State.placeVirt (s : State) (g : Group) (k : Need) (d a n : Nat) : Formed × State :=
  match s.translate g.ctx a k with
  | (.ok t, s) =>
    match s.paKind t.pa with
    | .mem => (.at' (.mem t.pa) a, s)
    | .reg => (.at' (.reg t.pa) a, s)
    | .dom => (if s.domRefused t.pa then .cause (0x098 + d) a else .at' (.dom t.pa) a, s)
    | .host => (if s.hostRefused g.func t.pa n k then .cause (0x098 + d) a else .at' (.host t.pa) a, s)
    | .reserved => (.cause (0x098 + d) a, s)
  | (.error (.fatal c), s) => (.cause (c + d) a, s)
  | (.error (.park c st lv ipa), s) =>
    match s.faultRecord (g.faultRec (c + d) st lv ipa a false) with
    | (some r, s) => (.park r a, s)
    | (none, s) => (.cause (c + d) a, s)

/-- Whether weight-store region of address `a` may be read by domain `dom` (spec 04, R95). -/
def State.wsReadable (s : State) (dom a : Nat) : Bool :=
  (s.region (a / 2 ^ 23)).isSealed && (s.region (a / 2 ^ 23)).domain == dom

/-- Whether weight-store region of address `a` may be written for domain `dom` by a copy accepted for `regions` (spec 04,
R95): it is open with that tag, and no seal of it began before the copy was accepted. -/
def State.wsWritable (s : State) (dom a : Nat) (regions : List Nat) : Bool :=
  let r := s.region (a / 2 ^ 23)
  !r.isSealed && r.domain == dom && (!r.sealing || regions.contains (a / 2 ^ 23))

/-- Where an access of `n` bytes at address `a` leads, after the checks of alignment, range and translation. -/
def State.placeAt (s : State) (gid : Nat) (g : Group) (sp : Space) (d a n : Nat) : Formed × State :=
  if a % min n 16 ≠ 0 then (.cause (0x0A8 + d) a, s)
  else
    match sp with
    | .virt k => s.placeVirt g k d a n
    | .scr =>
      match s.scrLoc gid g a n with
      | none => (.cause (0x0B0 + d) a, s)
      | some (k, o) => (if g.domain = s.tagOf g then .at' (.scr k o) a else .mismatch 0x129 a, s)
    | .ws =>
      (if 2 ^ 29 ≤ a || !s.wsReadable g.domain a then .cause (0x0B8 + d) a
        else .at' (.ws (dieOf g.core * 2 ^ 29 + a)) a, s)
    | .wsw regions =>
      (if 2 ^ 29 ≤ a || !s.wsWritable g.domain a regions then .cause (0x0B8 + d) a else .at' (.ws a) a, s)

/-- One lane's access through a buffer record at element index `e` (spec 04, R89; spec 18, R411). -/
def State.formElem (s : State) (gid : Nat) (g : Group) (r : W128) (sp : Space) (d : Nat) (e : Int) (n : Nat) :
    Formed × State :=
  if inExtent r e n then s.placeAt gid g sp d (elemAddr r e) n
  else (if recStrict r then .cause (0x0A0 + d) (elemAddr r e) else .skip (elemAddr r e), s)

/-- What an access of a whole element comes to, in chunks of at most 16 bytes (spec 04, R90): the places of the chunks,
nothing, or why it stops. -/
inductive Elem where
  | places (addr : Nat) (l : List Loc)
  | skip (addr : Nat)
  | stop (f : Formed)
deriving DecidableEq, Repr

/-- The places of `k` chunks of `c` bytes from address `a`. -/
def State.placeChunks (s : State) (gid : Nat) (g : Group) (sp : Space) (d a c : Nat) : Nat → Except Formed (List Loc) × State
  | 0 => (.ok [], s)
  | k + 1 =>
    match s.placeAt gid g sp d (a % 2 ^ 57) c with
    | (.at' l _, s) =>
      (match s.placeChunks gid g sp d (a + c) c k with
       | (.ok r, s) => (.ok (l :: r), s)
       | (.error f, s) => (.error f, s))
    | (f, s) => (.error f, s)

/-- The access of a whole element of `n` bytes through a buffer record. -/
def State.formWide (s : State) (gid : Nat) (g : Group) (r : W128) (sp : Space) (d : Nat) (e : Int) (n : Nat) :
    Elem × State :=
  if inExtent r e n then
    (match s.placeChunks gid g sp d (elemAddr r e) (min n 16) (n / min n 16) with
     | (.ok l, s) => (.places (elemAddr r e) l, s)
     | (.error f, s) => (.stop f, s))
  else (if recStrict r then .stop (.cause (0x0A0 + d) (elemAddr r e)) else .skip (elemAddr r e), s)

/-- The element index of a memory operand in a lane: the index register and the signed offset, exactly. -/
def indexOf (o : Opnd) (off : Int) (v : Wave) (t : Thread) : Int := (opRead o v t).toNat + off

/-- Buffer record `n` of a group. -/
def Group.buf (g : Group) (n : Nat) : W128 := Map.get g.bufs 0 n

/-- Form the accesses of the lanes of `m`, lowest first; `f` forms one. -/
def State.formLanes (s : State) (w : Nat) (m : Mask) (f : State → Nat → Thread → Formed × State) :
    List (Nat × Formed) × State :=
  (lanesOf m).foldl (fun (p : List (Nat × Formed) × State) l =>
    match p.2.laneThread w l with
    | none => p
    | some t =>
      let q := f p.2 l t
      (p.1 ++ [(l, q.1)], q.2)) ([], s)

/-- How a lane with a formed access leaves the instruction. -/
def Formed.leave (next : VA) : Formed → LaneEnd
  | .at' _ _ => .go next
  | .skip _ => .go next
  | .cause c a => .cause c a
  | .park k a => .park k a
  | .mismatch _ _ => .go next

/-- Whether a lane takes part: its access has a place, or is one out of extent that does nothing. -/
def Formed.takesPart : Formed → Bool
  | .at' _ _ => true
  | .skip _ => true
  | _ => false

/-- The place of a formed access. -/
def Formed.place : Formed → Loc
  | .at' l _ => l
  | _ => .nil

/-- The address of a formed access. -/
def Formed.address : Formed → Nat
  | .at' _ a => a
  | _ => 0

/-- How every lane of the issuing fragment leaves, given those whose accesses were formed. -/
def lanesLeave (x : Iss) (fs : List (Nat × Formed)) : List (Nat × LaneEnd) :=
  (lanesOf x.fr.mask).map (fun l => (l, match fs.find? (fun p => p.1 == l) with
    | some p => p.2.leave x.next
    | none => .go x.next))

/-- The tag mismatch among formed accesses, if any. -/
def mismatchOf (fs : List (Nat × Formed)) : Option (Nat × Nat) :=
  fs.findSome? (fun p => match p.2 with | .mismatch c a => some (c, a) | _ => none)

/-! ### Issuing an access -/

/-- The release and acquire sides of an access (spec 04, R107). -/
structure Sides where
  rel : Option (BitVec 5 × BitVec 16) := none
  acq : Option (BitVec 5 × BitVec 16) := none
deriving DecidableEq, Repr

/-- Put an access in flight. Its parts' threads count it in counter `ctr` and hold `dst` pending; a release side waits
for every earlier access it covers, and holds later ones on its masks until they are done (spec 04, R108); an acquire
side holds later ones on its masks until the access itself is done. -/
def State.launchFlight (s : State) (x : Iss) (path : Nat) (sm : BitVec 16) (ctr : Option Nat) (dst : List Nat)
    (parts : List Part) (recv : List W128) (sd : Sides) : State :=
  if parts.isEmpty then s
  else
    let tids := (parts.map (·.tid)).eraseDups
    let deps := tids.flatMap (fun t =>
      s.localDeps t path sm (parts.map (fun p => (p.loc, p.len)))
        ++ (match sd.rel with | some (ps, ms) => (s.flightsOn t ps ms).map Prod.fst | none => []))
    let k := s.nextKey
    let s := match sd.rel with
      | some (ps, ms) => tids.foldl (fun (s : State) t =>
          s.addFence t { paths := ps, smask := ms, keys := s.flightsOn t ps ms, samePath := false }) s
      | none => s
    let s := { s with
      nextKey := k + 1
      flights := Map.put s.flights k
        { instr := x.i, gid := x.gid, func := x.g.func, pasid := x.g.pasid, domain := x.g.domain, wave := x.w,
          core := x.g.core, path := path, smask := sm, parts := parts, deps := deps.eraseDups, recv := recv, born := s.tick,
          sent := false } }
    let s := match sd.acq with
      | some (ps, ms) => tids.foldl (fun (s : State) t =>
          s.addFence t { paths := ps, smask := ms, keys := [(k, path)], samePath := false }) s
      | none => s
    tids.foldl (fun (s : State) t => s.updThread t (fun t =>
      let t := match ctr with | some c => t.bump c (· + 1) | none => t
      { t with pend := dst.foldl (fun m r => Map.put m r k) t.pend })) s

/-! ### Operand bytes -/

/-- Bytes of a width. -/
def widthBytes : Width → Nat
  | .b8 => 1
  | .b16 => 2
  | .b32 => 4
  | .b64 => 8
  | .b128 => 16

/-- Register `i` of an operand that names `n` consecutive registers. -/
def opNth (o : Opnd) (i : Nat) (v : Wave) (t : Thread) : W32 :=
  match o with
  | .g k => t.reg (k.val + i)
  | .z => 0
  | .w k => Map.get v.wr 0 (k.val + i)
  | .k k => Map.get v.kr 0 (k.val + i)

/-- The low `n` bytes of an operand: a register, a pair or a quadruple. -/
def opBytes (o : Opnd) (n : Nat) (v : Wave) (t : Thread) : List Byte :=
  ((List.range (ceilDiv n 4)).flatMap (fun i => toBytes 4 (opNth o i v t).toNat)).take n

/-- The registers an operand of `n` bytes names as a destination. -/
def destRegs (o : Opnd) (n : Nat) : List Nat :=
  match o with
  | .g k => List.range' k.val (ceilDiv n 4)
  | _ => []

/-! ### Write signatures (spec 19, R449) -/

/-- One bit of CRC-64. -/
def crc64Bit (c : Nat) (b : Bool) : Nat :=
  let top := c.testBit 63 != b
  let c := c * 2 % 2 ^ 64
  if top then c ^^^ 0x42F0E1EBA9EA3693 else c

/-- CRC-64 of bytes, most significant bit first, from `c`. -/
def crc64 (c : Nat) (l : List Byte) : Nat :=
  l.foldl (fun c b => [7, 6, 5, 4, 3, 2, 1, 0].foldl (fun c i => crc64Bit c (b.getLsbD i)) c) c

/-- The 32-byte lane record of a write. -/
def laneRecord (addr op n : Nat) (data : List Byte) : List Byte :=
  toBytes 8 addr ++ toBytes 1 op ++ toBytes 1 n ++ toBytes 6 0 ++ (data ++ List.replicate 16 0).take 16

/-- Enter the performed lanes of a write into their threads' signatures, lowest lane first. -/
def State.sign (s : State) (op : Nat) (parts : List Part) : State :=
  parts.foldl (fun s p => if p.loc = .nil then s else s.updThread p.tid (fun t =>
    { t with sig := BitVec.ofNat 64 (crc64 t.sig.toNat (laneRecord p.addr op p.len p.data)) })) s

end Sys2Proof.Machine
end

