-- ==== Sys2Proof/Machine/Joins.lean ====
section
/-!
DEFINITION. Joins (spec 07, R177; spec 18, R409): arrival, waiting, completion, and mask disagreement.
-/

namespace Sys2Proof.Machine

/-- The value of a mask operand (spec 03, R56). -/
def maskVal (o : Opnd) (v : Wave) : Mask :=
  match o with
  | .w k => Map.get v.wr 0 k.val
  | .k k => Map.get v.kr 0 k.val
  | _ => 0

/-- The join set of a mask value: the fragment's lanes when it is zero (spec 07, R177). -/
def joinSet (m : Mask) (fr : Frag) : Mask := if m = 0 then fr.mask else m

/-- D[1:0] of 0x0C8 (spec 18, R409). -/
def joinKind : Instr → Nat
  | .kballot _ => 0
  | .shfl _ => 1
  | .wred _ => 2
  | _ => 3

/-- The join set that a fragment waits for, if it waits at a join. -/
def Frag.join (f : Frag) : Option Nat :=
  match f.st with
  | .wait wt => if isJoin wt.instr then wt.aux.head? else none
  | _ => none

/-- Whether a fragment waits at the join at `pc` over set `j`. -/
def Frag.atJoin (pc : VA) (j : Mask) (f : Frag) : Bool := f.pc == pc && f.join == some j.toNat

/-- The instruction, guarded lanes and values of a waiting fragment. -/
def Frag.waiting (f : Frag) : Option Wait :=
  match f.st with
  | .wait wt => some wt
  | _ => none

/-- Abandon the join of wave `w` at `pc` over `j`: every lane that waits at it takes 0x0C8 + D with D[2] set. -/
def State.abandonJoin (s : State) (w : Nat) (pc : VA) (j : Mask) : State :=
  match Map.find s.waves w with
  | none => s
  | some v =>
    match v.frags.filter (Frag.atJoin pc j) with
    | [] => s
    | f :: fs =>
      let i := f.waiting.map (·.instr)
      s.lateCause w ((f :: fs).foldl (fun m f => m ||| f.mask) 0) false pc
        (0x0CC + (i.map joinKind).getD 0) 0 (i.bind encode)

/-- The joins of wave `w` that wait for a lane of `m`, but for the one at `pc` over `j`. -/
def State.joinsOver (s : State) (w : Nat) (m : Mask) (but : Option (VA × Mask)) : List (VA × Mask) :=
  match Map.find s.waves w with
  | none => []
  | some v =>
    (v.frags.filterMap (fun f => f.join.map (fun j => (f.pc, BitVec.ofNat 32 j)))).eraseDups.filter (fun e =>
      e.2 &&& m != 0 && some e != but)

/-- The lanes of `m` have left wave `w`: each join that waits for one of them is abandoned. -/
def State.joinsLost (s : State) (w : Nat) (m : Mask) : State :=
  (s.joinsOver w m none).foldl (fun s e => s.abandonJoin w e.1 e.2) s

/-- Complete the join of wave `w` at `pc` over `j`: `apply` writes its results, given the lanes with a true guard and
the values contributed; every waiting fragment goes on as its own fragment. -/
def State.completeJoin (s : State) (w : Nat) (pc : VA) (j : Mask) (apply : Mask → Map W64 → State → State) : State :=
  match Map.find s.waves w with
  | none => s
  | some v =>
    let ws := (v.frags.filter (Frag.atJoin pc j)).filterMap Frag.waiting
    let on := ws.foldl (fun m t => m ||| t.on) 0
    let vals := ws.flatMap (·.vals)
    (apply on vals s).updWave w (fun v =>
      { v with frags := v.frags.map (fun f => if f.atJoin pc j then { f with st := .ready, pc := pc + 8 } else f) })

/-- The lanes that have arrived at the join of wave `w` at `pc` over `j`. -/
def State.arrived (s : State) (w : Nat) (pc : VA) (j : Mask) : Mask :=
  match Map.find s.waves w with
  | none => 0
  | some v => (v.frags.filter (Frag.atJoin pc j)).foldl (fun m f => m ||| f.mask) 0

/-- The issue of a join over set `j`: disagreement at once if an active lane of the fragment lies outside `j`, or a lane of
`j` has left the wave; else the fragment's lanes of `j` arrive, each with its value of `vals`, and the fragment waits; the
join completes when every lane of `j` has arrived; every other join that waits for one of these lanes is abandoned. A
fragment without a lane of `j` or an active one has nothing to wait for and goes on (log 54). -/
def State.arriveJoin (s : State) (x : Iss) (j : Mask) (vals : Map W64) (apply : Mask → Map W64 → State → State) :
    State :=
  if x.on &&& ~~~j ≠ 0 then s.faultLanes x x.on (0x0C8 + joinKind x.i)
  else if j &&& ~~~(s.waveLanes x.w) ≠ 0 then s.faultLanes x x.on (0x0CC + joinKind x.i)
  else if x.fr.mask &&& j = 0 then s.advance x
  else
    let others := s.joinsOver x.w (x.fr.mask &&& j) (some (x.pc, j))
    let vals := vals.filter (fun e => j.getLsbD (e.1 % 32))
    let s := s.finish x (some { instr := x.i, on := x.on, vals := vals, aux := [j.toNat] })
      ((lanesOf x.fr.mask).map (fun l => (l, .wait)))
    let s := if j &&& ~~~(s.arrived x.w x.pc j) = 0 then s.completeJoin x.w x.pc j apply else s
    others.foldl (fun s e => s.abandonJoin x.w e.1 e.2) s

/-- The values that the lanes of the issuing fragment contribute. -/
def State.contributed (s : State) (x : Iss) (f : Nat → Thread → Map W64) : Map W64 :=
  (lanesOf x.fr.mask).flatMap (fun l => match s.laneThread x.w l with
    | some t => f l t
    | none => [])

end Sys2Proof.Machine
end

