-- ==== Sys2Proof/Machine/Bins.lean ====
section
/-!
DEFINITION. Thread slots and registers in use (spec 01, R11; spec 02, R36), placement of a gang on an arc of cores (spec
11, R307, R308), and the bins that release waves (spec 02, R24 to R26; spec 11, R309; spec 15, R365).
-/

namespace Sys2Proof.Machine

/-! ### Resources of a core -/

/-- Thread slots of a core (spec 01, R11). -/
def threadSlots : Nat := 2048

/-- General registers of a core (spec 01, R11). -/
def coreRegs : Nat := 131072

/-- The cores on which a group takes resources: its own, and that of its twin (spec 19, R447). -/
def State.coresOf (s : State) (g : Group) : List Nat :=
  g.core :: (match (Map.find s.gangs g.gang).bind (·.twin) with
    | some c => [136 * dieOf g.core + 8 * c + g.core % 8]
    | none => [])

/-- Live threads of a group whose wave, if any, is on its core. Threads of a spilled group stand in waves off the core, and
hold no slot (spec 02, R38; log 53). -/
def State.onCore (s : State) (gid : Nat) : Nat :=
  (s.threads.filter (fun p => p.2.gid == gid && (match p.2.place with
    | some (w, _) => match Map.find s.waves w with | some v => v.resident | none => true
    | none => true))).length

/-- Whether a thread stands in an evicted wave. -/
def State.evicted (s : State) (tid : Nat) : Bool :=
  match ((Map.find s.threads tid).bind (·.place)).bind (fun p => Map.find s.waves p.1) with
  | some v => !v.resident
  | none => false

/-- Threads of a group that stand in evicted waves. -/
def State.offCore (s : State) (gid : Nat) : Nat := (s.groupTids gid).length - s.onCore gid

/-- Registers that the gate calls under way hold beside the caller's, for the requesting threads of `p`: `b` is the innermost
callee's budget. -/
def gateRegs (p : Nat → Bool) (b : Nat) : List GateFrame → Nat
  | [] => 0
  | f :: r => b * (f.requesters.filter p).length + gateRegs p f.budget r

/-- Registers a thread of the group holds outside gate calls. -/
def Group.outerAllot (g : Group) : Nat :=
  match g.gates.getLast? with
  | none => if g.full then g.budget else 16
  | some f => if f.full then f.budget else 16

/-- Registers a resident group holds; an exit frees none until the whole group has exited (spec 02, R29). -/
def State.regsOf (s : State) (gid : Nat) (g : Group) : Nat :=
  if g.st = .resident then
    (lrThreads (s.recOf g) - s.offCore gid) * g.outerAllot + gateRegs (fun k => !s.evicted k) g.budget g.gates
  else 0

/-- Thread slots in use on a core. -/
def State.slotsUsed (s : State) (c : Nat) : Nat :=
  s.groups.foldl (fun n p =>
    if (p.2.st == .resident || p.2.st == .spilled) && (s.coresOf p.2).contains c then n + s.onCore p.1 else n) 0

/-- Registers in use on a core. -/
def State.regsUsed (s : State) (c : Nat) : Nat :=
  s.groups.foldl (fun n p => if (s.coresOf p.2).contains c then n + s.regsOf p.1 p.2 else n) 0

/-- Whether a matrix-role group takes the engine of a core. -/
def State.engineTaken (s : State) (c : Nat) : Bool :=
  (s.core c).eng.owner.isSome
    || s.groups.any (fun p => p.2.st == .resident && s.kindOfGroup p.2 == .matrix && (s.coresOf p.2).contains c)

/-! ### Waiting for an allotment (spec 02, R37; spec 11, R308) -/

/-- The fragments of a group. -/
def State.groupFrags (s : State) (gid : Nat) : List Frag :=
  (s.waves.filter (fun p => p.2.gid == gid)).flatMap (fun p => p.2.frags)

/-- The fragments of group `gid` that wait at an instruction that satisfies `p`, as wave and fragment. -/
def State.waitingAt (s : State) (gid : Nat) (p : Instr → Bool) : List (Nat × Frag) :=
  (s.waves.filter (fun e => e.2.gid == gid)).flatMap (fun e =>
    (e.2.frags.filter (fun f => match f.st with | .wait wt => p wt.instr | _ => false)).map (fun f => (e.1, f)))

/-- The threads in the lanes of fragments. -/
def State.threadsIn (s : State) (l : List (Nat × Frag)) : List Nat := l.flatMap (fun e => s.tidsOf e.1 e.2.mask)

/-- Whether every live thread of a group waits at an instruction that satisfies `p`. -/
def State.allAt (s : State) (gid : Nat) (p : Instr → Bool) : Bool :=
  let ts := s.groupTids gid
  !ts.isEmpty && (s.threadsIn (s.waitingAt gid p)).length == ts.length

/-- An `ALLOT`. -/
def isAllot : Instr → Bool
  | .allot _ => true
  | _ => false

/-- Ticks since the last thread of a group arrived at the `ALLOT` it waits in. -/
def State.allotWait (s : State) (gid : Nat) : Nat :=
  s.tick - ((s.waitingAt gid isAllot).map (fun e => match e.2.st with
    | .wait wt => wt.aux.headD 0
    | _ => 0)).foldl max 0

/-- Whether the admission throttle holds on a core (spec 11, R308). -/
def State.throttled (s : State) (c : Nat) : Bool :=
  s.groups.any (fun p => p.2.core == c && (p.2.st == .resident || p.2.st == .spilled) && s.allAt p.1 isAllot
    && 2048 ≤ s.allotWait p.1)

/-! ### Classes (spec 11, R302, R303) -/

/-- The effective class of a gang; 7 while it has waited one time slice. -/
def State.classOf (s : State) (g : Gang) : Nat :=
  if g.class7 then 7 else ((Map.find s.launches g.lid).map (·.cls)).getD 0

/-- The effective class of a group's gang. -/
def State.groupClass (s : State) (g : Group) : Nat := ((Map.find s.gangs g.gang).map s.classOf).getD 0

/-- Whether a gang waits for a core: for its first admission or a relaunch, for its next phase, or evicted whole. -/
def State.wantsCore (s : State) (g : Gang) : Bool :=
  match g.st with
  | .waiting => !((Map.find s.launches g.lid).map (·.ended)).getD true
  | .phase => g.groups.all (fun k => match Map.find s.groups k with
    | some r => r.st == .phase .queued || r.st == .ended
    | none => true)
  | .saved => true
  | _ => false

/-- The gang that something is kept for, while it waits for a core. -/
def State.keeper (s : State) (k : Keep) : Option Gang :=
  (s.gangs.map Prod.snd).find? (fun g => g.lid == k.lid && g.num == k.num && s.wantsCore g)

/-- What a core keeps for gangs that wait for it. -/
def State.keepsOn (s : State) (c : Nat) : List Keep :=
  match (s.core c).drain with
  | some d => d.keeps.filter (fun k => (s.keeper k).isSome)
  | none => []

/-- The highest class of a gang that a pre-emption request pending on a core is for. -/
def State.requestClass (s : State) (c : Nat) : Option Nat :=
  (((s.keepsOn c).filterMap s.keeper).map s.classOf).max?

/-- Registers that the threads of a wave hold, as callers and as callees. -/
def State.waveRegs (s : State) (w : Nat) (v : Wave) : Nat :=
  match Map.find s.groups v.gid with
  | some g => popCount 32 (s.waveLanes w).toNat * g.outerAllot
    + gateRegs (fun k => (s.tidsOf w (s.waveLanes w)).contains k) g.budget g.gates
  | none => 0

/-- Thread slots and registers that the waves `ws` and the gangs `gs` hold on core `c`. -/
def State.heldBy (s : State) (c : Nat) (ws gs : List Nat) : Nat × Nat :=
  let waves := s.waves.filter (fun p => ws.contains p.1 && p.2.resident && p.2.core == c
    && !((Map.find s.groups p.2.gid).map (fun g => gs.contains g.gang)).getD false)
  let groups := s.groups.filter (fun p => gs.contains p.2.gang && (s.coresOf p.2).contains c
    && (p.2.st == .resident || p.2.st == .spilled))
  (waves.foldl (fun n p => n + popCount 32 (s.waveLanes p.1).toNat) 0 + groups.foldl (fun n p => n + s.onCore p.1) 0,
   waves.foldl (fun n p => n + s.waveRegs p.1 p.2) 0 + groups.foldl (fun n p => n + s.regsOf p.1 p.2) 0)

/-- A gang that asks for a core: its class, its launch, its number in it. -/
structure Asker where
  cls : Nat
  lid : Nat
  num : Nat
deriving DecidableEq, Repr

/-- A gang as it asks for a core. -/
def State.asker (s : State) (g : Gang) : Asker := { cls := s.classOf g, lid := g.lid, num := g.num }

/-- What a core keeps for other gangs than `a`. -/
def State.keptFrom (s : State) (a : Asker) (c : Nat) : List Keep :=
  (s.keepsOn c).filter (fun k => k.lid != a.lid || k.num != a.num)

/-- Thread slots and registers that the victims of others' requests have freed so far: they go to the gangs that asked (spec
11, R302). -/
def State.keptFor (s : State) (a : Asker) (c : Nat) : Nat × Nat :=
  (s.keptFrom a c).foldl (fun n k =>
    let h := s.heldBy c k.waves k.whole
    (n.1 + (k.slots - h.1), n.2 + (k.regs - h.2))) (0, 0)

/-! ### Placement (spec 11, R307, R308) -/

/-- Whether a core that already takes `u` of this gang can also take `n`, for the gang that asks: not while the core moves, nor
what is kept for others. None does once a thermal stop has stopped the clocks (spec 14, R363). -/
def State.coreTakes (s : State) (a : Asker) (c : Nat) (u n : NeedOf) : Bool :=
  let kept := s.keptFor a c
  !s.mgmt.stopped && s.slotsUsed c + kept.1 + u.threads + n.threads ≤ threadSlots
    && s.regsUsed c + kept.2 + u.regs + n.regs ≤ coreRegs
    && !(n.mtx && (u.mtx || s.engineTaken c || (s.keptFrom a c).any (fun k => k.need.mtx && !k.whole.isEmpty)))
    && !(n.gfx && !(s.core c).ucode) && !s.throttled c && !(((s.core c).drain.map (·.move)).getD false)
    && !s.waves.any (fun p => !p.2.resident && p.2.core == c && (match Map.find s.groups p.2.gid with
        | some g => g.st == .resident && a.cls ≤ s.groupClass g
        | none => false))

/-- Nothing taken. -/
def NeedOf.none : NeedOf := { threads := 0, regs := 0, mtx := false, gfx := false }

/-- Two needs on one core. -/
def NeedOf.plus (a b : NeedOf) : NeedOf :=
  { threads := a.threads + b.threads, regs := a.regs + b.regs, mtx := a.mtx || b.mtx, gfx := a.gfx || b.gfx }

/-- Cores of cluster base `base` for the groups of `needs`, from index `i + k`; `u` is what the core at `i + k` already
takes. With PACK a group may stay on the core of the one before it. -/
def State.arcFrom (s : State) (a : Asker) (base i : Nat) (pack : Bool) (k : Nat) (u : Option NeedOf) :
    List NeedOf → Option (List Nat)
  | [] => some []
  | n :: r =>
    let here := base + (i + k) % 8
    let share := match u with
      | some u => pack && s.coreTakes a here u n
      | none => false
    if share then
      (s.arcFrom a base i pack k (some ((u.getD .none).plus n)) r).map (fun l => here :: l)
    else
      let k' := if u.isNone then k else k + 1
      let c := base + (i + k') % 8
      if k' < 8 && s.coreTakes a c .none n then
        (s.arcFrom a base i pack k' (some n) r).map (fun l => c :: l)
      else none

/-- Whether die `d` holds logical cluster `c` (spec 01, R8; spec 19, R451), and is not giving it up (spec 01, R21). -/
def State.hasCluster (s : State) (d c : Nat) : Bool :=
  (List.range 19).any (fun n => (s.cluster d n).role == .logical c)
    && !((Map.find s.mgmt.moving d).map (fun m => m.logical == c && m.target.isNone)).getD false

/-- First core of a logical cluster (spec 01, R9). -/
def clusterBase (d c : Nat) : Nat := 136 * d + 8 * c

/-- Free thread slots of a cluster. -/
def State.freeSlots (s : State) (d c : Nat) : Nat :=
  (List.range 8).foldl (fun n i => n + (threadSlots - s.slotsUsed (clusterBase d c + i))) 0

/-- Whether no pre-emption request for a gang of a class above `cls` is pending on a cluster (spec 11, R302). -/
def State.clusterOpen (s : State) (cls d c : Nat) : Bool :=
  (List.range 8).all (fun i => match s.requestClass (clusterBase d c + i) with
    | some k => k ≤ cls
    | none => true)

/-- The first arc of a cluster that takes the gang. -/
def State.arcIn (s : State) (a : Asker) (d c : Nat) (pack : Bool) (needs : List NeedOf) : Option (List Nat) :=
  if s.hasCluster d c && s.clusterOpen a.cls d c then
    (List.range 8).findSome? (fun i => s.arcFrom a (clusterBase d c) i pack 0 none needs)
  else none

/-- The same core indices on another logical cluster of the die, for a twin gang (spec 19, R447). -/
def State.twinIn (s : State) (a : Asker) (d c : Nat) (arc : List Nat) (needs : List NeedOf) : Option Nat :=
  (List.range 17).find? (fun c' => c' != c && s.hasCluster d c' && s.clusterOpen a.cls d c'
    && (arc.zip needs).all (fun e => s.coreTakes a (clusterBase d c' + e.1 % 8) .none e.2))

/-- The placement of a gang: die, cluster, the cores of its groups, and the twin's cluster. The clusters are those of
`dies`; the one with the most free thread slots is taken, on a tie the lower number, then die 0 (spec 11, R307). -/
def State.placeGang (s : State) (a : Asker) (dies : List Nat) (pack paired : Bool) (needs : List NeedOf) :
    Option (Nat × Nat × List Nat × Option Nat) :=
  let fits := (List.range 17).flatMap (fun c => dies.filterMap (fun d =>
    (s.arcIn a d c pack needs).bind (fun arc =>
      if paired then (s.twinIn a d c arc needs).map (fun t => (d, c, arc, some t))
      else some (d, c, arc, none))))
  fits.foldl (fun (b : Option (Nat × Nat × List Nat × Option Nat)) e =>
    match b with
    | none => some e
    | some x => if s.freeSlots x.1 x.2.1 < s.freeSlots e.1 e.2.1 then some e else some x) none

/-! ### Release of a bin by age -/

/-- The earliest-filed thread of a bin has waited 64 core cycles: the bin releases a wave (R25), one in a cycle (spec 15, R365). -/
def State.binAge (s : State) (c i : Nat) : State :=
  match (s.core c).bins[i]? with
  | none => s
  | some b =>
    match b.tids.head? with
    | none => s
    | some e => if e.2 + 64 ≤ s.tick ∧ b.next ≤ s.tick then s.releaseBin c i else s

def execBinAgeRelease (core bin : Nat) (s : State) : Host.Outcome State Fault Refusal := .next (s.binAge core bin)

/-! ### Asynchronous causes of a wave that ends -/

/-- The lanes of `m` leave wave `w`; if the wave ends, the asynchronous causes it held go on to another wave of the
group or to the host, as on arrival (spec 17, R398; log 20). -/
def State.departWave (s : State) (w : Nat) (m : Mask) : State :=
  match Map.find s.waves w with
  | none => s
  | some v =>
    let s := s.leaveWave w m
    if Map.has s.waves w then s else v.asyncs.foldl (fun (s : State) c => s.raiseAsync v.gid c) s

end Sys2Proof.Machine
end

