-- ==== Sys2Proof/Machine/GateTable.lean ====
section
/-!
DEFINITION. The gate table (spec 08, R228, R229; spec 18, R418, R419), and the groups of a core that wait for registers: in
`ALLOT` and in `GCALL`, in one admission order (spec 02, R37, R47).
-/

namespace Sys2Proof.Machine

/-- The threads whose arrival a collective of the group expects: every live thread, or the requesting threads inside a
gate call (spec 08, R195, R229). -/
def State.expected (s : State) (gid : Nat) : List Nat :=
  match Map.find s.groups gid with
  | none => []
  | some g => match g.gates with
    | [] => s.groupTids gid
    | f :: _ => f.requesters.filter (Map.has s.threads)

/-- Whether every expected thread waits at an instruction that satisfies `p`. -/
def State.gathered (s : State) (gid : Nat) (p : Instr → Bool) : Bool :=
  let ts := s.expected gid
  let at' := s.threadsIn (s.waitingAt gid p)
  !ts.isEmpty && ts.all at'.contains

/-- The groups on a core that wait in `ALLOT`, oldest admission first. -/
def State.allotQueue (s : State) (c : Nat) : List (Nat × Group) :=
  sortBy (fun a b => a.2.admSeq ≤ b.2.admSeq)
    (s.groups.filter (fun p => p.2.core == c && (p.2.st == .resident || p.2.st == .spilled) && s.gathered p.1 isAllot))

/-- A `GCALL`. -/
def isGcall : Instr → Bool
  | .gcall _ => true
  | _ => false

/-! ### The gate table (spec 08, R228) -/

/-- Word `w` of gate-table entry `i` of function `f`. -/
def State.gateWord (s : State) (f i w : Nat) : Nat := s.peekNat (s.ftBase f 6 + 64 * i + 8 * w) 8

/-- Whether a caller's domain lies in a valid range of word 7. -/
def gateAllows (w7 dom : Nat) : Bool :=
  w7.testBit 63 && bits w7 43 32 ≤ dom && dom ≤ bits w7 59 48
    || w7.testBit 31 && bits w7 11 0 ≤ dom && dom ≤ bits w7 27 16

/-- Whether a reserved field of an entry is not zero. -/
def gateReserved (w : Nat → Nat) : Bool :=
  bits (w 0) 61 57 != 0 || bits (w 1) 31 6 != 0 || bits (w 2) 63 13 != 0 || bits (w 3) 63 57 != 0
    || bits (w 4) 63 32 != 0 || bits (w 5) 63 57 != 0 || bits (w 6) 63 16 != 0 || bits (w 7) 62 60 != 0
    || bits (w 7) 47 44 != 0 || bits (w 7) 30 28 != 0 || bits (w 7) 15 12 != 0

/-- Why the entry is no gate for group `g`, the lowest code: checked before LOST (spec 08, R229; R418; spec 17, R392). -/
def Group.gateClosed (g : Group) (w : Nat → Nat) : Option Nat :=
  minCode
    ((if (w 0).testBit 63 then [] else [0x118]) ++ (if gateAllows (w 7) g.domain then [] else [0x119])
      ++ (if g.gates.length < 4 then [] else [0x11A]))

/-- Why an entry that is not lost refuses the call of `n` requesting threads of group `g`, the lowest code (R418; spec 17,
R392). -/
def State.gateRefusal (s : State) (g : Group) (w : Nat → Nat) (n : Nat) : Option Nat :=
  let b := bits (w 1) 5 0
  minCode
    ((if gateReserved w then [0x11B] else [])
      ++ (if b = 0 ∨ 32 < b ∨ coreRegs < 8 * b * n then [0x11C] else [])
      ++ (if bits (w 0) 56 0 % 8 ≠ 0 ∨ bits (w 3) 56 0 % 128 ≠ 0 ∨ bits (w 5) 56 0 % 4096 ≠ 0 then [0x11D] else [])
      ++ (if bits (w 6) 15 0 = 0 then [0x11E] else [])
      ++ (if (s.pasidEntry g.func (bits (w 1) 51 32)).testBit 0 then [] else [0x11F]))

/-! ### Memory of the callee -/

/-- Translate `k` pages from address `va` of a context, and then page boundaries: the physical address of the first, or
none if one does not translate to memory. -/
def State.touchPages (s : State) (c : Ctx) (va : Nat) (need : Need) : Nat → Option Nat × State
  | 0 => (some 0, s)
  | k + 1 =>
    match s.translate c va need with
    | (.error _, s) => (none, s)
    | (.ok t, s) =>
      if s.paKind t.pa != .mem then (none, s)
      else match s.touchPages c ((va / 4096 + 1) * 4096) need k with
        | (none, s) => (none, s)
        | (some _, s) => (some t.pa, s)

/-- Touch every page of `n` bytes, at least one, at virtual address `va` of a context. -/
def State.touch (s : State) (c : Ctx) (va n : Nat) (need : Need) : Option Nat × State :=
  s.touchPages c va need (pagesOf va n)

/-- The fragments of a group that have arrived at the `GCALL` at `pc` at the present depth. -/
def State.callers (s : State) (gid : Nat) (depth : Nat) (pc : VA) : List (Nat × Frag) :=
  (s.waitingAt gid isGcall).filter (fun e => e.2.pc == pc && (match e.2.st with
    | .wait wt => wt.aux.take 2 == [0, depth]
    | _ => false))

/-- The wait of a fragment. -/
def Frag.waitOn (f : Frag) : Mask := match f.st with
  | .wait wt => wt.on &&& f.mask
  | _ => 0

/-- Frames that a gate's area has free, lowest first. -/
def State.freeFrame (s : State) (base n : Nat) : Option Nat :=
  (List.range n).find? (fun i => !s.mem.gframes.contains (base, i))

/-! ### Waiting for registers (spec 02, R37, R47) -/

/-- What the cores keep for gangs other than that of group `g`: thread slots and registers that their victims have freed (spec 11,
R302). -/
def State.keptBeside (s : State) (g : Group) (c : Nat) : Nat × Nat :=
  match Map.find s.gangs g.gang with
  | some q => s.keptFor (s.asker q) c
  | none => (0, 0)

/-- Whether `n` more registers are free on every core that group `g` takes, beside what is kept for other gangs. -/
def State.regsFit (s : State) (g : Group) (n : Nat) : Bool :=
  (s.coresOf g).all (fun c => s.regsUsed c + (s.keptBeside g c).2 + n ≤ coreRegs)

/-- The address space and domain of an entry's callee. -/
def calleeCtx (g : Group) (w : Nat → Nat) : Ctx :=
  { die := dieOf g.core, func := g.func, pasid := bits (w 1) 51 32, domain := bits (w 1) 63 52 }

/-- Registers of the callee for `n` requesting threads. -/
def calleeRegs (w : Nat → Nat) (n : Nat) : Nat := 8 * bits (w 1) 5 0 * n

/-- Whether a frame of the entry is free. -/
def State.frameFree (s : State) (g : Group) (w : Nat → Nat) : Bool :=
  match (s.touch (calleeCtx g w) (bits (w 5) 56 0) 1 .write).1 with
  | some base => (s.freeFrame base (bits (w 6) 15 0)).isSome
  | none => false

/-- Whether the threads that wait at the `GCALL` at `pc` are as many as its count asks. -/
def State.callComplete (s : State) (gid : Nat) (l : List (Nat × Frag)) (n : Nat) : Bool :=
  (if n = 0 then (s.groupTids gid).length else n) ≤ (s.threadsIn l).length

/-- Whether one of the registers that a call or a return copies, `mask` of them, is pending in one of the threads (spec 08, R205). -/
def State.copiesPending (s : State) (tids : List Nat) (mask : Nat) : Bool :=
  tids.any (fun k => ((Map.find s.threads k).map (fun t =>
    (List.range 8).any (fun i => mask.testBit i && (Map.find t.pend i).isSome))).getD false)

/-- Whether a resident group waits in a `GCALL` for its callee's registers: the call is complete and not refused, and it does
not wait for a frame alone. -/
def State.callWaits (s : State) (gid : Nat) (g : Group) : Bool :=
  g.st == .resident && (((s.waitingAt gid isGcall).map (fun e => e.2.pc)).eraseDups).any (fun pc =>
    let l := s.callers gid g.gates.length pc
    match l.head?.bind (fun e => match e.2.st with | .wait wt => some wt | _ => none) with
    | some wt => (match wt.instr with
      | .gcall a =>
        let w := s.gateWord g.func a.gate.val
        let req := l.flatMap (fun e => s.tidsOf e.1 e.2.waitOn)
        let n := req.length
        s.callComplete gid l (wt.aux.getD 2 0) && n != 0 && !s.copiesPending req (bits (w 2) 7 0)
          && (g.gateClosed w).isNone && !(w 0).testBit 62
          && (s.gateRefusal g w n).isNone && (!s.regsFit g (calleeRegs w n) || s.frameFree g w)
      | _ => false)
    | none => false)

/-- Whether a group of the same core that was admitted before `g` waits for registers. -/
def State.olderWaits (s : State) (g : Group) : Bool :=
  (s.allotQueue g.core).any (fun e => e.2.admSeq < g.admSeq)
    || s.groups.any (fun p => p.2.core == g.core && p.2.admSeq < g.admSeq && s.callWaits p.1 p.2)

end Sys2Proof.Machine
end

