-- ==== Sys2Proof/Machine/Phase.lean ====
section
/-!
DEFINITION. Group-collective instructions (spec 08, R195; spec 18, R410), register allotment (spec 02, R36 to R38; spec
08, R220), and the ends of phases (spec 02, R39, R40, R43; spec 08, R222; spec 18, R417).
-/

namespace Sys2Proof.Machine

/-! ### Arrivals -/

/-- The lanes of the issuing fragment arrive and wait; `aux` goes with the wait. -/
def State.arrive (s : State) (x : Iss) (aux : List Nat) : State :=
  s.finish x (some { instr := x.i, on := x.on, vals := [], aux := aux })
    ((lanesOf x.fr.mask).map (fun l => (l, .wait)))

/-- Whether a fragment waits at an instruction that satisfies `p`. -/
def Frag.waitsAt (p : Instr → Bool) (f : Frag) : Bool :=
  match f.st with
  | .wait wt => p wt.instr
  | _ => false

/-- Every fragment of the group that waits at an instruction that satisfies `p` goes on at PC + 8. -/
def State.resumeAt (s : State) (gid : Nat) (p : Instr → Bool) : State :=
  { s with waves := Map.mapv s.waves (fun _ v =>
      if v.gid = gid then
        { v with frags := v.frags.map (fun f => if f.waitsAt p then { f with st := .ready, pc := f.pc + 8 } else f) }
      else v) }

/-- The collective is abandoned: each wave enters its handler with every lane that waits at it, at the address where they
wait (R410); where lanes of a wave wait at several addresses, each address has an entry of its own, one after the other
(log 48). -/
def State.abandonAt (s : State) (gid : Nat) (p : Instr → Bool) (code : Nat) : State :=
  let l := s.waitingAt gid p
  ((l.map (fun e => (e.1, e.2.pc))).eraseDups).foldl (fun (s : State) k =>
    let fs := (l.filter (fun e => e.1 == k.1 && e.2.pc == k.2)).map Prod.snd
    s.lateCause k.1 (fs.foldl (fun m f => m ||| f.mask) 0) false k.2 code 0
      (fs.head?.bind (fun f => match f.st with | .wait wt => encode wt.instr | _ => none))) s

/-! ### Allotment -/

/-- An `ALLOTREL`. -/
def isAllotrel : Instr → Bool
  | .allotrel _ => true
  | _ => false

/-- A `SYNC`. -/
def isSync : Instr → Bool
  | .sync _ => true
  | _ => false

/-- A `PHEND`. -/
def isPhend : Instr → Bool
  | .phend _ => true
  | _ => false

/-- A thread at the grant: g16 and above read zero, but for carried ones, which hold their value at the last phase end
(spec 02, R37). -/
def Thread.grant (t : Thread) : Thread := { t with regs := (t.regs.filter (fun p => p.1 < 16)) ++ t.saved }

/-- A thread after `ALLOTREL`: g16 and above are lost. -/
def Thread.shrink (t : Thread) : Thread :=
  { t with regs := t.regs.filter (fun p => p.1 < 16), pend := t.pend.filter (fun p => p.1 < 16) }

/-- Change every thread of a group. -/
def State.mapGroup (s : State) (gid : Nat) (f : Thread → Thread) : State :=
  { s with threads := Map.mapv s.threads (fun _ t => if t.gid = gid then f t else t) }

/-- Registers a grant takes beyond those the group holds; evicted threads hold none before and after. -/
def State.grantNeeds (s : State) (gid : Nat) (g : Group) : Nat :=
  let n := if g.st = .spilled then lrThreads (s.recOf g) else lrThreads (s.recOf g) - s.offCore gid
  n * g.budget - s.regsOf gid g

/-- Whether a waiting group on core `c` can be granted: every group that was admitted before it has what it waits for, and
the registers are free on every core it takes. -/
def State.grantable (s : State) (gid : Nat) : Bool :=
  match Map.find s.groups gid with
  | none => false
  | some g =>
    ((s.allotQueue g.core).head?.map Prod.fst) == some gid && !s.olderWaits g && s.regsFit g (s.grantNeeds gid g)

/-- The grant (spec 02, R37, R38): a spilled group is on its core again. The spec lets it come back to another core of its
cluster; the model keeps it on its own (log 53). Waves that a request has evicted stay evicted. -/
def State.grantAllot (s : State) (gid : Nat) : State :=
  match Map.find s.groups gid with
  | none => s
  | some g =>
    if s.grantable gid then
      let s := s.mapGroup gid Thread.grant
      let s := s.updGroup gid (fun g => { g with full := true, st := .resident })
      let s := { s with waves := Map.mapv s.waves (fun _ v =>
        if v.gid = gid && g.st == GroupSt.spilled then { v with resident := true } else v) }
      s.resumeAt gid isAllot
    else s

def execAllotGrant (gid : Nat) (s : State) : Host.Outcome State Fault Refusal := .next (s.grantAllot gid)

/-- Every resident group on a core waits in `ALLOT` and the oldest cannot be granted: the youngest-admitted waiting
group is spilled (spec 02, R38; spec 17, R403). -/
def State.allotSpillOn (s : State) (c : Nat) : State :=
  let q := s.allotQueue c
  let stuck := s.groups.all (fun p => p.2.core != c || p.2.st != .resident || s.gathered p.1 isAllot)
  match q.head?, (q.filter (fun p => p.2.st == .resident)).getLast? with
  | some o, some y =>
    if stuck && !s.grantable o.1 && o.1 != y.1 then
      let s := s.updGroup y.1 (fun g => { g with st := .spilled })
      let s := { s with waves := Map.mapv s.waves (fun _ v => if v.gid = y.1 then { v with resident := false } else v) }
      s.count 0x0F8
    else s
  | _, _ => s

def execAllotSpill (core : Nat) (s : State) : Host.Outcome State Fault Refusal := .next (s.allotSpillOn core)

/-- Every expected thread has arrived at `ALLOT`: inside a gate callee 0x0E7; with the full allotment held, on; else the
grant, if it can be made now. -/
def State.checkAllot (s : State) (gid : Nat) : State :=
  match Map.find s.groups gid with
  | none => s
  | some g =>
    if !s.gathered gid isAllot then s
    else if !g.gates.isEmpty then s.abandonAt gid isAllot 0x0E7
    else if g.full || g.budget ≤ 16 then s.resumeAt gid isAllot
    else s.grantAllot gid

def execAllot (a : H0) (s : State) : Host.Outcome State Fault Refusal :=
  issue (.allot a) (fun x s => (s.arrive x [s.tick]).checkAllot x.gid) s

/-- Every expected thread has arrived at `ALLOTREL`. -/
def State.checkAllotrel (s : State) (gid : Nat) : State :=
  match Map.find s.groups gid with
  | none => s
  | some g =>
    if !s.gathered gid isAllotrel then s
    else if !g.gates.isEmpty then s.abandonAt gid isAllotrel 0x0E7
    else if !g.full || g.budget ≤ 16 then s.resumeAt gid isAllotrel
    else
      ((s.mapGroup gid Thread.shrink).updGroup gid (fun g => { g with full := false })).resumeAt gid isAllotrel

def execAllotrel (a : H0) (s : State) : Host.Outcome State Fault Refusal :=
  issue (.allotrel a) (fun x s => (s.arrive x []).checkAllotrel x.gid) s

/-! ### Phase ends -/

/-- The address at which the thread in a lane of wave `v` stands. -/
def Wave.pcOf (v : Wave) (l : Nat) : Option VA :=
  (v.frags.find? (fun f => !f.hnd && f.mask.getLsbD l)).map (·.pc)

/-- A thread at a phase end (spec 02, R39, R40): registers outside the carry set are released, carried ones at g16 and
above wait for the next `ALLOT`, and a token that is not carried is dropped (spec 04, R101). Of a group that has given them up by
`ALLOTREL` what waits stays that of the phase end before (log 74). -/
def Thread.carry (t : Thread) (ws : List W64) (full : Bool) (pc : VA) : Thread :=
  { t with
    regs := t.regs.filter (fun p => p.1 < 16 && lrCarry ws p.1)
    saved := (if full then t.regs.filter (fun p => 16 ≤ p.1 && lrCarry ws p.1) else t.saved)
    pend := t.pend.filter (fun p => lrCarry ws p.1)
    pc := pc, place := none }

/-- Why a phase end of a group is refused, if it is; the lowest code (spec 18, R417; spec 17, R391). -/
def phaseRefusal (g : Group) : Option Nat :=
  if !g.gates.isEmpty then some 0x0E5
  else if !g.stopped.isEmpty then some 0x0F6
  else if g.noPre.isSome then some 0x0F7
  else none

/-- Whether the carry sets of a paired group's twins differ at its phase end: they are equal but where `finj.sig` makes the
twin's next record differ (spec 19, R447, R450; log 61). -/
def State.carryDiffers (s : State) (gid : Nat) (g : Group) : Bool :=
  lrPaired (s.recOf g) && s.waves.any (fun p => p.2.gid == gid && p.2.sigFlip)

/-- Why a phase end of group `gid` does not take place: a refusal, or carry sets that differ, which raise 0x159 as a write
does. -/
def State.phaseCause (s : State) (gid : Nat) (g : Group) : Option Nat :=
  match phaseRefusal g with
  | some c => some c
  | none => if s.carryDiffers gid g then some 0x159 else none

/-- A phase end that does not take place: the collective is abandoned, and a comparison that failed has been made. -/
def State.abandonPhase (s : State) (gid : Nat) (p : Instr → Bool) (code : Nat) : State :=
  (if code = 0x159 then { s with waves := Map.mapv s.waves (fun _ v => if v.gid = gid then { v with sigFlip := false } else v) }
    else s).abandonAt gid p code

/-- The gang is between phases once no group of it is on a core. -/
def State.settlePhase (s : State) (gang : Nat) : State :=
  match Map.find s.gangs gang with
  | none => s
  | some q =>
    if q.groups.all (fun k => match Map.find s.groups k with
        | some g => (match g.st with | .phase _ => true | .ended => true | _ => false)
        | none => true) then
      s.updGang gang (fun q => { q with st := .phase, since := s.tick })
    else s

/-- Bytes of a phase record (spec 02, R41). -/
def phaseRecordBytes (ws : List W64) : Nat := 512 + 256 * lrThreads ws

/-- Whether the phase record of a group can be written, at its place in the phase-record area (spec 02, R41; log 10). -/
def State.phaseRecordOk (s : State) (g : Group) : Bool :=
  let n := phaseRecordBytes (s.recOf g)
  (s.touch g.ctx (lrPrarea (s.recOf g) + g.num * n) n .write).1.isSome

/-- The phase end of group `gid`: its threads leave the core, and its next phase is queued under `c`. Where the phase record
cannot be written the gang is killed with 0x0FF (spec 17, R391; log 10). -/
def State.endPhase (s : State) (gid : Nat) (c : PhaseCond) : State :=
  match Map.find s.groups gid with
  | none => s
  | some g =>
    if !s.phaseRecordOk g then s.killGroup gid { cause := 0x0FF } else
    let ws := s.recOf g
    let waves := s.groupWaves gid
    let lost := waves.flatMap (fun w => ((Map.find s.waves w).map (·.asyncs)).getD [])
    let s := { s with
      threads := Map.mapv s.threads (fun _ t =>
        if t.gid = gid then
          t.carry ws g.full (match t.place with
            | some (w, l) => ((Map.find s.waves w).bind (fun v => v.pcOf l)).getD t.pc
            | none => t.pc)
        else t)
      waves := Map.keep s.waves (fun _ v => v.gid != gid) }
    let s := s.updCore g.core (fun r =>
      { r with bins := r.bins.filter (fun b => b.gid != gid), filing := r.filing.filter (fun e => e.2.1 != gid),
               buckets := r.buckets.filter (fun b => b.gid != gid),
               eng := if r.eng.owner = some gid then .init else r.eng })
    let s := (((s.dropLoads gid).flushGroup gid).unpin gid).updGroup gid (fun g =>
      { g with st := .phase c, full := false, ending := false, since := s.tick })
    let s := lost.foldl (fun (s : State) a => s.raiseAsync gid a) s
    s.settlePhase g.gang

/-- Every expected thread has arrived at `SYNC` (spec 02, R43): on, where the group has no unfinished child; else a phase
end that waits for them. -/
def State.checkSync (s : State) (gid : Nat) : State :=
  match Map.find s.groups gid with
  | none => s
  | some g =>
    if !s.gathered gid isSync then s
    else if g.children = 0 then s.resumeAt gid isSync
    else match s.phaseCause gid g with
      | some c => s.abandonPhase gid isSync c
      | none => (s.resumeAt gid isSync).endPhase gid .children

def execSync (a : H0) (s : State) : Host.Outcome State Fault Refusal :=
  issue (.sync a) (fun x s => (s.arrive x []).checkSync x.gid) s

/-- Every expected thread has arrived at `PHEND`. -/
def State.checkPhend (s : State) (gid : Nat) : State :=
  match Map.find s.groups gid with
  | none => s
  | some g =>
    if !s.gathered gid isPhend then s
    else match s.phaseCause gid g with
      | some c => s.abandonPhase gid isPhend c
      | none => (s.resumeAt gid isPhend).endPhase gid .queued

def execPhend (a : H0) (s : State) : Host.Outcome State Fault Refusal :=
  issue (.phend a) (fun x s => (s.arrive x []).checkPhend x.gid) s

/-! ### `DEPINIT.self` (spec 08, R225) -/

/-- A `DEPINIT.self`. -/
def isSelfInit : Instr → Bool
  | .depinitSelf _ => true
  | _ => false

/-- Whether thread `tid` still has to issue the `DEPINIT.self` at `pc`: it stands there and does not wait. -/
def State.owesInit (s : State) (pc : VA) (tid : Nat) : Bool :=
  match (Map.find s.threads tid).bind (·.place) with
  | none => false
  | some (w, l) => match Map.find s.waves w with
    | none => false
    | some v => v.frags.any (fun f => !f.hnd && f.mask.getLsbD l && f.pc == pc && !f.waitsAt isSelfInit)
        || (match v.handler with
            | some h => h.epc == pc && (h.fault ||| h.held).getLsbD l
            | none => false)

/-- Whether accesses of the threads of a group are still to be performed, but for what a `WAITEQ` waits for. -/
def State.groupAccesses (s : State) (gid : Nat) : Bool :=
  s.flights.any (fun p => p.2.gid == gid && !isWaiteq p.2.instr && p.2.parts.any (fun q => Map.has s.threads q.tid))

/-- The phase end of `DEPINIT.self`, once no lane of it is still to write its counter and, as a release side, once the
group's earlier accesses have been performed (spec 04, R107), for which the group issues nothing more: `aux` of a wait is
whether it wrote a count that is not zero, then the threads that still had to. With every count zero the lanes go on. While a
wave of the group is in handler mode the model puts the phase end off; R225 names that case only for lanes of the instruction
itself (log 70). -/
def State.checkSelf (s : State) (gid : Nat) : State :=
  let s := if s.phaseDue gid then s.updGroup gid (fun g => { g with ending := false }) else s
  match Map.find s.groups gid with
  | none => s
  | some g =>
    let ws := s.waitingAt gid isSelfInit
    let aux (f : Frag) : List Nat := match f.st with | .wait wt => wt.aux | _ => []
    if ws.isEmpty || ws.any (fun e => (aux e.2).tail.any (s.owesInit e.2.pc)) then s
    else if ws.all (fun e => (aux e.2).headD 0 == 0) then s.resumeAt gid isSelfInit
    else match s.phaseCause gid g with
      | some c => s.abandonPhase gid isSelfInit c
      | none =>
        if s.groupAccesses gid || (s.groupWaves gid).any (fun w => match Map.find s.waves w with
            | some v => v.handler.isSome
            | none => false) then s.updGroup gid (fun g => { g with ending := true })
        else
          let n := (s.mem.depSucc.filter (fun p => p.2.self == some gid)).length
          (s.resumeAt gid isSelfInit).endPhase gid (if n = 0 then .queued else .counters n)

end Sys2Proof.Machine
end

