-- ==== Sys2Proof/Machine/Admit.lean ====
section
/-!
DEFINITION. Offering and admitting gangs (spec 11, R302, R306 to R308; spec 02, R39, R44; spec 03, R79; spec 15, R365).
-/

namespace Sys2Proof.Machine

/-! ### Offering gangs (spec 11, R306; spec 02, R44) -/

/-- Whether offset `k` (0 to 48, without 24) is in a stencil word (spec 08, R223). -/
def stencilHas (w : Nat) (k : Nat) : Bool := k != 24 && w.testBit (if k < 24 then k else k - 1)

/-- Whether tile (x, y) of a board is released: every tile its offsets name has retired or lies outside. -/
def Board.released (b : Board) (x y : Nat) : Bool :=
  (List.range 49).all (fun k =>
    !stencilHas (bits b.stencil.toNat 47 0) k ||
      (let tx : Int := x + (k % 7 : Nat) - 3
       let ty : Int := y + (k / 7 : Nat) - 3
       tx < 0 || ty < 0 || (b.w : Int) ≤ tx || (b.h : Int) ≤ ty || b.retired.contains (tx.toNat, ty.toNat)))

/-- The physical address of a scoreboard area, in the address space of a launch: the key of its board (log 72). -/
def State.areaPa (s : State) (func pasid domain va : Nat) (k : Need) : Option Nat :=
  match (s.translate { die := 0, func := func, pasid := pasid, domain := domain } va k).1 with
  | .ok t => if s.paKind t.pa = .reserved then none else some t.pa
  | .error _ => none

/-- The board in the area at a virtual address, with its physical address. -/
def State.boardAt (s : State) (func pasid domain va : Nat) : Option (Nat × Board) :=
  (s.areaPa func pasid domain va .read).bind (fun a => (Map.find s.mem.boards a).map (fun b => (a, b)))

/-- The board a launch is bound to. -/
def State.boardOf (s : State) (l : Launch) : Option (Nat × Board) :=
  if lrTsen l.words then s.boardAt l.func l.pasid l.domain (lrTsarea l.words) else none

/-- Queue gang `n` of launch `lid` for admission. -/
def State.offerGang (s : State) (lid n : Nat) : State :=
  let k := s.nextKey
  let g : Gang :=
    { lid := lid, num := n, groups := [], die := 0, cluster := 0, st := .waiting, relaunches := 0, since := s.tick,
      asked := none, class7 := false, parent := none, fargs := [], frameArea := 0, twin := none }
  { s with nextKey := k + 1, gangs := Map.put s.gangs k g }

/-- Offer what a launch may offer now: with a scoreboard, each gang whose tile is released and that has not been
offered; else the next gang, once the one before it has been admitted. -/
def State.offerGangs (s : State) (lid : Nat) : State :=
  match Map.find s.launches lid with
  | none => s
  | some l =>
    if l.ended then s
    else if lrTsen l.words then
      match s.boardOf l with
      | none => s
      | some (_, b) =>
        let now := (List.range (lrGangs l.words)).filter (fun n =>
          !l.offered.contains n && b.released (lrTile l.words n).1 (lrTile l.words n).2)
        let s := now.foldl (fun (s : State) n => s.offerGang lid n) s
        s.updLaunch lid (fun l => { l with offered := l.offered ++ now, nextGang := l.nextGang + now.length })
    else if l.nextGang < lrGangs l.words
        && !s.gangs.any (fun p => p.2.lid == lid && p.2.st == .waiting && p.2.relaunches == 0) then
      (s.offerGang lid l.nextGang).updLaunch lid (fun l => { l with nextGang := l.nextGang + 1 })
    else s

/-! ### Launches -/

/-- A launch record as the engine holds it (spec 11, R304), before any gang of it is offered. -/
def launchRec (ws : List W64) (binds : Map W128) (args : List W32) (func pasid domain lrec queue etag cls seq : Nat)
    (sys : Bool) (src : LaunchSrc) : Launch :=
  { words := ws, binds := binds, args := args, func := func, pasid := pasid, domain := domain, lrec := lrec,
    queue := queue, etag := etag, vec := 0, cdep := 0, cls := cls, sysPriv := sys, src := src, seq := seq,
    binding := none, bound := false, nextGang := 0, offered := [], failed := false, ended := false, ord := false }

/-! ### First admission (spec 03, R79; spec 11, R306) -/

/-- The registers of a thread at first admission: the arguments in g0 to g7; in g8 to g15 the record's constant
arguments, which a forked child does not get (spec 08, R221). -/
def firstRegs (l : Launch) (g : Gang) : Map W32 :=
  let lo := if g.parent.isSome then g.fargs else l.args
  let all := (List.range 8).map (fun i => lo.getD i 0)
    ++ (List.range 8).map (fun i => if g.parent.isSome then 0 else lrCarg l.words i)
  (all.zipIdx.filter (fun p => p.1 != 0)).map (fun p => (p.2, p.1))

/-- A thread of a gang at first admission. -/
def firstThread (l : Launch) (g : Gang) (gid rank t : Nat) (pc : VA) : Thread :=
  { gid := gid, wid := lrWid l.words g.num rank t, regs := firstRegs l g, saved := [], preds := 0, chain := [], pc := pc,
    place := none, pend := [], nLd := 0, nSt := 0, nCp := 0, nTl := 0, sig := 0, call := 0, outer := [], passed := false, drew := [],
    fences := [], held := false }

/-- A group of a gang at first admission, on core `c`. -/
def firstGroup (l : Launch) (lid gk : Nat) (g : Gang) (rank c seq tick : Nat) : Group :=
  let role := lrRoleOf l.words rank
  { lid := lid, gang := gk, rank := rank, num := g.num * lrGroups l.words + rank, role := role, core := c,
    st := .resident, func := l.func, pasid := l.pasid, domain := l.domain,
    bufs := l.binds.filter (fun p => p.2 != 0), bufSeq := [], scr := [], scrPages := lrScrpg l.words, scrOut := [], scrPoison := [],
    scrInjected := [], mcktol := 0, mckrows := 0, mckcols := 0, hvec := 0, gates := [], full := false,
    budget := lrFull l.words role, children := 0, bars := [], noPre := none, ending := false, tileRel := false,
    stopped := [], savedEng := none, savedBuckets := [], admSeq := seq, since := tick }

/-- Take the matrix engine of core `c` for group `gid`. -/
def State.takeEngine (s : State) (c gid : Nat) (e : Eng) : State :=
  s.updCore c (fun r => { r with eng := { e with owner := some gid } })

/-- Create the group of rank `rank` of gang `gk` on core `c`, with its threads, and file them. -/
def State.startGroup (s : State) (gk rank c : Nat) : State :=
  match Map.find s.gangs gk with
  | none => s
  | some g =>
    match Map.find s.launches g.lid with
    | none => s
    | some l =>
      let gid := s.nextKey
      let n := lrThreads l.words
      let gr := firstGroup l g.lid gk g rank c gid s.tick
      let pc := vaOf (lrEpc l.words gr.role)
      let s := { s with
        nextKey := gid + 1 + n
        groups := Map.put s.groups gid gr
        threads := (List.range n).foldl (fun m t => Map.put m (gid + 1 + t) (firstThread l g gid rank t pc)) s.threads }
      let s := s.updGang gk (fun g => { g with groups := g.groups ++ [gid] })
      let s := if kindOf (lrKindCode l.words gr.role) = .matrix then s.takeEngine c gid .init else s
      s.fileThreads c gid ((List.range n).map (fun t => (gid + 1 + t, pc)))

/-- What each group of a gang needs at first admission. -/
def firstNeeds (l : Launch) : List NeedOf :=
  (List.range (lrGroups l.words)).map (fun k =>
    { threads := lrThreads l.words, regs := 16 * lrThreads l.words,
      mtx := kindOf (lrKindCode l.words (lrRoleOf l.words k)) == .matrix
      gfx := kindOf (lrKindCode l.words (lrRoleOf l.words k)) == .graphics })

/-- An image accepted while a launch used the binding takes effect once none does (spec 06, R153). -/
def State.settleBinding (s : State) : State :=
  match s.mgmt.nextBinding with
  | none => s
  | some b =>
    if s.launches.any (fun p => p.2.bound) then s
    else { s with mgmt := { s.mgmt with binding := some b, nextBinding := none } }

/-- A launch with its microcode binding fixed: a forked child's is its parent's (spec 06, R153). -/
def State.withBinding (s : State) (l : Launch) : Launch :=
  if l.bound then l else
  { l with
    bound := true
    binding := match l.src with
      | .fork p => ((Map.find s.launches p).map (·.binding)).getD s.mgmt.binding
      | _ => s.mgmt.binding }

/-- Fix the microcode binding of a launch at the admission of its first group (spec 06, R153). -/
def State.bindLaunch (s : State) (lid : Nat) : State :=
  let s := s.settleBinding
  s.updLaunch lid s.withBinding

/-- The placement a waiting gang would get. -/
def State.placeWaiting (s : State) (g : Gang) : Option (Nat × Nat × List Nat × Option Nat) :=
  (Map.find s.launches g.lid).bind (fun l =>
    s.placeGang (s.asker g) [0, 1] (lrPack l.words) (lrPaired l.words) (firstNeeds l))

/-! ### Later admissions (spec 02, R39, R40; spec 11, R314) -/

/-- Whether a group comes back to a core with its gang: after an eviction, one that was on a core then. -/
def State.returns (s : State) (g : Gang) (k : Nat) : Bool :=
  match Map.find s.groups k with
  | some r => if g.st = .saved then r.st == .saved else r.st != .ended
  | none => false

/-- What the groups of a gang that is off its cores need: their live threads, with the registers they hold. -/
def State.laterNeeds (s : State) (g : Gang) : List NeedOf :=
  g.groups.filterMap (fun k => (Map.find s.groups k).bind (fun r =>
    if !s.returns g k then none
    else
      let n := (s.groupTids k).length
      some { threads := n, regs := (if r.st = .saved then r.outerAllot * n + gateRegs (fun _ => true) r.budget r.gates else 16 * n),
             mtx := s.kindOfGroup r == .matrix, gfx := s.kindOfGroup r == .graphics }))

/-- The placement a gang that is between phases or was evicted whole would get: on its die. -/
def State.placeLater (s : State) (g : Gang) : Option (Nat × Nat × List Nat × Option Nat) :=
  (Map.find s.launches g.lid).bind (fun l =>
    s.placeGang (s.asker g) [g.die] (lrPack l.words) (lrPaired l.words) (s.laterNeeds g))

/-- The waves of group `k` hold entries of core `c` (log 52). -/
def State.enterWaves (s : State) (k c : Nat) : State :=
  (s.groupWaves k).foldl (fun (s : State) w =>
    let e := s.freeEntry c
    s.updWave w (fun v => { v with core := c, resident := true, draining := false, entry := e })) s

/-- Group `k`, which was between phases or evicted whole, is on core `c` again. Between phases its threads are filed in
ascending order of `sr.wid`; after an eviction its waves resume and binned and bucketed threads are filed again, but for those
that a gate call holds (spec 02, R48; spec 08, R232). The order in which it waits for registers (spec 02, R37) stays that of
its first admission: the spec does not say whether an admission order is renewed (log 57). -/
def State.resumeGroup (s : State) (k c : Nat) : State :=
  match Map.find s.groups k with
  | none => s
  | some g =>
    let bucketed := g.savedBuckets.flatMap (fun b => b.tids.map Prod.fst)
    let binned := s.threads.filter (fun p => p.2.gid == k && p.2.place.isNone && !p.2.held && !bucketed.contains p.1)
    let holds (t : Nat) : Bool := ((Map.find s.threads t).map (·.held)).getD false
    let s := s.updGroup k (fun r =>
      { r with core := c, st := .resident, since := s.tick, savedEng := none
               savedBuckets := nonEmpty (g.savedBuckets.map (·.part holds)) })
    let s := if s.kindOfGroup g = .matrix then s.takeEngine c k (g.savedEng.getD .init) else s
    let moved := s.cores.flatMap (fun e => e.2.copyq.filter (fun q => q.gid == k))
    let s := { s with cores := Map.mapv s.cores (fun _ r => { r with copyq := r.copyq.filter (fun q => q.gid != k) }) }
    let s := (s.updCore c (fun r => { r with copyq := r.copyq ++ moved })).enterWaves k c
    let s := s.rebucket c k (nonEmpty (g.savedBuckets.map (·.part (fun t => !holds t))))
    s.fileThreads c k ((sortBy (fun a b => a.2.wid.toNat ≤ b.2.wid.toNat) binned).map (fun p => (p.1, p.2.pc)))

/-! ### The order of service (spec 11, R302) -/

/-- The placement a gang that waits would get. -/
def State.placeFor (s : State) (g : Gang) : Option (Nat × Nat × List Nat × Option Nat) :=
  if g.st = .waiting then s.placeWaiting g else s.placeLater g

/-- The queue of a gang, as function * 2048 + queue. -/
def State.queueOf (s : State) (g : Gang) : Nat :=
  ((Map.find s.launches g.lid).map (fun l => l.func * 2048 + l.queue)).getD 0

/-- The place of a gang in the order of service, least first: class from the highest, queues in turn after the one the
class was served from last, launches in acceptance order, gangs in ascending number. In turn is by function, then queue, from 0,
which the spec leaves open (log 75). -/
def State.serviceKey (s : State) (g : Gang) : List Nat :=
  let c := s.classOf g
  let q := s.queueOf g
  let last := Map.get s.host.served 0 c
  [7 - c, if last < q then q - last else q + 2 ^ 32 - last, ((Map.find s.launches g.lid).map (·.seq)).getD 0, g.num]

/-- Lexicographic order of lists. -/
def lexLt : List Nat → List Nat → Bool
  | a :: r, b :: t => a < b || a == b && lexLt r t
  | _, _ => false

/-- The gang that is served next: of those that wait and can be placed, the first in the order of service. -/
def State.nextServed (s : State) : Option Nat :=
  (s.gangs.filter (fun p => s.wantsCore p.2 && (s.placeFor p.2).isSome)).foldl (fun (b : Option Nat) p =>
    match b.bind (Map.find s.gangs) with
    | none => some p.1
    | some q => if lexLt (s.serviceKey p.2) (s.serviceKey q) then some p.1 else b) none

/-- Remember which queue a class was served from. -/
def State.noteServed (s : State) (g : Gang) : State :=
  { s with host := { s.host with served := Map.put s.host.served (s.classOf g) (s.queueOf g) } }

/-- The requests for a gang have been served: nothing is kept for it; a core that has nothing left to drain is done (spec 11,
R313). -/
def State.requestServed (s : State) (g : Gang) : State :=
  { s with cores := Map.mapv s.cores (fun _ r => match r.drain with
      | some d =>
        let d := { d with keeps := d.keeps.filter (fun k => k.lid != g.lid || k.num != g.num) }
        { r with drain := if d.waves.isEmpty && d.whole.isEmpty && d.keeps.isEmpty && !d.move then none else some d }
      | none => r) }

/-- Admit gang `gk` for the first time, or again after a kill (spec 19, R433). -/
def State.admitFirst (s : State) (gk : Nat) (g : Gang) (d c : Nat) (arc : List Nat) (twin : Option Nat) : State :=
  let s := (s.noteServed g).bindLaunch g.lid
  let s := s.updGang gk (fun g =>
    { g with st := .resident, die := d, cluster := c, twin := twin, groups := [], since := s.tick, class7 := false })
  let s := arc.zipIdx.foldl (fun (s : State) e => s.startGroup gk e.2 e.1) s
  (s.requestServed g).offerGangs g.lid

/-- Admit gang `gk` again after its phase end or its eviction. -/
def State.admitLater (s : State) (gk : Nat) (g : Gang) (d c : Nat) (arc : List Nat) (twin : Option Nat) : State :=
  let live := g.groups.filter (s.returns g)
  let s := s.noteServed g
  let s := s.updGang gk (fun g =>
    { g with st := .resident, die := d, cluster := c, twin := twin, since := s.tick, class7 := false })
  ((live.zip arc).foldl (fun (s : State) e => s.resumeGroup e.1 e.2) s).requestServed g

/-- Admit gang `gk`, if it is the one served next. -/
def State.admitGang (s : State) (gk : Nat) : State :=
  if s.nextServed = some gk then
    match Map.find s.gangs gk with
    | none => s
    | some g => match s.placeFor g with
      | none => s
      | some (d, c, arc, t) => if g.st = .waiting then s.admitFirst gk g d c arc t else s.admitLater gk g d c arc t
  else s

def execGangAdmission (gang : Nat) (s : State) : Host.Outcome State Fault Refusal :=
  .next (match Map.find s.gangs gang with
    | some g => if g.st = .phase then s else s.admitGang gang
    | none => s)

def execPhaseAdmission (gang : Nat) (s : State) : Host.Outcome State Fault Refusal :=
  .next (match Map.find s.gangs gang with
    | some g => if g.st = .phase then s.admitGang gang else s
    | none => s)

/-- The group on a core whose `ALLOT` has waited 2,048 cycles and has not been counted: `aux` of such a wait is the tick
of its arrival and, once counted, a 1. -/
def State.throttleNew (s : State) (c : Nat) : Option Nat :=
  Map.firstKey s.groups (fun k g => g.core == c && (g.st == .resident || g.st == .spilled) && s.allAt k isAllot
    && decide (2048 ≤ s.allotWait k) && !(s.waitingAt k isAllot).any (fun e => match e.2.st with
      | .wait wt => wt.aux.length == 2
      | _ => false))

/-- The throttle engages on a core where an `ALLOT` has waited 2,048 cycles (spec 11, R308; spec 17, R391). It holds while
the wait lasts; the event counts it, once for each wait. -/
def execAdmissionThrottle (core : Nat) (s : State) : Host.Outcome State Fault Refusal :=
  .next (match s.throttleNew core with
    | none => s
    | some k => { s with waves := Map.mapv s.waves (fun _ v => if v.gid = k then
        { v with frags := v.frags.map (fun f => match f.st with
          | .wait wt => if isAllot wt.instr then { f with st := .wait { wt with aux := [wt.aux.headD 0, 1] } } else f
          | _ => f) }
        else v) : State }.count 0x0FD)

end Sys2Proof.Machine
end

