-- ==== Sys2Proof/Machine/Barrier.lean ====
section
/-!
DEFINITION. Barriers (spec 08, R206, R207; spec 17, R402; spec 18, R410) and the wait on the outstanding counters (spec
08, R208).
-/

namespace Sys2Proof.Machine

/-! ### Barriers -/

/-- A barrier instruction on barrier `id`. -/
def isBarrier (id : Nat) : Instr → Bool
  | .bar a => a.id.val == id
  | .barx a => a.id.val == id
  | _ => false

/-- The threads that have arrived at barrier `id` of a group. -/
def State.arrivedAt (s : State) (gid id : Nat) : Nat := (s.threadsIn (s.waitingAt gid (isBarrier id))).length

/-- What one arrival names: count, whether `BARX`, paths, phase flag. -/
structure BarForm where
  id : Nat
  count : Option Nat
  barx : Bool
  paths : BitVec 5
  ph : Bool
deriving DecidableEq, Repr

/-- The causes of an arrival (spec 18, R410): `cur` is the pending instance, `live` the group's live threads. -/
def BarForm.causes (b : BarForm) (cur : Option Bar) (live depth : Nat) : List Nat :=
  (match b.count with
   | some n => (if live < n then [0x0C1] else []) ++ (if b.ph then [0x0C2] else [])
       ++ (if n = 0 ∨ 1024 < n then [0x0C3] else [])
   | none => [])
  ++ (match cur with
      | none => []
      | some c =>
        (if c.count ≠ b.count then [0x0C0] else [])
          ++ (if c.barx ∧ b.barx ∧ c.paths ≠ b.paths then [0x0C4] else [])
          ++ (if c.ph ≠ b.ph then [0x0C5] else []) ++ (if c.barx ≠ b.barx then [0x0C6] else [])
          ++ (if c.depth < depth then [0x0C7] else []))

/-- When a barrier holds an entry that can be spilled, the order in which it is chosen, least first: entries of absent
groups, then of resident groups with no arrival in the last 256 cycles, then the rest; in each the one whose latest
arrival is oldest (spec 17, R402). -/
def State.spillKey (s : State) (e : Nat × Nat) : Nat × Nat :=
  match Map.find s.groups e.1 with
  | none => (0, 0)
  | some g =>
    let last := ((Map.find g.bars e.2).map (·.last)).getD 0
    (if g.st != .resident then 0 else if last + 256 ≤ s.tick then 1 else 2, last)

/-- The index of the entry to spill. -/
def State.spillIndex (s : State) (l : List (Nat × Nat)) : Nat :=
  (List.range l.length).foldl (fun m i => match l[i]?, l[m]? with
    | some a, some b =>
      let ka := s.spillKey a
      let kb := s.spillKey b
      if ka.1 < kb.1 || ka.1 == kb.1 && ka.2 < kb.2 then i else m
    | _, _ => m) 0

/-- Bytes that a group has in the context save pool: evicted threads, a saved engine, spilled barrier entries, and a twin's
scratchpad pages (spec 11, R314; spec 17, R402; spec 19, R447). -/
def State.savedBytes (s : State) (gid : Nat) (g : Group) : Nat :=
  let spilled := (g.bars.filter (fun b => !(s.core g.core).btab.contains (gid, b.1) && s.arrivedAt gid b.1 != 0)).length
  Config.saveBytes 0 * s.offCore gid + (if g.savedEng.isSome then Config.saveBytes 1 else 0)
    + Config.saveBytes 2 * spilled + (if lrPaired (s.recOf g) then 4096 * g.scrPages else 0)

/-- Whether the context save pool of the die of core `c` has room for one more barrier entry (spec 13, CSPSIZE). -/
def State.poolRoom (s : State) (c : Nat) : Bool :=
  s.groups.foldl (fun n p => if dieOf p.2.core = dieOf c then n + s.savedBytes p.1 p.2 else n) 0 + Config.saveBytes 2
    ≤ s.host.cspSize.toNat

/-- Whether an arrival at barrier `id` of group `gid` on core `c` meets an exhausted pool: the table is full, the barrier holds
no entry, and no entry can be spilled (spec 17, R402). -/
def State.poolGone (s : State) (c gid id : Nat) : Bool :=
  let t := (s.core c).btab
  !t.contains (gid, id) && 64 ≤ t.length && !s.poolRoom c

/-- Barrier `id` of group `gid` takes an entry of core `c`'s barrier register table: one entry is spilled when the 64 are
full, and a barrier spilled before is refilled (spec 08, R207; spec 17, R402). -/
def State.barEntry (s : State) (c gid id : Nat) (known : Bool) : State :=
  let t := (s.core c).btab
  if t.contains (gid, id) then s
  else
    let s := if known then s.count 0x0FA else s
    let full := 64 ≤ t.length
    let s := if full then s.count 0x0F9 else s
    let t := if full then t.eraseIdx (s.spillIndex t) else t
    s.updCore c (fun r => { r with btab := t ++ [(gid, id)] })

/-- The departing lanes of one wave: those that leave at one PC issue again as one fragment (spec 02, R27). -/
def departFrags (id : Nat) (fs : List Frag) : List Frag :=
  let (go, stay) := fs.partition (Frag.waitsAt (isBarrier id))
  let ends := go.flatMap (fun f => (lanesOf f.mask).map (fun l => (l, f.pc + 8)))
  let sorted := (List.range 32).filterMap (fun l => ends.find? (fun e => e.1 == l))
  stay ++ readyFrags false (groupByPc sorted)

/-- Barrier `id` of group `gid` completes: every arrived thread departs, and with the phase flag the group's phase ends. -/
def State.completeBar (s : State) (gid id : Nat) (ph : Bool) : State :=
  match Map.find s.groups gid with
  | none => s
  | some g =>
    match (if ph then s.phaseCause gid g else none) with
    | some c => s.abandonPhase gid (isBarrier id) c
    | none =>
      let s := { s with waves := Map.mapv s.waves (fun _ v =>
        if v.gid = gid then { v with frags := departFrags id v.frags } else v) }
      if ph then s.endPhase gid .queued else s

/-- Whether the count of a pending instance has been reached. -/
def State.barReady (s : State) (gid id : Nat) (b : Bar) : Bool :=
  let n := s.arrivedAt gid id
  0 < n && (match b.count with | some c => c ≤ n | none => (s.groupTids gid).length ≤ n)

/-- An arrival of the issuing fragment at a barrier (R206, R410). The count is that of its lowest active lane; where no lane
has a true guard, that of its lowest lane: the spec names no other (log 62). -/
def barBody (f : Iss → Wave → Thread → BarForm) (x : Iss) (s : State) : State :=
  match (lowLane (if x.on = 0 then x.fr.mask else x.on)).bind (fun l => s.laneThread x.w l) with
  | none => s.advance x
  | some t =>
    let b := f x x.v t
    let old := Map.find x.g.bars b.id
    let pending := if s.arrivedAt x.gid b.id = 0 then none else old
    match minCode (b.causes pending (s.groupTids x.gid).length x.g.gates.length) with
    | some c => s.faultLanes x x.fr.mask c
    | none =>
      if s.poolGone x.g.core x.gid b.id then s.killGroup x.gid { cause := 0x0FE } else
      let bar : Bar := match pending with
        | some c => { c with last := s.tick }
        | none => { count := b.count, barx := b.barx, paths := b.paths, ph := b.ph, depth := x.g.gates.length,
                    last := s.tick }
      let s := s.barEntry x.g.core x.gid b.id old.isSome
      let s := s.updGroup x.gid (fun g => { g with bars := Map.put g.bars b.id bar })
      let s := s.arrive x []
      if s.barReady x.gid b.id bar then s.completeBar x.gid b.id bar.ph else s

/-- The count an arrival names: every live thread for `gz`. -/
def barCount (o : Opnd) (v : Wave) (t : Thread) : Option Nat :=
  if o = .z then none else some (opRead o v t).toNat

def execBar (a : BarArgs) (s : State) : Host.Outcome State Fault Refusal :=
  issue (.bar a) (barBody (fun _ v t =>
    { id := a.id.val, count := barCount a.cnt v t, barx := false, paths := 1, ph := a.ph })) s

def execBarx (a : BarxArgs) (s : State) : Host.Outcome State Fault Refusal :=
  issue (.barx a) (barBody (fun _ v t =>
    { id := a.id.val, count := barCount a.cnt v t, barx := true, paths := a.paths, ph := a.ph })) s

/-- After an exit, each pending barrier of the group (spec 08, R206; spec 18, R410): one for every live thread may now be
complete; one with a count above the live threads is reset, and its threads take 0x0C1. -/
def State.checkBars (s : State) (gid : Nat) : State :=
  (List.range 16).foldl (fun (s : State) id =>
    match (Map.find s.groups gid).bind (fun g => Map.find g.bars id) with
    | none => s
    | some b =>
      if s.arrivedAt gid id = 0 then s
      else match b.count with
        | none => if s.barReady gid id b then s.completeBar gid id b.ph else s
        | some n => if (s.groupTids gid).length < n then s.abandonAt gid (isBarrier id) 0x0C1 else s) s

/-! ### `WAITC` (R208) -/

/-- Whether a thread's counters are at or below the values named. -/
def waitcMet (a : WaitcArgs) (t : Thread) : Bool :=
  t.nLd ≤ a.nld.val && t.nSt ≤ a.nst.val && t.nCp ≤ a.ncp.val && t.nTl ≤ a.ntl.val

def execWaitc (a : WaitcArgs) (s : State) : Host.Outcome State Fault Refusal :=
  issue (.waitc a) (fun x s => s.finish x (some { instr := x.i, on := x.on, vals := [], aux := [] })
    ((lanesOf x.fr.mask).map (fun l => (l,
      if x.on.getLsbD l && !((s.laneThread x.w l).map (waitcMet a)).getD true then LaneEnd.wait else .go x.next)))) s

/-- The lanes of a fragment that waits at `WAITC` whose counters are now low enough. -/
def State.waitcNow (s : State) (w : Nat) (fr : Frag) : Mask :=
  match fr.st with
  | .wait wt => match wt.instr with
    | .waitc a => maskOf ((lanesOf fr.mask).filter (fun l => ((s.laneThread w l).map (waitcMet a)).getD true))
    | _ => 0
  | _ => 0

/-- Satisfied lanes of a waiting fragment continue as their own fragment. -/
def State.releaseLanes (s : State) (w f : Nat) (fr : Frag) (m : Mask) : State :=
  if m = 0 then s
  else s.spliceFrag w f ([{ mask := m, pc := fr.pc + 8, st := .ready, hnd := fr.hnd }]
    ++ (if fr.mask &&& ~~~m = 0 then [] else [fr.without m]))

def execWaitcSatisfied (wave frag : Nat) (s : State) : Host.Outcome State Fault Refusal :=
  .next (match s.frag wave frag with
    | none => s
    | some fr => s.releaseLanes wave frag fr (s.waitcNow wave fr))

end Sys2Proof.Machine
end

