-- ==== Sys2Proof/Machine/Gate.lean ====
section
/-!
DEFINITION. Gate calls (spec 02, R46, R47; spec 08, R228 to R230; spec 18, R418 to R421) and non-pre-emptible regions
(spec 08, R231).
-/

namespace Sys2Proof.Machine

/-! ### Memory of the callee -/

/-- Write zeros over `n` bytes in `k` pages from virtual address `va` of a context; false where a page does not
translate to memory. -/
def State.zeroPages (s : State) (c : Ctx) (va n : Nat) : Nat → Bool × State
  | 0 => (true, s)
  | k + 1 =>
    match s.translate c va .write with
    | (.error _, s) => (false, s)
    | (.ok t, s) =>
      let m := min n (4096 - va % 4096)
      if s.paKind t.pa != .mem then (false, s)
      else (s.writeMem none [(t.pa, List.replicate m 0)]).zeroPages c (va + m) (n - m) k

/-- Write zeros over `n` bytes at virtual address `va` of a context. -/
def State.zeroVirt (s : State) (c : Ctx) (va n : Nat) : Bool × State :=
  if n = 0 then (true, s) else s.zeroPages c va n (pagesOf va n)

/-! ### The call (R229) -/

/-- The record that covers the callee's stack area (spec 03, R67): ESIZE 0, STRIDE 0, STRICT 1. -/
def stackRec (base size : Nat) : W128 := BitVec.ofNat 128 (base % 2 ^ 57 + size % 2 ^ 32 * 2 ^ 64 + 2 ^ 127)

/-- A requesting thread enters the callee in call `key`: a fresh allotment with the arguments ARGMASK passes (R46, R229). -/
def Thread.enterCall (t : Thread) (key argmask : Nat) : Thread :=
  { t with
    call := key
    regs := t.regs.filter (fun p => p.1 < 8 && argmask.testBit p.1)
    saved := [], preds := 0, chain := [], pend := [], fences := t.fences, nLd := 0, nSt := 0, nCp := 0, nTl := 0
    drew := []
    outer := { call := t.call, regs := t.regs, saved := t.saved, preds := t.preds, chain := t.chain, pend := t.pend, fences := [],
               nLd := t.nLd, nSt := t.nSt, nCp := t.nCp, nTl := t.nTl, drew := t.drew } :: t.outer }

/-- The fragments of a wave after the call: requesting lanes at the entry, the other arrived lanes still waiting. -/
def callFrags (pc entry : VA) (depth : Nat) (fs : List Frag) : List Frag :=
  fs.flatMap (fun f => match f.st with
    | .wait wt =>
      if isGcall wt.instr && f.pc == pc && wt.aux.take 2 == [0, depth] then
        let on := wt.on &&& f.mask
        (if on = 0 then [] else [{ f with mask := on, pc := entry, st := .ready }])
          ++ (if f.mask &&& ~~~on = 0 then [] else
              [{ f with mask := f.mask &&& ~~~on, st := .wait { wt with on := 0, aux := [1] } }])
      else [f]
    | _ => [f])

/-- Whether the callee's registers can be had now, in admission order with every group of the core that waits for registers
(R47). -/
def State.calleeFits (s : State) (g : Group) (n : Nat) : Bool := s.regsFit g n && !s.olderWaits g

/-- The arrived lanes at `pc` go on at PC + 8. -/
def State.callersGo (s : State) (l : List (Nat × Frag)) (pc : VA) : State :=
  l.foldl (fun (s : State) e => s.updWave e.1 (fun v =>
    { v with frags := v.frags.map (fun f => if f == e.2 then { f with st := .ready, pc := pc + 8 } else f) })) s

/-- The requesting lanes take a cause; the others go on at PC + 8 (R418). -/
def State.callFails (s : State) (l : List (Nat × Frag)) (pc : VA) (code : Nat) : State :=
  (l.map Prod.fst).eraseDups.foldl (fun (s : State) w =>
    let fs := l.filter (fun e => e.1 == w)
    let on := fs.foldl (fun m e => m ||| e.2.waitOn) 0
    let word := fs.head?.bind (fun e => match e.2.st with | .wait wt => encode wt.instr | _ => none)
    let s := s.updWave w (fun v =>
      { v with frags := (v.frags.map (fun f => if fs.any (fun e => e.2 == f) then
          (if f.mask &&& ~~~f.waitOn = 0 then f else { f with mask := f.mask &&& ~~~f.waitOn, st := .ready, pc := pc + 8 })
          else f)) })
    s.lateCause w on false pc code 0 word) s

/-- The service-lost result (R419): all ones in g0 to g3 of each requesting thread, and the host is told under 0x125. -/
def State.serviceLost (s : State) (gid : Nat) (g : Group) (l : List (Nat × Frag)) (pc : VA) : State :=
  let s := l.foldl (fun (s : State) e => s.mapLanes e.1 e.2.waitOn (fun _ t =>
    [0, 1, 2, 3].foldl (fun t i => t.setReg i (BitVec.allOnes 32)) t)) s
  let ln := s.launchOf g
  let s := s.hostReport
    { cause := 0x125, func := g.func, pasid := g.pasid, domain := g.domain, core := g.core,
      lrec := (ln.map (·.lrec)).getD 0, gang := ((Map.find s.gangs g.gang).map (·.num)).getD 0,
      queue := (ln.map (·.queue)).getD 0, etag := (ln.map (·.etag)).getD 0 }
  let _ := gid
  s.callersGo l pc

/-- Switch the group into the callee: frame, registers, records, address space and domain. Threads of the group that stand
in a bin or bucket are held outside it until the return (R232). -/
def State.enterCallee (s : State) (gid : Nat) (g : Group) (w : Nat → Nat) (l : List (Nat × Frag)) (pc : VA)
    (base idx : Nat) : State :=
  let depth := g.gates.length
  let req := l.flatMap (fun e => s.tidsOf e.1 e.2.waitOn)
  let others := (s.threadsIn l).filter (fun t => !req.contains t)
  let fr : GateFrame :=
    { bufs := g.bufs, pc := pc + 8, pasid := g.pasid, domain := g.domain, hvec := g.hvec, full := g.full,
      budget := g.budget, resmask := bits (w 2) 11 8, stkz := (w 2).testBit 12, stack := bits (w 3) 56 0,
      stacksz := bits (w 4) 31 0, frames := base, framesVa := bits (w 5) 56 0, index := idx, callee := bits (w 1) 63 52, requesters := req,
      others := others }
  let s := req.foldl (fun (s : State) t => s.fence t allPaths allStreams false) s
  let entry := vaOf (bits (w 0) 56 0)
  let held := (s.groupTids gid).filter (fun k => !req.contains k && !others.contains k)
  let heldBuckets := nonEmpty ((s.core g.core).buckets.map (fun b => b.part held.contains))
  let s := s.unfile held
  { s with
    nextKey := s.nextKey + 1
    mem := { s.mem with gframes := s.mem.gframes ++ [(base, idx)] }
    threads := Map.mapv s.threads (fun k t =>
      if req.contains k then t.enterCall s.nextKey (bits (w 2) 7 0)
      else if t.gid = gid && !others.contains k then { t with held := true }
      else t)
    waves := Map.mapv s.waves (fun _ v =>
      if v.gid = gid then { v with frags := callFrags pc entry depth v.frags, wr := [], kr := [] } else v)
    groups := Map.upd s.groups gid (fun g =>
      { g with bufs := Map.putD [] 0 0 (stackRec fr.stack fr.stacksz), pasid := bits (w 1) 51 32,
               domain := fr.callee, hvec := 0, full := true, budget := 8 * bits (w 1) 5 0, gates := fr :: g.gates,
               savedBuckets := g.savedBuckets ++ heldBuckets }) }

/-- The call at `pc`, if its count has been reached: it waits while a register that it passes is pending, while no frame or no
registers are free, and while the group is not on its core (spec 02, R48; spec 08, R205). -/
def State.tryCall (s : State) (gid : Nat) (pc : VA) : State :=
  match Map.find s.groups gid with
  | none => s
  | some g =>
    let l := s.callers gid g.gates.length pc
    match l.head?.bind (fun e => match e.2.st with | .wait wt => some wt | _ => none) with
    | none => s
    | some wt =>
      let n := wt.aux.getD 2 0
      if g.st != .resident then s
      else if (s.groupTids gid).length < n then s.abandonAt gid (fun i => i == wt.instr) 0x127
      else if !s.callComplete gid l n then s
      else
        match wt.instr with
        | .gcall a =>
          let w := s.gateWord g.func a.gate.val
          let req := l.flatMap (fun e => s.tidsOf e.1 e.2.waitOn)
          if req.isEmpty then s.callersGo l pc
          else
            match g.gateClosed w with
            | some c => s.callFails l pc c
            | none =>
              if (w 0).testBit 62 then s.serviceLost gid g l pc
              else match s.gateRefusal g w req.length with
                | some c => s.callFails l pc c
                | none =>
                  if s.copiesPending req (bits (w 2) 7 0) || !s.calleeFits g (calleeRegs w req.length) then s
                  else
                    let ctx := calleeCtx g w
                    match s.touch ctx (bits (w 5) 56 0) 1 .write with
                    | (none, s) => s.callFails l pc 0x121
                    | (some base, s) =>
                      match s.freeFrame base (bits (w 6) 15 0) with
                      | none => s
                      | some i =>
                        match s.touch ctx (bits (w 5) 56 0 + i * gateFrameBytes) gateFrameBytes .write with
                        | (none, s) => s.callFails l pc 0x121
                        | (some _, s) => s.enterCallee gid g w l pc base i
        | _ => s

/-- The causes of an arrival at a `GCALL` (spec 18, R410): a count out of range, above the live threads, or other than that
of the instance, whose count `cur` is. -/
def callCodes (explicit : Bool) (n live : Nat) (cur : Option Nat) : List Nat :=
  (if explicit && (n = 0 || 1024 < n) then [0x0C3] else [])
    ++ (if explicit && live < n then [0x127] else [])
    ++ (match cur with
        | some c => if c ≠ (if explicit then n else 0) then [0x0C0] else []
        | none => [])

def execGcall (a : GcallArgs) (s : State) : Host.Outcome State Fault Refusal :=
  issue (.gcall a) (fun x s =>
    match (lowLane (if x.on = 0 then x.fr.mask else x.on)).bind (fun l => s.laneThread x.w l) with
    | none => s.advance x
    | some t =>
      let depth := x.g.gates.length
      let n := (opRead a.cnt x.v t).toNat
      let cur := (s.callers x.gid depth x.pc).head?.bind (fun e => match e.2.st with
        | .wait wt => some (wt.aux.getD 2 0)
        | _ => none)
      match minCode (callCodes (a.cnt != .z) n (s.groupTids x.gid).length cur) with
      | some c => s.faultLanes x x.fr.mask c
      | none => (s.arrive x [0, depth, if a.cnt = .z then 0 else n]).tryCall x.gid x.pc) s

/-- Every `GCALL` of the group that waits is looked at again: its frame or registers may be free, or an exit may have
completed its count. -/
def State.checkCalls (s : State) (gid : Nat) : State :=
  (((s.waitingAt gid isGcall).map (fun e => e.2.pc)).eraseDups).foldl (fun (s : State) pc => s.tryCall gid pc) s

/-! ### The return (R230) -/

/-- A `GRET`. -/
def isGret : Instr → Bool
  | .gret _ => true
  | _ => false

/-- The requesting lanes that wait at `GRET` take a cause at its address; the call goes on (R418). -/
def State.retFails (s : State) (gid code : Nat) : State := s.abandonAt gid isGret code

/-- The return, once every requesting thread waits at a `GRET` and no register that it passes back is pending (spec 08, R205). -/
def State.tryReturn (s : State) (gid : Nat) : State :=
  match Map.find s.groups gid with
  | none => s
  | some g =>
    match g.gates with
    | [] => s
    | fr :: _ =>
      if !s.gathered gid isGret || s.copiesPending (fr.requesters.filter (Map.has s.threads)) fr.resmask then s
      else
        match s.touch g.ctx (fr.framesVa + fr.index * gateFrameBytes) gateFrameBytes .read with
        | (none, s) => s.abandonAt gid isGret 0x122
        | (some _, s) =>
          if s.frameBad g fr then s.contextError gid (.service fr.callee) { cause := 0x14A }
          else match (if fr.stkz then s.zeroVirt g.ctx fr.stack fr.stacksz else (true, s)) with
          | (false, s) => s.abandonAt gid isGret 0x123
          | (true, s) =>
            let s := (fr.requesters.filter (Map.has s.threads)).foldl (fun (s : State) t =>
              s.fence t allPaths allStreams false) s
            (s.endCall gid false).checkCalls gid

def execGret (a : H0) (s : State) : Host.Outcome State Fault Refusal :=
  issue (.gret a) (fun x s =>
    if x.g.gates.isEmpty then s.faultLanes x x.on 0x120
    else
      (s.finish x (some { instr := x.i, on := x.on, vals := [], aux := [] })
        ((lanesOf x.fr.mask).map (fun l => (l, if x.on.getLsbD l then LaneEnd.wait else .go x.next)))).tryReturn
          x.gid) s

/-- A group that waits in `GCALL` or `GRET` looks again: a frame or registers may be free, or a register's value may have come. -/
def execGateFrameFree (gid : Nat) (s : State) : Host.Outcome State Fault Refusal := .next ((s.checkCalls gid).tryReturn gid)

/-! ### Non-pre-emptible regions (R231; spec 11, R317; spec 18, R417) -/

def execNopre (a : H0) (s : State) : Host.Outcome State Fault Refusal :=
  issue (.nopre a) (fun x s =>
    (s.updGroup x.gid (fun g => { g with noPre := some (g.noPre.getD (s.tick, x.w)) })).advance x) s

/-- The mark is cleared, and the run that holds the `PREON` closes, so that a request that waits for it is served (spec 11,
R317; spec 08, R232). -/
def execPreon (a : H0) (s : State) : Host.Outcome State Fault Refusal :=
  issue (.preon a) (fun x s =>
    let s := s.updGroup x.gid (fun g => { g with noPre := none })
    (if x.g.noPre.isSome then s.closeRun x.w else s).advance x) s

/-- Core cycles in 2 ms (spec 00, R3; spec 02, R52). -/
def regionLimit : Nat := 3500000

/-- A region that has reached 2 ms: the mark is cleared and 0x0F4 falls on the next instruction of the wave that issued
`NOPRE` (spec 18, R417). -/
def execRegionLimitExpiry (gid : Nat) (s : State) : Host.Outcome State Fault Refusal :=
  .next (match (Map.find s.groups gid).bind (·.noPre) with
    | none => s
    | some (start, w) =>
      if start + regionLimit ≤ s.tick then
        (s.updGroup gid (fun g => { g with noPre := none })).updWave w (fun v =>
          { v with regionCause := some (v.regionCause.getD 0x0F4) })
      else s)

end Sys2Proof.Machine
end

