-- ==== Sys2Proof/Machine/Exit.lean ====
section
/-!
DEFINITION. The ends of threads and groups (spec 07, R188; spec 02, R29, R43; spec 17, R401), `REFORM` (spec 07, R186), and
the return from a handler (spec 17, R397; spec 18, R426).
-/

namespace Sys2Proof.Machine

/-! ### Ends of threads -/

/-- Forget threads: their copies write no token, and what they wait for is not read again (R188). -/
def State.forget (s : State) (ts : List Nat) : State :=
  { s with
    threads := Map.keep s.threads (fun k _ => !ts.contains k)
    groups := Map.mapv s.groups (fun _ g => { g with stopped := g.stopped.filter (fun k => !ts.contains k) })
    cores := Map.mapv s.cores (fun _ c =>
      { c with copyq := c.copyq.map (fun q => { q with toks := q.toks.filter (fun t => !ts.contains t.1) }) })
    flights := (Map.mapv s.flights (fun _ f =>
      if isWaiteq f.instr then { f with parts := f.parts.filter (fun p => !ts.contains p.tid) } else f)).filter
        (fun p => !(isWaiteq p.2.instr && p.2.parts.isEmpty)) }

/-- The last thread of group `gid` has exited: its slots, registers, pages, barrier entries and engine are free (spec 17,
R401); the group has ended once it has no unfinished child (spec 02, R43). -/
def State.endGroup (s : State) (gid : Nat) : State :=
  match Map.find s.groups gid with
  | none => s
  | some g =>
    let s := s.updGroup gid (fun g => { g with st := .ended, noPre := none, bars := [] })
    let s := { s with cores := Map.mapv s.cores (fun _ c =>
      { c with btab := c.btab.filter (fun b => b.1 != gid),
               eng := if c.eng.owner = some gid then .init else c.eng }) }
    ((((s.dropLoads gid).flushGroup gid).freePages gid false).settlePhase g.gang).settleGangs

/-- What an exit may complete: collectives that wait for every live thread, barriers, calls; and the group, when no
thread is left. -/
def State.checkGroup (s : State) (gid : Nat) : State :=
  if (s.groupTids gid).isEmpty then s.endGroup gid
  else
    (((((((s.checkBars gid).checkAllot gid).checkAllotrel gid).checkSync gid).checkPhend gid).checkSelf gid).checkCalls
      gid)

/-- The threads in the lanes of `m` of wave `w` of group `gid` end. -/
def State.exitLanes (s : State) (w gid : Nat) (m : Mask) : State :=
  if m = 0 then s
  else
    let ts := s.tidsOf w m
    (((s.departWave w m).forget ts).joinsLost w m).checkGroup gid

def execExit (a : H0) (s : State) : Host.Outcome State Fault Refusal :=
  issue (.exit a) (fun x s =>
    if !x.g.gates.isEmpty then s.faultLanes x x.on 0x0E4
    else
      (s.finish x none ((lanesOf x.fr.mask).map (fun l => (l, if x.on.getLsbD l then LaneEnd.gone else .go x.next))))
        |>.exitLanes x.w x.gid x.on) s

/-! ### `REFORM` (R186) -/

def execReform (a : H0) (s : State) : Host.Outcome State Fault Refusal :=
  issue (.reform a) (fun x s =>
    let ts := s.tidsOf x.w x.on
    let s := s.finish x none ((lanesOf x.fr.mask).map (fun l => (l, if x.on.getLsbD l then LaneEnd.gone else .go x.next)))
    let s := (s.closeRun x.w).departWave x.w x.on
    (s.fileThreads x.g.core x.gid (ts.map (fun t => (t, x.next)))).joinsLost x.w x.on) s

/-! ### The return from a handler (spec 17, R397) -/

/-- `eret.retry` and `eret.skip`: faulting lanes resume at `sr.epc`, or after it. -/
def eretResume (skip : Bool) (x : Iss) (s : State) : State :=
  match x.v.handler with
  | none => s.faultLanes x x.on 0x01D
  | some h => (s.endHandler x.w (some (if skip then h.epc + 8 else h.epc))).checkSelf x.gid

/-- `eret.exit` and `eret.exitall`: the faulting lanes, or every lane of the wave, end; in a gate callee the calling gang
is killed with 0x124 (spec 18, R420). -/
def eretEnd (all : Bool) (x : Iss) (s : State) : State :=
  match x.v.handler with
  | none => s.faultLanes x x.on 0x01D
  | some h =>
    if !x.g.gates.isEmpty then s.killGroup x.gid { cause := 0x124 }
    else
      let m := if all then s.waveLanes x.w else h.fault
      ((s.endHandler x.w none).exitLanes x.w x.gid m).checkSelf x.gid

def execEretRetry (a : H0) (s : State) : Host.Outcome State Fault Refusal :=
  issue (.eretRetry a) (eretResume false) s

def execEretSkip (a : H0) (s : State) : Host.Outcome State Fault Refusal :=
  issue (.eretSkip a) (eretResume true) s

def execEretExit (a : H0) (s : State) : Host.Outcome State Fault Refusal :=
  issue (.eretExit a) (eretEnd false) s

def execEretExitall (a : H0) (s : State) : Host.Outcome State Fault Refusal :=
  issue (.eretExitall a) (eretEnd true) s

/-! ### Asynchronous entry (spec 17, R398) -/

/-- A cause that waits for wave `w` enters it, if the wave can take it now. -/
def execAsyncCauseEntry (wave : Nat) (s : State) : Host.Outcome State Fault Refusal :=
  .next ((s.pendingEntry wave).getD s)

end Sys2Proof.Machine
end

