-- ==== Sys2Proof/Machine/Float.lean ====
section
/-!
DEFINITION. Floating-point arithmetic (spec 05): every value as an exact dyadic number, and one rounding to a format
(R121). The approximating functions are computed in fixed point with far more bits than any rounding of an FP32 result
needs, so that the one rounding is that of the exact function (spec 09, R238; log 19).
-/

namespace Sys2Proof.Machine

/-! ### Formats (spec 05, R115) -/

/-- The floating-point formats. -/
inductive Fmt where | f32 | f16 | bf16 | e4m3 | e5m2
deriving DecidableEq, Repr

namespace Fmt

/-- Exponent bits. -/
def eb : Fmt → Nat
  | .f32 => 8
  | .f16 => 5
  | .bf16 => 8
  | .e4m3 => 4
  | .e5m2 => 5

/-- Fraction bits. -/
def fb : Fmt → Nat
  | .f32 => 23
  | .f16 => 10
  | .bf16 => 7
  | .e4m3 => 3
  | .e5m2 => 2

/-- Width in bits. -/
def width (f : Fmt) : Nat := 1 + f.eb + f.fb

def bias (f : Fmt) : Nat := 2 ^ (f.eb - 1) - 1

/-- The exponent of the last place of a subnormal. -/
def qmin (f : Fmt) : Int := 1 - (f.bias : Int) - f.fb

/-- The pattern of exponent all ones and fraction zero: +∞, but in E4M3 the value 256. -/
def top (f : Fmt) : Nat := (2 ^ f.eb - 1) * 2 ^ f.fb

/-- The pattern of the largest finite value. -/
def maxCode : Fmt → Nat
  | .e4m3 => 0x7E
  | f => f.top - 1

/-- The canonical NaN. -/
def nan : Fmt → Nat
  | .f32 => 0x7FC00000
  | .f16 => 0x7E00
  | .bf16 => 0x7FC0
  | .e4m3 => 0x7F
  | .e5m2 => 0x7E

/-- Whether the format is an FP8 format. -/
def isFp8 : Fmt → Bool
  | .e4m3 => true
  | .e5m2 => true
  | _ => false

end Fmt

/-- The type of a format A word (spec 06, R139). -/
def fmtOfTy : FTy → Fmt
  | .f32 => .f32
  | .f16 => .f16
  | .bf16 => .bf16
  | .e4m3 => .e4m3
  | .e5m2 => .e5m2

/-- The format a packed instruction names. -/
def fmtOfHTy : HTy → Fmt
  | .f16 => .f16
  | .bf16 => .bf16

/-- The floating-point format of a slot code (spec 03, R70). -/
def fmtOfSlot : Nat → Option Fmt
  | 0 => some .f32
  | 1 => some .f16
  | 2 => some .bf16
  | 3 => some .e4m3
  | 4 => some .e5m2
  | _ => none

/-! ### Exact values -/

/-- An exact real (−1)^neg · m · 2^e, an infinity, or NaN. -/
inductive FR where
  | nan
  | inf (neg : Bool)
  | fin (neg : Bool) (m : Nat) (e : Int)
deriving DecidableEq, Repr

namespace FR

/-- The value of a pattern (spec 05, R115, R116). -/
def ofBits (f : Fmt) (v : Nat) : FR :=
  let c := v % 2 ^ (f.width - 1)
  let neg := v.testBit (f.width - 1)
  let ex := c / 2 ^ f.fb
  let fr := c % 2 ^ f.fb
  if f.maxCode < c then (if f != .e4m3 && fr == 0 then .inf neg else .nan)
  else if ex = 0 then .fin neg fr f.qmin
  else .fin neg (2 ^ f.fb + fr) (f.qmin + (ex - 1 : Nat))

def isNan : FR → Bool
  | .nan => true
  | _ => false

def isZero : FR → Bool
  | .fin _ m _ => m == 0
  | _ => false

def neg : FR → FR
  | .nan => .nan
  | .inf s => .inf !s
  | .fin s m e => .fin (!s) m e

/-- The sign. -/
def sign : FR → Bool
  | .nan => false
  | .inf s => s
  | .fin s _ _ => s

/-- The exact product (spec 05, R128). -/
def mul : FR → FR → FR
  | .nan, _ => .nan
  | _, .nan => .nan
  | .inf s, .inf t => .inf (s != t)
  | .inf s, .fin t m _ => if m = 0 then .nan else .inf (s != t)
  | .fin s m _, .inf t => if m = 0 then .nan else .inf (s != t)
  | .fin s m e, .fin t n d => .fin (s != t) (m * n) (e + d)

/-- The integer value in units of 2^q, for a finite value whose exponent is at least `q`. -/
def units (q : Int) : FR → Int
  | .fin s m e => (if s then -1 else 1) * (m * 2 ^ (e - q).toNat : Nat)
  | _ => 0

/-- The least exponent of the non-zero finite values of a list. -/
def minExp (l : List FR) : Option Int :=
  l.foldl (fun a x => match x with
    | .fin _ m e => if m = 0 then a else (match a with | none => some e | some b => some (min e b))
    | _ => a) none

/-- The exact sum (spec 05, R128): NaN, then infinities, then the exact real; a zero sum is −0 only when every operand
is −0. -/
def sum (l : List FR) : FR :=
  if l.any isNan || (l.any (· == .inf true) && l.any (· == .inf false)) then .nan
  else if l.any (· == .inf true) then .inf true
  else if l.any (· == .inf false) then .inf false
  else
    match minExp l with
    | none => .fin (l.all (fun x => x.sign)) 0 0
    | some q =>
      let t := l.foldl (fun a x => if x.isZero then a else a + x.units q) 0
      if t = 0 then .fin false 0 0 else .fin (decide (t < 0)) t.natAbs q

def add (a b : FR) : FR := sum [a, b]

def sub (a b : FR) : FR := add a b.neg

/-- How many bits a quotient or root carries beyond its operands, with a last bit that says whether it is inexact. -/
def guard : Nat := 96

/-- A quotient (spec 09, R235): exact, or with its last bit standing for the inexact rest. -/
def div : FR → FR → FR
  | .nan, _ => .nan
  | _, .nan => .nan
  | .inf _, .inf _ => .nan
  | .inf s, .fin t _ _ => .inf (s != t)
  | .fin s _ _, .inf t => .fin (s != t) 0 0
  | .fin s m e, .fin t n d =>
    if n = 0 then (if m = 0 then .nan else .inf (s != t))
    else
      let k := guard + Nat.log2 n
      .fin (s != t) (2 * (m * 2 ^ k / n) + b2n (m * 2 ^ k % n != 0)) (e - d - k - 1)

/-- The integer square root, bit by bit from bit `i` down. -/
def isqrtFrom (n r : Nat) : Nat → Nat
  | 0 => if (r + 1) * (r + 1) ≤ n then r + 1 else r
  | i + 1 =>
    let c := r + 2 ^ (i + 1)
    isqrtFrom n (if c * c ≤ n then c else r) i

/-- The integer square root. -/
def isqrt (n : Nat) : Nat := isqrtFrom n 0 (Nat.log2 n / 2 + 1)

/-- A square root (spec 09, R235). -/
def sqrt : FR → FR
  | .nan => .nan
  | .inf s => if s then .nan else .inf false
  | .fin s m e =>
    if m = 0 then .fin s 0 0
    else if s then .nan
    else
      let p := m * (if e % 2 = 0 then 1 else 2) * 2 ^ (2 * guard)
      let r := isqrt p
      .fin false (2 * r + b2n (r * r != p)) (e / 2 - guard - 1)

/-- The reciprocal square root (spec 09, R238). -/
def rsqrt : FR → FR
  | .nan => .nan
  | .inf s => if s then .nan else .fin false 0 0
  | .fin s m e =>
    if m = 0 then .inf s
    else if s then .nan
    else
      let n := m * (if e % 2 = 0 then 1 else 2)
      let k := guard + Nat.log2 n
      let r := isqrt (2 ^ (2 * k) / n)
      .fin false (2 * r + b2n (r * r * n != 2 ^ (2 * k))) (-(e / 2) - k - 1)

end FR

/-! ### Rounding (spec 05, R120, R121) -/

/-- m ÷ 2^d rounded to an integer magnitude by a mode, for a value of the given sign. -/
def roundMag (mode : Rnd) (neg : Bool) (m d : Nat) : Nat :=
  if d = 0 then m
  else if Nat.log2 m + 1 < d then
    (if m = 0 then 0 else match mode with
      | .rup => if neg then 0 else 1
      | .rdn => if neg then 1 else 0
      | _ => 0)
  else
    let q := m / 2 ^ d
    let r := m % 2 ^ d
    if r = 0 then q
    else match mode with
      | .rne => if 2 * r < 2 ^ d then q else if 2 * r = 2 ^ d then q + q % 2 else q + 1
      | .rtz => q
      | .rdn => if neg then q + 1 else q
      | .rup => if neg then q else q + 1

/-- Whether a mode rounds an overflow away from zero. -/
def awayOverflow (mode : Rnd) (neg : Bool) : Bool :=
  match mode with
  | .rne => true
  | .rup => !neg
  | .rdn => neg
  | .rtz => false

/-- RoundToFormat: the pattern of an exact value in a format. -/
def roundTo (f : Fmt) (mode : Rnd) (sat : Bool) (x : FR) : Nat :=
  let sgn (neg : Bool) (c : Nat) : Nat := b2n neg * 2 ^ (f.width - 1) + c
  match x with
  | .nan => f.nan
  | .inf s => if f.isFp8 && sat then sgn s f.maxCode else if f == .e4m3 then f.nan else sgn s f.top
  | .fin s m e =>
    if m = 0 then sgn s 0
    else
      let q := max (e + Nat.log2 m - f.fb) f.qmin
      let n := if q ≤ e then m * 2 ^ (e - q).toNat else roundMag mode s m (q - e).toNat
      if q - f.qmin ≤ 2 ^ f.eb && (q - f.qmin).toNat * 2 ^ f.fb + n ≤ f.maxCode then
        sgn s ((q - f.qmin).toNat * 2 ^ f.fb + n)
      else if f.isFp8 && sat then sgn s f.maxCode
      else if awayOverflow mode s then (if f == .e4m3 then f.nan else sgn s f.top)
      else sgn s f.maxCode

/-- The FP32 pattern of an exact value, rounded by RNE. -/
def toF32 (x : FR) : W32 := BitVec.ofNat 32 (roundTo .f32 .rne false x)

/-- The exact value of an FP32 pattern. -/
def ofF32 (v : W32) : FR := FR.ofBits .f32 v.toNat

/-- A value rounded to an integer by a mode and clamped to a range; NaN gives 0 (spec 05, R124). -/
def toIntClamp (mode : Rnd) (lo hi : Int) : FR → Int
  | .nan => 0
  | .inf s => if s then lo else hi
  | .fin s m e =>
    let n : Nat := if 0 ≤ e then (if 64 < e then (if m = 0 then 0 else 2 ^ 64) else m * 2 ^ e.toNat)
      else roundMag mode s m (-e).toNat
    max lo (min hi (if s then -(n : Int) else n))

/-- An integer as an exact value. -/
def ofInt (x : Int) : FR := .fin (decide (x < 0)) x.natAbs 0

/-! ### Minimum, maximum, comparison (spec 09, R236, R237) -/

/-- The order of FP32 patterns that are not NaN, −0 below +0. -/
def f32Key (v : W32) : Int := if v.getLsbD 31 then -1 - (v.toNat % 2 ^ 31 : Nat) else v.toNat

/-- Whether an FP32 pattern is NaN. -/
def f32Nan (v : W32) : Bool := 0x7F800000 < v.toNat % 2 ^ 31

/-- `FMIN`. -/
def fminBits (a b : W32) : W32 :=
  if f32Nan a then (if f32Nan b then 0x7FC00000 else b)
  else if f32Nan b then a
  else if f32Key a ≤ f32Key b then a else b

/-- `FMAX`. -/
def fmaxBits (a b : W32) : W32 :=
  if f32Nan a then (if f32Nan b then 0x7FC00000 else b)
  else if f32Nan b then a
  else if f32Key a ≤ f32Key b then b else a

/-- The sum of two FP32 patterns. -/
def faddBits (a b : W32) : W32 := toF32 (FR.add (ofF32 a) (ofF32 b))

/-- The order of FP32 values that are not NaN, −0 equal to +0. -/
def f32Ord (v : W32) : Int := if v.getLsbD 31 then -((v.toNat % 2 ^ 31 : Nat) : Int) else v.toNat

/-- A condition of `FCMP`. -/
def fccHolds (c : FCc) (a b : W32) : Bool :=
  let u := f32Nan a || f32Nan b
  let x := f32Ord a
  let y := f32Ord b
  match c with
  | .eq => !u && x == y
  | .ne => u || x != y
  | .lt => !u && x < y
  | .le => !u && x ≤ y
  | .gt => !u && y < x
  | .ge => !u && y ≤ x
  | .ord => !u
  | .uno => u

/-- The class of a pattern (spec 09, R239), as the one bit set. -/
def classOf (f : Fmt) (v : Nat) : Nat :=
  let c := v % 2 ^ (f.width - 1)
  let neg := v.testBit (f.width - 1)
  match FR.ofBits f v with
  | .nan => 2 ^ 8
  | .inf s => if s then 2 ^ 0 else 2 ^ 7
  | .fin _ m _ =>
    if m = 0 then (if neg then 2 ^ 3 else 2 ^ 4)
    else if c < 2 ^ f.fb then (if neg then 2 ^ 2 else 2 ^ 5)
    else (if neg then 2 ^ 1 else 2 ^ 6)

/-! ### The approximating functions (spec 09, R238) -/

/-- Bits of the fixed-point fraction of exponentials and logarithms. -/
def expBits : Nat := 256

/-- ln 2 · 2^256. -/
def ln2Fix : Nat := 0xb17217f7d1cf79abc9e3b39803f2f6af40f343267298b62d8a0d175b8baafa2b

/-- Σ y^k / k! from term `t` of index `k`, for `n` terms. -/
def expSum (y t k : Nat) : Nat → Nat
  | 0 => 0
  | n + 1 => t + expSum y (t * y / 2 ^ expBits / (k + 1)) (k + 1) n

/-- An inexact magnitude `v` · 2^e: its last bit stands for the rest. -/
def inexact (neg : Bool) (v : Nat) (e : Int) : FR := .fin neg (2 * v + 1) (e - 1)

/-- 2^x. -/
def exp2R : FR → FR
  | .nan => .nan
  | .inf s => if s then .fin false 0 0 else .inf false
  | .fin s m e =>
    if 0 ≤ e then
      (if m = 0 then .fin false 1 0
       else if 64 < e then .fin false 1 (if s then -(2 ^ 64 : Nat) else (2 ^ 64 : Nat))
       else .fin false 1 ((if s then -1 else 1) * (m * 2 ^ e.toNat : Nat)))
    else
      let d := (-e).toNat
      let x : Int := if s then -(m : Int) else m
      let n := x / (2 ^ d : Nat)
      let fr := (x % (2 ^ d : Nat)).toNat
      if fr = 0 then .fin false 1 n
      else
        let y := fr * 2 ^ expBits / 2 ^ d * ln2Fix / 2 ^ expBits
        inexact false (expSum y (2 ^ expBits) 0 64) (n - expBits)

/-- Σ z^(2k+1) / (2k+1) from power `p` of index `k`, for `n` terms. -/
def atanhSum (z2 p k : Nat) : Nat → Nat
  | 0 => 0
  | n + 1 => p / (2 * k + 1) + atanhSum z2 (p * z2 / 2 ^ expBits) (k + 1) n

/-- log2 x. -/
def log2R : FR → FR
  | .nan => .nan
  | .inf s => if s then .nan else .inf false
  | .fin s m e =>
    if m = 0 then .inf true
    else if s then .nan
    else
      let l := Nat.log2 m
      let ex : Int := e + l
      if m = 2 ^ l then ofInt ex
      else
        let z := (m - 2 ^ l) * 2 ^ expBits / (m + 2 ^ l)
        let ln := 2 * atanhSum (z * z / 2 ^ expBits) z 0 90
        let v := ex * (2 ^ expBits : Nat) + (ln * 2 ^ expBits / ln2Fix : Nat)
        inexact (decide (v < 0)) v.natAbs (-(expBits : Int))

/-- Bits of the fixed-point fraction of the trigonometric functions. -/
def trigBits : Nat := 400

/-- 2π · 2^400. -/
def twoPiFix : Nat := 0x6487ed5110b4611a62633145c06e0e68948127044533e63a0105df531d89cd9128a5043cc71a026ef7ca8cd9e69d218d98158

/-- The alternating series of sine (from `t` = y, `k` = 1) or cosine (from `t` = 1, `k` = 0), for `n` terms. -/
def trigSum (y2 t k : Nat) : Nat → Int
  | 0 => 0
  | n + 1 => (t : Int) - trigSum y2 (t * y2 / 2 ^ trigBits / ((k + 1) * (k + 2))) (k + 2) n

/-- The magnitude of sin (2π r) for r = fr / 2^d below a quarter turn. -/
def sinFix (fr d : Nat) : Nat :=
  let y := fr * twoPiFix / 2 ^ d
  (trigSum (y * y / 2 ^ trigBits) y 1 60).toNat

/-- The magnitude of cos (2π r) for r below a quarter turn. -/
def cosFix (fr d : Nat) : Nat :=
  let y := fr * twoPiFix / 2 ^ d
  (trigSum (y * y / 2 ^ trigBits) (2 ^ trigBits) 0 60).toNat

/-- sin (2π f) for a fraction f = fr / 2^d of a turn, 2 ≤ d: quadrant by quadrant, exact at the quarters. -/
def sinTurn (fr d : Nat) : FR :=
  let q := fr / 2 ^ (d - 2)
  let r := fr % 2 ^ (d - 2)
  if r = 0 then (match q with
    | 1 => .fin false 1 0
    | 3 => .fin true 1 0
    | _ => .fin false 0 0)
  else inexact (2 ≤ q) (if q % 2 = 0 then sinFix r d else cosFix r d) (-(trigBits : Int))

/-- The fraction of a turn of a magnitude, as a numerator over 2^d with 2 ≤ d. -/
def turnOf (m : Nat) (e : Int) : Nat × Nat :=
  if 0 ≤ e then (0, 2)
  else
    let d := (-e).toNat
    if d = 1 then (2 * (m % 2), 2) else (m % 2 ^ d, d)

/-- sin (2π x): −0 gives −0, and every other zero result is +0. -/
def sinR : FR → FR
  | .nan => .nan
  | .inf _ => .nan
  | .fin s m e =>
    if m = 0 then .fin s 0 0
    else
      let p := turnOf m e
      let v := sinTurn p.1 p.2
      if s && !v.isZero then v.neg else v

/-- cos (2π x) = sin (2π (x + 1/4)) of the magnitude. -/
def cosR : FR → FR
  | .nan => .nan
  | .inf _ => .nan
  | .fin _ m e =>
    let p := turnOf m e
    sinTurn ((p.1 + 2 ^ (p.2 - 2)) % 2 ^ p.2) p.2

end Sys2Proof.Machine
end

