-- ==== Sys2Proof/Machine/LoadStore.lean ====
section
/-!
DEFINITION. The issue of loads, stores, atomics, acquires and releases (spec 08, R196 to R204, R214; spec 18, R411,
R412). An issued access is in flight until it is performed, by `MEMORY_RESPONSE` or `STORE_PERFORMED`.
-/

namespace Sys2Proof.Machine

/-! ### The shared body -/

/-- The parts of the lanes that take part, each with `n` bytes at its place and its data. -/
def State.partsOf (s : State) (x : Iss) (fs : List (Nat × Formed)) (n : Nat) (data : Thread → List Byte) : List Part :=
  fs.filterMap (fun p =>
    if !p.2.takesPart then none
    else match s.laneTid x.w p.1, s.laneThread x.w p.1 with
      | some k, some t => some { tid := k, lane := p.1, loc := p.2.place, addr := p.2.address, len := n, data := data t,
                                 call := t.call }
      | _, _ => none)

/-- A per-lane access: form it in every lane with a true guard, do `k` with what was formed, and let the lanes leave; a
tag mismatch kills the gang and nothing is performed (spec 19, R429). -/
def accessBody (form : Iss → State → Nat → Thread → Formed × State) (k : Iss → List (Nat × Formed) → State → State)
    (x : Iss) (s : State) : State :=
  let p := s.formLanes x.w x.on (form x)
  match mismatchOf p.1 with
  | some (c, a) => p.2.killGroup x.gid { cause := c, addr := a }
  | none => (k x p.1 p.2).finish x none (lanesLeave x p.1)

/-- Form the access of a memory operand in a lane. -/
def formMem (m : MemOp) (sp : Space) (d n : Nat) (x : Iss) (s : State) (_ : Nat) (t : Thread) : Formed × State :=
  s.formElem x.gid x.g (x.g.buf m.brec.val) sp d (indexOf m.ix m.off.toInt x.v t) n

/-- Form the access of an atomic's memory operand in a lane. -/
def formMem8 (m : MemOp8) (sp : Space) (n : Nat) (x : Iss) (s : State) (_ : Nat) (t : Thread) : Formed × State :=
  s.formElem x.gid x.g (x.g.buf m.brec.val) sp 2 (indexOf m.ix m.off.toInt x.v t) n

/-- A load of `n` bytes to `d`. -/
def loadBody (m : MemOp) (sp : Space) (d : Opnd) (n : Nat) : Iss → State → State :=
  accessBody (formMem m sp 0 n) (fun x fs s =>
    s.launchFlight x 0 (streamMask m.str.val) (some 0) (destRegs d n) (s.partsOf x fs n (fun _ => [])) [] {})

/-- A store of `n` bytes from `d`; performed lanes enter the write signatures. -/
def storeBody (m : MemOp) (sp : Space) (d : Opnd) (n : Nat) : Iss → State → State :=
  accessBody (formMem m sp 1 n) (fun x fs s =>
    let ps := s.partsOf x fs n (opBytes d n x.v)
    (s.launchFlight x 0 (streamMask m.str.val) (some 1) [] ps [] {}).sign (opcodeOf x.i) ps)

/-! ### Loads and stores (R196 to R199) -/

def execLd (a : LdArgs) (s : State) : Host.Outcome State Fault Refusal :=
  issue (.ld a) (loadBody a.m (.virt .read) a.d (widthBytes a.width)) s

def execSt (a : StArgs) (s : State) : Host.Outcome State Fault Refusal :=
  issue (.st a) (storeBody a.m (.virt .write) a.data (widthBytes a.width)) s

def execLds (a : LdsArgs) (s : State) : Host.Outcome State Fault Refusal :=
  issue (.lds a) (loadBody a.m .scr a.d (widthBytes a.width)) s

def execSts (a : StsArgs) (s : State) : Host.Outcome State Fault Refusal :=
  issue (.sts a) (storeBody a.m .scr a.d (widthBytes a.width)) s

def execLdws (a : StsArgs) (s : State) : Host.Outcome State Fault Refusal :=
  issue (.ldws a) (loadBody a.m .ws a.d (widthBytes a.width)) s

/-- The lowest lane of `x.on`, as a mask of one lane. -/
def leadMask (x : Iss) : Mask := match lowLane x.on with
  | some l => BitVec.ofNat 32 (2 ^ l)
  | none => 0

/-- A once-per-fragment access: formed once from the lowest active lane, and the same for every lane with a true guard
(spec 08, R194). -/
def State.formOnce (s : State) (x : Iss) (f : State → Nat → Thread → Formed × State) : List (Nat × Formed) × State :=
  let p := s.formLanes x.w (leadMask x) f
  (match p.1 with
   | [] => []
   | (_, a) :: _ => (lanesOf x.on).map (fun l => (l, a)), p.2)

def execLdw (a : LdArgs) (s : State) : Host.Outcome State Fault Refusal :=
  issue (.ldw a) (fun x s =>
    let p := s.formOnce x (formMem a.m (.virt .read) 0 (widthBytes a.width) x)
    let s := p.2.launchFlight x 0 (streamMask a.m.str.val) (some 0) (destRegs a.d (widthBytes a.width))
      (p.2.partsOf x p.1 (widthBytes a.width) (fun _ => [])) [] {}
    s.finish x none (lanesLeave x p.1)) s

/-! ### Buffer records (R203) -/

def execBrset (a : BrsetArgs) (s : State) : Host.Outcome State Fault Refusal :=
  issue (.brset a) (fun x s =>
    match (lowLane x.on).bind (fun l => s.laneThread x.w l) with
    | none => s.advance x
    | some t =>
      let r : W128 := opNth a.q 3 x.v t ++ opNth a.q 2 x.v t ++ opNth a.q 1 x.v t ++ opNth a.q 0 x.v t
      match recRefusal r with
      | some d => s.faultLanes x x.on (0x068 + d)
      | none => (s.updGroup x.gid (fun g => g.setBuf g.gates.length a.target.val s.nextKey r)).advance x) s

/-- The load of a record: the fragment waits for its 16 bytes, because a value that is refused is a cause of the
instruction itself (log 17). -/
def execBrld (a : BrldArgs) (s : State) : Host.Outcome State Fault Refusal :=
  issue (.brld a) (fun x s =>
    let p := s.formOnce x (formMem a.m (.virt .read) 0 16 x)
    let ps := p.2.partsOf x p.1 16 (fun _ => [])
    let key := p.2.nextKey
    let s := p.2.launchFlight x 0 (streamMask a.m.str.val) (some 0) [] ps [] {}
    if ps.isEmpty then s.finish x none (lanesLeave x p.1)
    else s.finish x (some { instr := x.i, on := x.on, vals := [], aux := [key] })
      ((lanesOf x.fr.mask).map (fun l => (l, .wait)))) s

/-! ### Atomics (R200 to R202) -/

/-- The sides of an atomic: path LSU, every stream (spec 06, R143). -/
def atomSides (o : Order) : Sides :=
  match o with
  | .relaxed => {}
  | .acq => { acq := some (1, allStreams) }
  | .rel => { rel := some (1, allStreams) }
  | .ar => { rel := some (1, allStreams), acq := some (1, allStreams) }

/-- An atomic of `n` bytes with operand bytes `data`, returning its old value to `dst` unless `nr`. -/
def atomBody (m : MemOp8) (sp : Space) (n : Nat) (nr : Bool) (dst : List Nat) (o : Order)
    (data : Wave → Thread → List Byte) : Iss → State → State :=
  accessBody (formMem8 m sp n) (fun x fs s =>
    let ps := s.partsOf x fs n (data x.v)
    (s.launchFlight x 0 (streamMask m.str.val) (some (if nr then 1 else 0)) (if nr then [] else dst) ps []
      (atomSides o)).sign (opcodeOf x.i) ps)

def execAtom (a : AtomArgs) (s : State) : Host.Outcome State Fault Refusal :=
  let n := if a.wide then 8 else 4
  issue (.atom a) (atomBody a.m (.virt .atomic) n a.nr (destRegs a.d n) a.order (opBytes a.d n)) s

def execAtoms (a : AtomsArgs) (s : State) : Host.Outcome State Fault Refusal :=
  let n := if a.wide then 8 else 4
  issue (.atoms a) (atomBody a.m .scr n false (destRegs a.d n) a.order (opBytes a.d n)) s

def execAtomf (a : AtomfArgs) (s : State) : Host.Outcome State Fault Refusal :=
  issue (.atomf a) (atomBody a.m (.virt .atomic) 4 a.nr (destRegs a.d 4) a.order (opBytes a.d 4)) s

def execCas (a : CasArgs) (s : State) : Host.Outcome State Fault Refusal :=
  issue (.cas a) (atomBody a.m (.virt .atomic) 4 false (destRegs a.d 4) a.order (opBytes a.d 8)) s

def execCass (a : CasArgs) (s : State) : Host.Outcome State Fault Refusal :=
  issue (.cass a) (atomBody a.m .scr 4 false (destRegs a.d 4) a.order (opBytes a.d 8)) s

/-! ### Acquire and release (R204) -/

/-- Form the access of `ACQ` or `REL`: the element of the index register, with offset 0. -/
def formSync (a : SyncArgs) (need : Need) (d : Nat) (x : Iss) (s : State) (_ : Nat) (t : Thread) : Formed × State :=
  s.formElem x.gid x.g (x.g.buf a.brec.val) (if a.scr then .scr else .virt need) d (indexOf a.ix 0 x.v t)
    (if a.wide then 8 else 4)

def execAcq (a : SyncArgs) (s : State) : Host.Outcome State Fault Refusal :=
  let n := if a.wide then 8 else 4
  issue (.acq a) (accessBody (formSync a .read 0) (fun x fs s =>
    s.launchFlight x 0 allStreams (some 0) (destRegs a.d n) (s.partsOf x fs n (fun _ => [])) []
      { acq := some (a.paths, a.smask) })) s

def execRel (a : SyncArgs) (s : State) : Host.Outcome State Fault Refusal :=
  let n := if a.wide then 8 else 4
  issue (.rel a) (accessBody (formSync a .write 1) (fun x fs s =>
    let ps := s.partsOf x fs n (opBytes a.d n x.v)
    (s.launchFlight x 0 allStreams (some 1) [] ps [] { rel := some (a.paths, a.smask) }).sign
      (opcodeOf x.i) ps)) s

/-! ### Fences (R205) and prefetch (R214) -/

def execFence (a : FenceArgs) (s : State) : Host.Outcome State Fault Refusal :=
  issue (.fence a) (fun x s =>
    ((s.tidsOf x.w x.on).foldl (fun s t => State.fence s t allPaths a.smask true) s).advance x) s

def execFencex (a : FencexArgs) (s : State) : Host.Outcome State Fault Refusal :=
  issue (.fencex a) (fun x s =>
    ((s.tidsOf x.w x.on).foldl (fun s t => State.fence s t a.paths a.smask false) s).advance x) s

/-- A prefetch in the lane of thread `t`: the line of its element comes into the L2 of the core's die, and with `.l1` into the
core's L1. A lane whose element cannot be reached is dropped, and what its translation would record with it; a poisoned unit
and a page with NC set are not cached (spec 04, R82; spec 19, R430). -/
def prefLane (a : PrefArgs) (x : Iss) (s : State) (t : Thread) : State :=
  let r := x.g.buf a.brec.val
  match (s.formElem x.gid x.g r (.virt .read) 0 (indexOf a.ix 0 x.v t) (recEsize r)).1 with
  | .at' (.mem pa) ad =>
    if s.poisoned pa 1 || s.uncached x.g.ctx ad then s
    else
      let s := s.readL2 x.g.core [pa / 128]
      if a.l1 then s.fillL1 x.g.core (pa / 128) false else s
  | _ => s

/-- A prefetch changes no visible state and never faults. -/
def execPref (a : PrefArgs) (s : State) : Host.Outcome State Fault Refusal :=
  issue (.pref a) (fun x s =>
    ((lanesOf x.on).foldl (fun (s : State) l => match s.laneThread x.w l with
      | some t => prefLane a x s t
      | none => s) s).advance x) s

end Sys2Proof.Machine
end

