-- ==== Sys2Proof/Machine/Regs.lean ====
section
/-!
DEFINITION. The device register space (spec 01, R13; spec 13, R341): what each register reads, and what a write does
(spec 04, R98; spec 11, R319; spec 13, R342; spec 14, R358; spec 19, R435, R437, R440, R442, R451; spec 20, R458, R463,
R469). Registers are reached as 64-bit words, and the counters and route entries as 32-bit ones (log 18).
-/

namespace Sys2Proof.Machine

/-- The bits of `v` that lie in one of the fields `fs`, given as highest and lowest bit: reserved bits do not take a
write (spec 00, R2). -/
def fieldsOf (v : Nat) (fs : List (Nat × Nat)) : Nat := fs.foldl (fun n f => n + bits v f.1 f.2 * 2 ^ f.2) 0

/-! ### Function table (spec 13, R342) -/

/-- Whether a reserved bit is set in one of the eight words of entry `f`. -/
def State.ftReserved (s : State) (f : Nat) : Bool :=
  bits (s.ftWord f 0) 61 48 != 0
    || [2, 3, 4, 5, 6, 7].any (fun w => bits (s.ftWord f w) 63 52 != 0 || bits (s.ftWord f w) 11 0 != 0)

/-- Whether another enabled function has the MAC of `f` where the two clash. -/
def State.macClash (s : State) (f : Nat) : Bool :=
  (List.range 64).any (fun g =>
    let vf := (s.ftWord f 1).testBit 15
    let vg := (s.ftWord g 1).testBit 15
    g != f && (s.ftWord g 0).testBit 63 && bits (s.ftWord g 0) 47 0 == bits (s.ftWord f 0) 47 0
      && (!vf || !vg || bits (s.ftWord f 1) 11 0 == bits (s.ftWord g 1) 11 0))

/-- Start a function reset: FRST reads 1, and the function's event writing stops (spec 19, R438). -/
def State.startReset (s : State) (f : Nat) : State :=
  if s.host.frst.contains f then s
  else { s with host := { s.host with frst := s.host.frst ++ [f]
                                      sent := s.host.sent.filter (fun e => !(e.func == f && e.event))
                                      muted := if s.host.muted.contains f then s.host.muted else s.host.muted ++ [f] } }

/-- Write word `w` of function table entry `f`. FRST is not stored; EN stays 0 for a reserved bit or a MAC clash; a
function that is enabled again writes events again (log 18). -/
def State.writeFt (s : State) (f w v : Nat) : State :=
  let put (s : State) (v : Nat) : State :=
    { s with host := { s.host with ftab := Map.putD s.host.ftab 0 (f * 8 + w) (BitVec.ofNat 64 v) } }
  if w ≠ 0 then put s v
  else
    let frst := v.testBit 62
    let base := v % 2 ^ 62
    let s := put s base
    let s := if v.testBit 63 && !s.ftReserved f && !s.macClash f then
        let s := put s (2 ^ 63 + base)
        if frst then s else { s with host := { s.host with muted := s.host.muted.filter (· != f) } }
      else s
    if frst then s.startReset f else s

/-! ### Weight-store regions (spec 13, R341) -/

/-- Write a region register: SEALED 1 starts the seal of an open region, SEALED 0 opens it. -/
def State.writeRegion (s : State) (n v : Nat) : State :=
  let r := s.region n
  let r' : Region :=
    { isSealed := r.isSealed && v.testBit 63, sealing := v.testBit 63 && !r.isSealed, domain := bits v 11 0 }
  { s with mem := { s.mem with regions := Map.put s.mem.regions n r' } }

/-! ### Ending domains, releasing halts (spec 19, R435, R437) -/

/-- Write `DOMEND`: GO starts the ending of a domain other than 0; nothing happens while GO reads 1. -/
def State.writeDomend (s : State) (v : Nat) : State :=
  if s.rep.domend.getLsbD 63 then s
  else
    let d := bits v 11 0
    let go := v.testBit 63 && d != 0
    { s with rep := { s.rep with
        domend := BitVec.ofNat 64 (d + b2n go * 2 ^ 63)
        ending := if go && !s.rep.ending.contains d then s.rep.ending ++ [d] else s.rep.ending } }

/-- Write `HALTREL`: the halted gang is queued for admission as one that was evicted whole. -/
def State.writeHaltrel (s : State) (v : Nat) : State :=
  let id := bits v 15 0
  let s := { s with rep := { s.rep with haltrel := BitVec.ofNat 64 id } }
  if v.testBit 63 then
    { s with gangs := Map.mapv s.gangs (fun _ g => if g.st = .halted id then { g with st := .saved, since := s.tick } else g) }
  else s

/-- Gangs halted on the device. -/
def State.haltCount (s : State) : Nat :=
  (s.gangs.filter (fun p => match p.2.st with | .halted _ => true | _ => false)).length

/-! ### Sweepers (spec 04, R98; spec 20, R463) -/

/-- Sweeper `b`. -/
def State.sweeper (s : State) (b : Nat) : Sweeper := Map.get s.fsw .init b

def State.setSweeper (s : State) (b : Nat) (w : Sweeper) : State := { s with fsw := Map.put s.fsw b w }

/-- The value `FSW_CTL` takes: EN stays 0 for a reserved FSIZE or COLDAGE, or with high ≤ low. -/
def fswCtlValue (w : Sweeper) (v : Nat) : W64 :=
  let bad := bits v 2 1 == 3 || bits v 7 4 == 0 || bits w.mark.toNat 51 32 ≤ bits w.mark.toNat 19 0
  BitVec.ofNat 64 (fieldsOf v [(2, 1), (7, 4), (31, 16)] + b2n (v.testBit 0 && !bad))

/-- The value of a sweeper register. -/
def Sweeper.read (w : Sweeper) : Nat → W64
  | 0x00 => w.ctl
  | 0x08 => w.tbase
  | 0x10 => w.tcount
  | 0x18 => w.tfirst
  | 0x20 => w.qbase
  | 0x28 => w.qsize
  | 0x30 => w.qhead
  | 0x38 => w.qtail
  | 0x40 => w.mark
  | 0x48 => w.cursor
  | 0x50 => BitVec.ofNat 64 (b2n w.dry + b2n w.badent * 2 + w.badidx % 2 ^ 40 * 2 ^ 8)
  | 0x58 => w.note
  | _ => 0

/-- Write a sweeper register. -/
def Sweeper.write (w : Sweeper) (r v : Nat) : Sweeper :=
  let x := BitVec.ofNat 64 v
  match r with
  | 0x00 => { w with ctl := fswCtlValue w v }
  | 0x08 => { w with tbase := x }
  | 0x10 => { w with tcount := x }
  | 0x18 => { w with tfirst := x }
  | 0x20 => { w with qbase := x }
  | 0x28 => { w with qsize := x }
  | 0x30 => { w with qhead := x }
  | 0x40 => { w with mark := BitVec.ofNat 64 (fieldsOf v [(19, 0), (51, 32)]) }
  | 0x50 => { w with dry := w.dry && !v.testBit 0, badent := w.badent && !v.testBit 1 }
  | 0x58 => { w with note := BitVec.ofNat 64 (fieldsOf v [(16, 16), (15, 0)]) }
  | _ => w

/-! ### Fault blocks (spec 20, R458) -/

/-- The value `FQCTL` takes: EN stays 0 with LOG2N outside 4 to 12. -/
def fqctlValue (v : Nat) : W64 :=
  let ok := 4 ≤ bits v 4 0 && bits v 4 0 ≤ 12
  BitVec.ofNat 64 (fieldsOf v [(51, 12), (4, 0)] + b2n (v.testBit 63 && ok) * 2 ^ 63)

/-- The value of a register of a fault block. -/
def FaultBlock.read (b : FaultBlock) : Nat → W64
  | 0x00 => b.ctl
  | 0x08 => b.vec
  | 0x10 => b.tail.setWidth 64
  | 0x18 => b.head.setWidth 64
  | 0x20 => BitVec.ofNat 64 (b2n b.held + 2 * b2n b.tmohit)
  | 0x28 => b.irmiss.setWidth 64
  | 0x30 => b.peerref.setWidth 64
  | _ => 0

/-- Write a register of the fault block of function `f`. -/
def State.writeFq (s : State) (f r v : Nat) : State :=
  let b := s.fblock f
  match r with
  | 0x00 =>
    let s := s.setFblock f { b with ctl := fqctlValue v }
    if (fqctlValue v).getLsbD 63 then s.flushHeld f else s
  | 0x08 => s.setFblock f { b with vec := BitVec.ofNat 64 (fieldsOf v [(47, 32), (16, 16), (15, 0)]) }
  | 0x18 => (s.setFblock f { b with head := BitVec.ofNat 32 v }).flushHeld f
  | 0x20 => s.setFblock f { b with held := b.held && !v.testBit 0, tmohit := b.tmohit && !v.testBit 1 }
  | 0x28 => s.setFblock f { b with irmiss := 0 }
  | 0x30 => s.setFblock f { b with peerref := 0 }
  | 0x38 => { s with mmu := { s.mmu with resps := s.mmu.resps ++ [(f, BitVec.ofNat 64 v)] } }
  | _ => s

/-! ### Frarok ports (spec 20, R469) -/

def State.fport (s : State) (p : Nat) : FPort := Map.get s.fab.ports .init p

def State.setFport (s : State) (p : Nat) (v : FPort) : State :=
  { s with fab := { s.fab with ports := Map.put s.fab.ports p v } }

/-- Active lanes of a port: 8, 7 or 0. -/
def FPort.active (p : FPort) : Nat :=
  if p.down then 0 else
    match popCount 9 p.failed.toNat with
    | 0 => 8
    | 1 => 8
    | 2 => 7
    | _ => 0

/-- The physical lanes 0 to 8 that a port has in use or ready, while it is enabled. -/
def FPort.laneOk (p : FPort) : Nat := if p.en then 511 - p.failed.toNat else 0

/-- Whether the spare, lane 8, stands in for a failed lane. -/
def FPort.spareUsed (p : FPort) : Bool := p.en && !p.down && !p.failed.getLsbD 8 && bits p.failed.toNat 7 0 != 0

/-- The value of a port register. A port that is not enabled has no lane in use and none active. -/
def FPort.read (p : FPort) : Nat → W64
  | 0x00 => BitVec.ofNat 64 (b2n p.en + 2 * b2n p.training)
  | 0x08 => BitVec.ofNat 64 (p.laneOk + (if p.en then p.active else 0) * 2 ^ 12 + b2n p.down * 2 ^ 16
      + b2n p.spareUsed * 2 ^ 17 + b2n p.training * 2 ^ 18)
  | 0x10 => p.crc.setWidth 64
  | 0x18 => p.replay.setWidth 64
  | 0x20 => p.peer.setWidth 64
  | _ => 0

/-- Write a port register. -/
def FPort.write (p : FPort) (r v : Nat) : FPort :=
  match r with
  | 0x00 => { p with en := v.testBit 0, training := p.training || v.testBit 1 }
  | 0x10 => { p with crc := 0 }
  | 0x18 => { p with replay := 0 }
  | _ => p

/-! ### Management registers (spec 14, R358; spec 19, R451) -/

/-- The power cap a write sets, clamped to 1,200 to 2,400 W. -/
def capOf (v : Nat) : Nat := max 1200 (min 2400 (bits v 11 0))

/-- Whether a cluster counts as healthy. -/
def ClusterRole.healthy : ClusterRole → Bool
  | .logical _ => true
  | .cupping _ => true
  | .target => true
  | .reserve => true
  | _ => false

/-- The healthy clusters of a die. -/
def State.healthyCount (s : State) (die : Nat) : Nat :=
  ((List.range 19).filter (fun n => (s.cluster die n).role.healthy)).length

/-- Whether physical cluster `p` of die `d` waits to be retired. -/
def State.isRetiring (s : State) (d p : Nat) : Bool := ((Map.find s.mgmt.retiring d).getD []).contains p

/-- The physical cluster a round takes: the first one to be retired, else the logical one tested longest ago. -/
def State.roundChoice (s : State) (d : Nat) : Option (Nat × Nat) :=
  let logical := (List.range 19).filterMap (fun n => match (s.cluster d n).role with
    | .logical l => some (n, l)
    | _ => none)
  match ((Map.find s.mgmt.retiring d).getD []).findSome? (fun n => logical.find? (fun e => e.1 == n)) with
  | some e => some e
  | none => logical.foldl (fun (b : Option (Nat × Nat)) e => match b with
      | none => some e
      | some q => if (s.cluster d e.1).tested < (s.cluster d q.1).tested then some e else b) none

/-- The skipped rounds of the cluster that is due on a die. -/
def State.skipsDue (s : State) (d : Nat) : Nat :=
  match s.roundChoice d with
  | some e => Map.get s.mgmt.skips 0 (d * 32 + e.1)
  | none => 0

/-- `CLSTAT` of a die. -/
def State.clstat (s : State) (die : Nat) : W64 :=
  let roles := (List.range 19).map (fun n => (s.cluster die n).role)
  BitVec.ofNat 64 (s.healthyCount die
    + (roles.filter (fun r => match r with | .logical _ => true | _ => false)).length * 2 ^ 5
    + b2n (roles.any (fun r => match r with | .cupping _ => true | _ => false)) * 2 ^ 10
    + b2n (roles.any (fun r => r == .reserve)) * 2 ^ 11
    + s.skipsDue die % 16 * 2 ^ 12)

/-- Measurement register `n`. -/
def Mgmt.mrOf (m : Mgmt) (n : Nat) : List Byte := Map.get m.mr (List.replicate 32 0) n

/-- The value of a management register. -/
def State.readMgmt (s : State) (r : Nat) : W64 :=
  let m := s.mgmt
  match r with
  | 0x00 => BitVec.ofNat 64 (m.stage % 256 * 2 ^ 8 + m.fail % 16 * 2 ^ 4 + 2 * b2n m.ddrx + b2n m.done)
  | 0x08 => m.pwrcap.setWidth 64
  | 0x10 => m.throt ++ m.tjmax ++ m.mw
  | 0x18 => BitVec.ofNat 64 (ofBytes (((m.mrOf (m.mrsel / 4)).drop (8 * (m.mrsel % 4))).take 8))
  | 0x20 => s.clstat 0
  | 0x28 => s.clstat 1
  | _ => 0

/-- Write a management register. -/
def State.writeMgmt (s : State) (r v : Nat) : State :=
  match r with
  | 0x08 => { s with mgmt := { s.mgmt with pwrcap := BitVec.ofNat 12 (capOf v) } }
  | 0x18 => { s with mgmt := { s.mgmt with mrsel := bits v 5 3 * 4 + bits v 1 0 } }
  | _ => s

/-! ### The whole space -/

/-- What word `w` of a function table entry reads as: its reserved bits read zero (spec 00, R2), although the check of a write
that sets EN sees them as they were written (spec 13, R342; log 18). -/
def ftRead (w : Nat) (v : W64) : W64 :=
  match w with
  | 0 => BitVec.ofNat 64 (fieldsOf v.toNat [(63, 62), (47, 0)])
  | 1 => v
  | _ => BitVec.ofNat 64 (fieldsOf v.toNat [(51, 12)])

/-- The 64-bit word at offset `o`, a multiple of 8, of the register space. -/
def State.regWord (s : State) (o : Nat) : W64 :=
  let blk := o / 0x10000
  let r := o % 0x10000
  match blk with
  | 0x40 => if r < 0x200 then (s.sweeper (r / 0x100)).read (r % 0x100) else 0
  | 0x41 =>
    let e := Map.get s.host.peers 0 (r / 16)
    if 0x1000 ≤ r then 0 else if r % 16 = 0 then e.setWidth 64 else (e >>> 64).setWidth 64
  | 0x42 =>
    if 0x1000 ≤ r then 0
    else
      let w := ftRead (r % 64 / 8) (Map.get s.host.ftab 0 (r / 8))
      if r % 64 = 0 && s.host.frst.contains (r / 64) then w ||| 0x4000000000000000 else w
  | 0x43 =>
    let g := s.region (r / 8)
    if 0x200 ≤ r then 0 else BitVec.ofNat 64 (b2n g.isSealed * 2 ^ 63 + g.domain)
  | 0x44 =>
    match r with
    | 0x00 => BitVec.ofNat 64 (s.fab.devnum % 256 + b2n s.fab.domen * 256)
    | 0x08 => s.host.csp0
    | 0x10 => s.host.csp1
    | 0x18 => s.host.cspSize
    | 0x20 => s.rep.domend
    | 0x28 => s.rep.haltrel ||| BitVec.ofNat 64 (s.haltCount % 2 ^ 16 * 2 ^ 32)
    | _ => 0
  | 0x45 => if r < 0x4000 then Map.get s.fab.csets 0 (r / 8) else 0
  | 0x46 =>
    if r < 18 * 64 then (s.fport (r / 64)).read (r % 64)
    else if 0x1000 ≤ r ∧ r < 0x1000 + 144 * 4 then
      let i := (r - 0x1000) / 4
      BitVec.ofNat 64 ((Map.get s.fab.routes 0 i).toNat + (Map.get s.fab.routes 0 (i + 1)).toNat * 2 ^ 32)
    else 0
  | 0x47 => s.readMgmt r
  | 0x48 =>
    if r < 0x800 then
      let b := Map.get s.rep.er .init (r / 32)
      match r % 32 with
      | 0x00 => b.ctl
      | 0x08 => b.vec
      | 0x10 => b.seq.setWidth 64
      | _ => 0
    else if 0x1000 ≤ r ∧ r < 0x1800 then
      let i := (r - 0x1000) / 4
      BitVec.ofNat 64 ((Map.get s.rep.counters 0 i).toNat + (Map.get s.rep.counters 0 (i + 1)).toNat * 2 ^ 32)
    else 0
  | 0x49 => if r < 0x1000 then (s.fblock (r / 64)).read (r % 64) else 0
  | _ => 0

/-- The `n` bytes of the register space at offset `o`. -/
def State.readReg (s : State) (o n : Nat) : List Byte :=
  match n with
  | 0 => []
  | k + 1 => BitVec.ofNat 8 ((s.regWord (o / 8 * 8)).toNat / 2 ^ (8 * (o % 8))) :: s.readReg (o + 1) k

/-- Whether the word at `o` takes a write as a command: what is not written counts as zero (log 18). -/
def regCommand (o : Nat) : Bool :=
  (o / 0x10000 == 0x40 && o % 0x100 == 0x50) || (o / 0x10000 == 0x49 && (o % 64 == 0x20 || o % 64 == 0x38))
    || o == 0x470018

/-- Write the 64-bit word at offset `o`, a multiple of 8. -/
def State.setRegWord (s : State) (o v : Nat) : State :=
  let blk := o / 0x10000
  let r := o % 0x10000
  match blk with
  | 0x40 => if r < 0x200 then s.setSweeper (r / 0x100) ((s.sweeper (r / 0x100)).write (r % 0x100) v) else s
  | 0x41 =>
    let e := (Map.get s.host.peers 0 (r / 16)).toNat
    let n := if r % 16 = 0 then bits e 127 65 * 2 ^ 65 else bits v 63 1 * 2 ^ 65
    if 0x1000 ≤ r then s
    else { s with host := { s.host with peers := Map.putD s.host.peers 0 (r / 16) (BitVec.ofNat 128 n) } }
  | 0x42 => if r < 0x1000 then s.writeFt (r / 64) (r % 64 / 8) v else s
  | 0x43 => if r < 0x200 then s.writeRegion (r / 8) v else s
  | 0x44 =>
    match r with
    | 0x00 => { s with fab := { s.fab with devnum := bits v 7 0, domen := v.testBit 8 } }
    | 0x08 => { s with host := { s.host with csp0 := BitVec.ofNat 64 v } }
    | 0x10 => { s with host := { s.host with csp1 := BitVec.ofNat 64 v } }
    | 0x18 => { s with host := { s.host with cspSize := BitVec.ofNat 64 v } }
    | 0x20 => s.writeDomend v
    | 0x28 => s.writeHaltrel v
    | _ => s
  | 0x45 =>
    let n := if r % 256 = 0 then fieldsOf v [(63, 63), (61, 56), (55, 36), (15, 8), (7, 0)]
      else if r % 256 < 152 then v else 0
    if r < 0x4000 then { s with fab := { s.fab with csets := Map.putD s.fab.csets 0 (r / 8) (BitVec.ofNat 64 n) } }
    else s
  | 0x46 => if r < 18 * 64 then s.setFport (r / 64) ((s.fport (r / 64)).write (r % 64) v) else s
  | 0x47 => s.writeMgmt r v
  | 0x48 =>
    if r < 0x800 then
      let b := Map.get s.rep.er .init (r / 32)
      let b' : ErrBlock := match r % 32 with
        | 0x00 => { b with ctl := BitVec.ofNat 64 (fieldsOf v [(63, 63), (51, 12), (4, 0)]) }
        | 0x08 => { b with vec := BitVec.ofNat 64 (fieldsOf v [(16, 16), (15, 0)]) }
        | _ => b
      { s with rep := { s.rep with er := Map.put s.rep.er (r / 32) b' } }
    else s
  | 0x49 => if r < 0x1000 then s.writeFq (r / 64) (r % 64) v else s
  | _ => s

/-- Clear the counter of cause `c` (spec 19, R442). -/
def State.clearCounter (s : State) (c : Nat) : State :=
  { s with rep := { s.rep with counters := Map.del s.rep.counters c } }

/-- Whether offset `o` lies among the registers of 32 bits: the counters or the route table. -/
def regNarrow (o : Nat) : Bool :=
  (0x481000 ≤ o && o < 0x481800) || (0x461000 ≤ o && o < 0x461000 + 144 * 4)

/-- The ports that are down: no route mask names one (spec 20, R470). -/
def State.downPorts (s : State) : BitVec 18 :=
  (List.range 18).foldl (fun m p => if (s.fport p).down then m ||| (1#18 <<< p) else m) 0

/-- Write a 32-bit register at offset `o`, a multiple of 4. -/
def State.setNarrow (s : State) (o v : Nat) : State :=
  if 0x481000 ≤ o then s.clearCounter ((o - 0x481000) / 4)
  else { s with fab := { s.fab with
    routes := Map.putD s.fab.routes 0 ((o - 0x461000) / 4) (BitVec.ofNat 18 v &&& ~~~s.downPorts) } }

/-- Write bytes `l` to the register space at offset `o`: one write of each register they touch, with the bytes that are
not written as the register reads them. -/
def State.writeReg (s : State) (o : Nat) (l : List Byte) : State :=
  let w := if regNarrow o then 4 else 8
  (List.range (ceilDiv (o % w + l.length) w)).foldl (fun s i =>
    let a := o / w * w + w * i
    let old := if regCommand a then List.replicate w 0 else s.readReg a w
    let v := ofBytes ((List.range w).map (fun j =>
      if o ≤ a + j && a + j < o + l.length then l.getD (a + j - o) 0 else old.getD j 0))
    if w = 4 then s.setNarrow a v else s.setRegWord a v) s

end Sys2Proof.Machine
end

