-- ==== Sys2Proof/Machine/Perform.lean ====
section
/-!
DEFINITION. The performing of accesses in flight: loads and returning atomics when their data arrives, stores and
atomics without return when they are visible (spec 04, R91, R103, R109, R111; spec 08, R196 to R204), remote accesses
(spec 13, R348, R352; spec 20, R463), poison (spec 19, R430, R431), and `WAITEQ` (spec 08, R209).
-/

namespace Sys2Proof.Machine

/-! ### Bytes at a place -/

/-- The byte at offset `o` of a group's scratchpad: in its physical page, or at the backing place (spec 04, R93). -/
def State.scrByte (s : State) (g : Group) (o : Nat) : Byte :=
  match Map.find g.scrOut (o / 4096) with
  | none => Map.get g.scr 0 o
  | some pa => cellAt s.mem.cells (pa + o % 4096)

/-- The bytes of a group's scratchpad. -/
def State.scrAt (s : State) (g : Group) (o n : Nat) : List Byte := (List.range n).map (fun i => s.scrByte g (o + i))

/-- The `n` bytes at a place, as core `c` reads them; a place on another device or behind a host window has none here. -/
def State.readLoc (s : State) (c : Option Nat) (l : Loc) (n : Nat) : List Byte :=
  match l with
  | .mem pa => s.peekBy c pa n
  | .scr k o => match Map.find s.groups k with
    | some g => s.scrAt g o n
    | none => List.replicate n 0
  | .ws a => cellsAt s.mem.ws (a % 2 ^ 29) n
  | .reg pa => s.readReg (pa - regBase) n
  | _ => List.replicate n 0

/-- Whether a unit of 128 bytes is written in full by writes at offsets `ws` of one scratchpad. -/
def Group.scrPut (g : Group) (ws : List (Nat × List Byte)) : Group :=
  { g with
    scr := ws.foldl (fun m w => (w.2.zipIdx).foldl (fun m b => Map.putD m 0 (w.1 + b.2) b.1) m) g.scr
    scrPoison := g.scrPoison.filter (fun u => !covers ws u)
    scrInjected := g.scrInjected.filter (fun u => !covers ws u) }

/-- The port that the fixed hash picks for a line among those that reach device `d` (spec 13, R352). -/
def State.fabPort (s : State) (d line : Nat) : Nat :=
  let mask := (Map.get s.fab.routes 0 d).toNat
  let ports := (List.range 18).filter (fun i => mask.testBit i)
  ports.getD (Config.lineHash line % max 1 ports.length) 0

/-- Flits that may be unacknowledged (spec 13, R351). -/
def flitWindow : Nat := 2048

/-- The TYPE of a message's flit (spec 13, R351; log 43). -/
def FabMsg.type : FabMsg → Nat
  | .req _ _ => 1
  | .resp _ _ _ => 3
  | .refuse _ => 3
  | .coll _ _ _ => 5

/-- The first word of a flit with SEQ `seq` of port `v`: it acknowledges the last flit that was delivered; virtual channel 0
(log 43). -/
def FPort.head (v : FPort) (seq : Nat) (m : FabMsg) : W32 :=
  BitVec.ofNat 32 (seq % 4096 + (v.recvSeq + 4095) % 4096 * 2 ^ 12 + m.type * 2 ^ 24)

/-- Whether a port sends: it is on, up, and not at a retrain. -/
def FPort.sends (v : FPort) : Bool := v.en && !v.down && !v.training

/-- Send a message about a line on a port. It stays in the port's replay buffer until it is acknowledged, and leaves at once
where the port sends; while the buffer is full it waits for room (spec 13, R351). -/
def State.fabSend (s : State) (p line : Nat) (m : FabMsg) : State :=
  let v : FPort := Map.get s.fab.ports .init p
  if flitWindow ≤ v.unacked.length then
    { s with fab := { s.fab with ports := Map.put s.fab.ports p { v with waiting := v.waiting ++ [(line, m)] } } }
  else
    { s with fab := { s.fab with
        outbox := if v.sends then s.fab.outbox ++ [{ port := p, head := v.head v.sendSeq m, msg := m }] else s.fab.outbox
        ports := Map.put s.fab.ports p
          { v with sendSeq := (v.sendSeq + 1) % 4096, unacked := v.unacked ++ [(v.sendSeq, line, m)] } } }

/-- Send a message about a line to device `d`, on the port that the hash picks; with no port left it cannot leave (spec 20,
R470). -/
def State.fabTo (s : State) (d line : Nat) (m : FabMsg) : State :=
  if Map.get s.fab.routes 0 d = 0 then s else s.fabSend (s.fabPort d line) line m

/-- Send a request to the device of a domain address. -/
def State.domSend (s : State) (pa : Nat) (r : DomReq) : State := s.fabTo (pa / 2 ^ 44 - 1) (pa / 128) (.req (pa / 2 ^ 44 - 1) r)

/-- Address of the host window that a host address of function `f` names. -/
def State.hostWindow (s : State) (f pa : Nat) : Nat := s.ftBase f 4 + 0x10800 + 32 * bits pa 43 38

/-- Send an RDMA WRITE or READ for a host address (spec 13, R348), for access `key`. Of a QPN that names no QP of the function the
low 12 bits count (log 76). -/
def State.hostSend (s : State) (p : Party) (key : Option Nat) (pa : Nat) (data : Option (List Byte)) (n : Nat) : State :=
  let e := s.hostWindow p.func pa
  let qpn := bits (s.peekNat e 8) 39 16
  let rkey := bits (s.peekNat (e + 16) 8) 31 0
  let va := BitVec.ofNat 64 (s.peekNat (e + 8) 8 + bits pa 37 0)
  s.send p key false (bits qpn 11 0) n (match data with
    | some l => .rdmaWrite qpn rkey va l
    | none => .rdmaRead qpn rkey va n)

/-- Perform writes of the weight store; a unit of 128 bytes written in full loses its poison. -/
def State.pokeWs (s : State) (ws : List (Nat × List Byte)) : State :=
  { s with mem := { s.mem with
      ws := ws.foldl (fun m w => setCells m w.1 w.2) s.mem.ws
      wsPoison := s.mem.wsPoison.filter (fun u => !covers ws (u % 2 ^ 22)) } }

/-- Poison unit `u` of the weight store of die `d`. -/
def State.poisonWs (s : State) (d u : Nat) : State :=
  let k := d * 2 ^ 22 + u
  if s.mem.wsPoison.contains k then s else { s with mem := { s.mem with wsPoison := k :: s.mem.wsPoison } }

/-- The writes of `ws` to memory. -/
def memWrites (ws : List (Loc × List Byte)) : List (Nat × List Byte) :=
  ws.filterMap (fun w => match w.1 with | .mem pa => some (pa, w.2) | _ => none)

/-- Perform writes as the requests of one instruction, in order; `p` is who makes them. -/
def State.writeLocs (s : State) (p : Party) (ws : List (Loc × List Byte)) : State :=
  let s := s.writeMem p.core (memWrites ws)
  let s := ws.foldl (fun (s : State) w => match w.1 with
    | .scr k o => s.pinRange k o w.2.length
    | _ => s) s
  let wst := ws.filterMap (fun w => match w.1 with | .ws a => some (a, w.2) | _ => none)
  let s := if wst.isEmpty then s else s.pokeWs wst
  let gids := (ws.filterMap (fun w => match w.1 with | .scr k _ => some k | _ => none)).eraseDups
  let s := gids.foldl (fun (s : State) k => s.updGroup k (fun g => g.scrPut (ws.filterMap (fun w =>
    match w.1 with
    | .scr j o => if j = k then some (o, w.2) else none
    | _ => none)))) s
  ws.foldl (fun (s : State) w => match w.1 with
    | .reg pa => s.writeReg (pa - regBase) w.2
    | .dom pa => s.domSend pa (.store (pa % 2 ^ 44) w.2)
    | .host pa => s.hostSend p none pa (some w.2) w.2.length
    | _ => s) s

/-! ### Poison (spec 19, R430, R431) -/

/-- The mark of poison of unit `u` of a group's scratchpad, in its physical page or at the backing place, and whether `FINJ` made
it (spec 04, R93; spec 19, R430). -/
def State.scrMark (s : State) (g : Group) (u : Nat) : Option Bool :=
  if g.scrPoison.contains u then some (g.scrInjected.contains u)
  else (Map.find g.scrOut (u / 32)).bind (fun pa =>
    if s.poisoned (pa + u % 32 * 128) 128 then some (s.mem.injected.contains (pa / 128 + u % 32)) else none)

/-- The units of 128 bytes that `n` bytes from `a` touch. -/
def unitsOf (a n : Nat) : List Nat := List.range' (a / 128) ((a + max 1 n - 1) / 128 + 1 - a / 128)

/-- The poison of the units of a place, lowest first: the cause of consuming each, whether `FINJ` made it, and the unit's
address. -/
def State.poisonsAt (s : State) (c : Option Nat) (l : Loc) (n : Nat) : List (Nat × Bool × Nat) :=
  match l with
  | .mem pa => (unitsOf pa n).filterMap (fun u =>
    if s.l1Marked c u then some (0x14D, false, u * 128)
    else if s.poisonedBy c u then
      some (if s.mem.l2Poison.contains u then 0x143 else poisonCause (u * 128), s.mem.injected.contains u, u * 128)
    else none)
  | .ws a => (unitsOf a n).filterMap (fun u =>
    if s.mem.wsPoison.contains u then some (0x149, false, u * 128 % 2 ^ 29) else none)
  | .scr k o => match Map.find s.groups k with
    | some g => (unitsOf o n).filterMap (fun u => (s.scrMark g u).map (fun i => (0x141, i, u * 128)))
    | none => []
  | _ => []

/-- The first poison of a place. -/
def State.poisonAt (s : State) (c : Option Nat) (l : Loc) (n : Nat) : Option (Nat × Bool × Nat) := (s.poisonsAt c l n).head?

/-- Group `gid` has consumed poison, with a second error beside it if there is one: memory that the callee of `callee` read is
the service's own; what is read otherwise is the caller's, and so is the scratchpad (spec 19, R439). -/
def State.consume (s : State) (gid : Nat) (callee : Option Nat) (p : Nat × Bool × Nat) (cause2 : Option Nat := none) : State :=
  s.contextError gid (match callee with | some d => if p.1 = 0x141 then .caller else .service d | none => .caller)
    { cause := p.1, cause2 := cause2, inj := p.2.1, addr := p.2.2,
      aphys := p.1 == 0x143 || p.1 == 0x14A || p.1 == 0x14B || p.1 == 0x14D }

/-! ### Atomic operations (R200 to R202) -/

/-- The new value of an integer atomic on `w` bits. -/
def atomNew (op : AtomOp) (w old v : Nat) : Nat :=
  match op with
  | .add => (old + v) % 2 ^ w
  | .and => old &&& v
  | .or => old ||| v
  | .xor => old ^^^ v
  | .mins => if sInt w v < sInt w old then v else old
  | .minu => min old v
  | .maxs => if sInt w old < sInt w v then v else old
  | .maxu => max old v
  | .exch => v
  | .incw => if v ≤ old then 0 else old + 1
  | .decw => if old = 0 ∨ v < old then v else old - 1

/-- The new value of a floating-point atomic. -/
def atomfNew (op : AtomfOp) (old v : W32) : W32 :=
  match op with
  | .add => faddBits old v
  | .min => fminBits old v
  | .max => fmaxBits old v
  | .add2 =>
    let half (a b : Nat) : Nat := roundTo .bf16 .rne false (FR.add (FR.ofBits .bf16 a) (FR.ofBits .bf16 b))
    BitVec.ofNat 32 (half (old.toNat % 2 ^ 16) (v.toNat % 2 ^ 16)
      + half (old.toNat / 2 ^ 16) (v.toNat / 2 ^ 16) * 2 ^ 16)

/-- What an atomic instruction writes over `old`, given its operand bytes: none where it writes nothing. -/
def atomWrite (i : Instr) (old data : List Byte) : Option (List Byte) :=
  let n := old.length
  match i with
  | .atom a => some (toBytes n (atomNew a.op (8 * n) (ofBytes old) (ofBytes data)))
  | .atoms a => some (toBytes n (atomNew a.op (8 * n) (ofBytes old) (ofBytes data)))
  | .atomf a => some (toBytes n (atomfNew a.op (BitVec.ofNat 32 (ofBytes old)) (BitVec.ofNat 32 (ofBytes data))).toNat)
  | .cas _ => if old = data.take 4 then some (data.drop 4) else none
  | .cass _ => if old = data.take 4 then some (data.drop 4) else none
  | _ => none

/-- Whether an instruction is a read-modify-write. -/
def isAtomic : Instr → Bool
  | .atom _ => true
  | .atoms _ => true
  | .atomf _ => true
  | .cas _ => true
  | .cass _ => true
  | _ => false

/-- The request an atomic sends to another device. -/
def atomReq (i : Instr) (pa : Nat) (data : List Byte) : DomReq :=
  match i with
  | .atom a => .atom pa a.wide a.op (BitVec.ofNat 64 (ofBytes data))
  | .atomf a => .atomf pa a.op (BitVec.ofNat 32 (ofBytes data))
  | _ => .cas pa (BitVec.ofNat 32 (ofBytes (data.take 4))) (BitVec.ofNat 32 (ofBytes (data.drop 4)))

/-- What a non-strict access out of extent delivers: zero, and for a compare-and-swap the complement of its comparand
(spec 18, R411). -/
def outOfExtent (i : Instr) (n : Nat) (data : List Byte) : List Byte :=
  match i with
  | .cas _ => (data.take 4).map (fun b => ~~~b)
  | .cass _ => (data.take 4).map (fun b => ~~~b)
  | _ => List.replicate n 0

/-- Whether a place is on another device or behind a host window. -/
def Loc.remote : Loc → Bool
  | .dom _ => true
  | .host _ => true
  | _ => false

/-- Whether an instruction's access brings data into the device. -/
def fetches (i : Instr) : Bool :=
  match i with
  | .accst _ => false
  | .accsclCol _ => true
  | i => isWaiteq i || raisesOf i == some 0 || raisesOf i == some 3

/-- The request of a part to another device or a host. -/
def State.sendPart (s : State) (q : Party) (key : Nat) (i : Instr) (p : Part) : State :=
  match p.loc with
  | .dom pa => s.domSend pa (if isAtomic i then atomReq i (pa % 2 ^ 44) p.data
      else if fetches i then .load (pa % 2 ^ 44) p.len else .store (pa % 2 ^ 44) p.data)
  | .host pa => s.hostSend q (some key) pa (if fetches i then none else some p.data) p.len
  | _ => s

/-- Whether an access is made once for its fragment: one request, one value for every lane (spec 08, R197, R203). -/
def isOnce : Instr → Bool
  | .ldw _ => true
  | .brld _ => true
  | _ => false

/-- The parts of an access that make a request of their own. -/
def Flight.asks (f : Flight) : List Part := if isOnce f.instr then f.parts.take 1 else f.parts

/-- On whose behalf an access in flight is made. -/
def State.partyFor (s : State) (f : Flight) : Party :=
  match Map.find s.groups f.gid with
  | some g => s.partyOf g
  | none => .of f.func

/-- Whether the accesses that local order puts before access `f` are done (spec 04, R106). -/
def State.mayPerform (s : State) (f : Flight) : Bool := !f.deps.any s.isLive

/-- Whether an access cannot be sent, because no port is left to a device it needs: it is refused (spec 20, R470). -/
def State.cutOff (s : State) (f : Flight) : Bool :=
  !f.sent && f.parts.any (fun p => match p.loc with
    | .dom pa => s.domRefused pa
    | _ => false)

/-- Send the requests of access `key` to other devices and hosts, once nothing is before it (spec 13, R348, R352). -/
def State.sendFlight (s : State) (key : Nat) : State :=
  match Map.find s.flights key with
  | none => s
  | some f =>
    if f.sent || !f.parts.any (fun p => p.loc.remote) || !s.mayPerform f then s
    else
      let s := { s with flights := Map.put s.flights key { f with sent := true } }
      f.asks.foldl (fun (s : State) p => s.sendPart (s.partyFor f) key f.instr p) s

/-- Send the requests of every access that nothing is before any more. -/
def State.sendReady (s : State) : State :=
  (Map.keysOf (Map.keep s.flights (fun _ f => !f.sent && f.parts.any (fun p => p.loc.remote)))).foldl
    (fun (s : State) k => s.sendFlight k) s

/-- An access at a place of memory is performed at its home slice: what the core that makes it holds in its L1 leaves that first
(spec 01, R14); one at a scratchpad, at its owner. -/
def State.homeOf (s : State) (c : Option Nat) (l : Loc) (n : Nat) (dirty : Bool) : State :=
  match l with
  | .mem pa => (s.cleanAt c pa n).atHome pa dirty
  | .scr k o => s.pinRange k o n
  | _ => s

/-- Perform one part of an access that returns: its old bytes. `remote` is what another device or a host answered. -/
def State.performPart (s : State) (i : Instr) (q : Party) (p : Part) (remote : W128) : List Byte × State :=
  let far := toBytes p.len remote.toNat
  match p.loc with
  | .nil => (outOfExtent i p.len p.data, s)
  | .dom _ => (far, s)
  | .host _ => (far, s)
  | l =>
    let s := if isAtomic i then s.homeOf q.core l p.len true else s
    let old := s.readLoc q.core l p.len
    match atomWrite i old p.data with
    | some new => (old, s.writeLocs q [(l, new)])
    | none => (old, s)

/-! ### Results -/

/-- Write a register that an access or copy made in gate call `c` holds pending; nothing where the register is no longer pending
on it, or the call has ended. -/
def Thread.deliver (t : Thread) (c key : Nat) (full : Bool) (r : Nat) (v : W32) : Thread :=
  if t.call = c then
    if Map.find t.pend r = some key then
      let t := { t with pend := Map.del t.pend r }
      if !full && 16 ≤ r then { t with saved := Map.putD t.saved 0 r v } else t.setReg r v
    else t
  else
    { t with outer := t.outer.map (fun o =>
        if o.call = c && Map.find o.pend r == some key then
          { o with pend := Map.del o.pend r, regs := Map.putD o.regs 0 r v }
        else o) }

/-- The words of a result of `l` bytes to consecutive registers from `base`; `sx` extends the sign of a narrow one. -/
def resultWords (sx : Bool) (l : List Byte) (base : Nat) : List (Nat × W32) :=
  let n := l.length
  let v := ofBytes l
  let v := if sx && n < 4 && v.testBit (8 * n - 1) then 2 ^ 32 - 2 ^ (8 * n) + v else v
  (List.range (ceilDiv n 4)).map (fun i => (base + i, BitVec.ofNat 32 (v / 2 ^ (32 * i))))

/-- The destination and sign extension of an instruction that returns data. -/
def returnsTo : Instr → Option (Opnd × Bool)
  | .ld a => some (a.d, a.sx)
  | .ldw a => some (a.d, a.sx)
  | .lds a => some (a.d, a.sx)
  | .ldws a => some (a.d, false)
  | .atom a => if a.nr then none else some (a.d, false)
  | .atoms a => some (a.d, false)
  | .atomf a => if a.nr then none else some (a.d, false)
  | .cas a => some (a.d, false)
  | .cass a => some (a.d, false)
  | .acq a => some (a.d, false)
  | _ => none

/-- Whether a group holds its full allotment; a group that is gone holds none. -/
def State.fullOf (s : State) (gid : Nat) : Bool := ((Map.find s.groups gid).map (·.full)).getD false

/-- Deliver the bytes of part `p` of access `key`. -/
def State.deliverPart (s : State) (key gid : Nat) (i : Instr) (p : Part) (l : List Byte) : State :=
  match returnsTo i with
  | some (.g r, sx) =>
    let full := s.fullOf gid
    s.updThread p.tid (fun t => (resultWords sx l r.val).foldl (fun t e => t.deliver p.call key full e.1 e.2) t)
  | _ => s

/-- Thread `t` is done with access `key`, which it made in gate call `d`: the counter `c` of that call falls, and no register is
pending on the access any longer; nothing where the call has ended. -/
def Thread.doneWith (t : Thread) (c d key : Nat) : Thread :=
  let rest (m : Map Nat) : Map Nat := m.filter (fun e => e.2 != key)
  if t.call = d then { t.bump c (· - 1) with pend := rest t.pend }
  else { t with outer := t.outer.map (fun o =>
    if o.call = d then { o.bump c (· - 1) with pend := rest o.pend } else o) }

/-- An access is done: it leaves its threads' counter `c` and the set of accesses in flight; a phase end that waited for it
is taken (spec 08, R225). -/
def State.landFlight (s : State) (key c : Nat) : State :=
  match Map.find s.flights key with
  | none => s
  | some f =>
    let tids := (f.parts.map (fun p => (p.tid, p.call))).eraseDups
    let s := tids.foldl (fun (s : State) t => s.updThread t.1 (fun u => u.doneWith c t.2 key)) s
    ({ s with flights := Map.del s.flights key }.reap).checkSelf f.gid

/-- Whether a part's data would be delivered: its thread is there, and has not left the gate call it was made in. -/
def State.delivers (s : State) (p : Part) : Bool :=
  match Map.find s.threads p.tid with
  | some t => t.call == p.call || t.outer.any (fun o => o.call == p.call)
  | none => false

/-- The service whose callee made a part of an access. -/
def Flight.callee (f : Flight) (p : Part) : Option Nat := if p.call = 0 then none else some f.domain

/-- The errors that the parts of an access would consume, with the callee that made each part: one for each poisoned unit, and
those of `far`, which another device delivers; the lowest cause first (spec 19, R457). -/
def State.flightErrors (s : State) (f : Flight) (far : List (Option Nat × Nat × Bool × Nat)) :
    List (Option Nat × Nat × Bool × Nat) :=
  sortBy (fun a b => a.2.1 ≤ b.2.1) (((f.parts.flatMap (fun p => if s.delivers p then
    (s.poisonsAt (some f.core) p.loc p.len).map (fun e => (f.callee p, e)) else [])) ++ far).eraseDups)

/-- The gang consumes the first of the errors that an access meets, with the next as a second cause; without one, `go`. -/
def State.consumeAll (s : State) (f : Flight) (es : List (Option Nat × Nat × Bool × Nat)) (go : State) : State :=
  match es with
  | [] => go
  | e :: r => s.consume f.gid e.1 e.2 ((r.find? (fun d => d.2 != e.2)).map (fun d => d.2.1))

/-- The poison that another device delivered with its answer, which is consumed here (spec 19, R431). -/
def State.farPoison (s : State) (f : Flight) (mark : Option (Fin 16)) : List (Option Nat × Nat × Bool × Nat) :=
  match mark, f.parts.find? (fun p => (match p.loc with | .dom _ => true | _ => false) && s.delivers p) with
  | some d, some p => [(f.callee p, 0x140 + d.val, false, match p.loc with | .dom pa => pa | _ => 0)]
  | _, _ => []

/-- The poison mark that another device delivers with the data of a place, if it delivers one, and of which level, is its own
to say (spec 19, R431; log 2). -/
def farMark (ctr : Nat) : Loc → Option (Nat × Bool × Nat)
  | .dom pa => match Config.freeChoice ctr % 4 with
    | 0 => none
    | 1 => some (0x143, false, pa)
    | 2 => some (0x14A, false, pa)
    | _ => some (0x14B, false, pa)
  | _ => none

/-- The mark that another device may deliver for an access that answers by itself. -/
def State.freePoison (s : State) (f : Flight) : List (Option Nat × Nat × Bool × Nat) :=
  match f.parts.find? (fun p => p.loc.remote && s.delivers p) with
  | some p => ((farMark s.freeCtr p.loc).map (fun e => (f.callee p, e))).toList
  | none => []

/-- The poison that a read of places on this device or another meets. -/
def State.anyPoison (s : State) (l : List (Loc × Nat)) : Option (Nat × Bool × Nat) :=
  l.findSome? (fun p => s.poisonAt none p.1 p.2) <|> (l.find? (fun p => p.1.remote)).bind (fun p => farMark s.freeCtr p.1)

/-- Bytes that another device or a host answers with: free (log 2). -/
def farBytes (ctr n : Nat) : List Byte := (List.range n).map (fun i => (Config.freeWord (ctr + i)).setWidth 8)

/-- Where an engine's access of `n` bytes leads, for function `f`: memory, a register, another device or a host window that
is not refused at the core (spec 13, R348, R352; spec 20, R463). -/
def State.reach (s : State) (f pa n : Nat) (k : Need) : Option Loc :=
  match s.paKind pa with
  | .mem => some (.mem pa)
  | .reg => some (.reg pa)
  | .dom => if s.domRefused pa then none else some (.dom pa)
  | .host => if s.hostRefused f pa n k then none else some (.host pa)
  | .reserved => none

/-- What the L1s hold of `n` bytes at a place leaves them, for a reader that is no core (spec 04, R110; log 8). -/
def State.gather (s : State) (l : Loc) (n : Nat) : State :=
  match l with
  | .mem pa => s.cleanAt none pa n
  | _ => s

/-- Read `n` bytes at a place for an engine; another device or a host is asked for them. -/
def State.fetchLoc (s : State) (p : Party) (l : Loc) (n : Nat) : List Byte × State :=
  let far (s : State) : List Byte × State := (farBytes s.freeCtr n, { s with freeCtr := s.freeCtr + n })
  match l with
  | .dom pa => far (s.domSend pa (.load (pa % 2 ^ 44) n))
  | .host pa => far (s.hostSend p none pa none n)
  | .mem pa =>
    let s := if p.core.isNone then s.gather l n else s
    (s.readLoc p.core (.mem pa) n, s)
  | l => (s.readLoc p.core l n, s)

/-- The poison that such a read meets, also that of a line that leaves an L1 for it, and the state after the free value that says
so. -/
def State.fetchPoison (s : State) (l : Loc) (n : Nat) : Option (Nat × Bool × Nat) × State :=
  if l.remote then (farMark s.freeCtr l, { s with freeCtr := s.freeCtr + 1 })
  else
    let s := s.gather l n
    (s.poisonAt none l n, s)

/-! ### `BRLD` (R203) -/

/-- The fragment of wave `w` that waits on access `key` at an instruction that satisfies `p`, as index and fragment. -/
def State.fragOn (s : State) (w key : Nat) (p : Instr → Bool) : Option (Nat × Frag) :=
  (Map.find s.waves w).bind (fun v => (v.frags.zipIdx.find? (fun e => match e.1.st with
    | .wait wt => p wt.instr && wt.aux.head? == some key
    | _ => false)).map (fun e => (e.2, e.1)))

/-- A `BRLD`. -/
def isBrld : Instr → Bool
  | .brld _ => true
  | _ => false

/-- The wait of fragment `f`, the `i`-th of wave `w`, ends in a cause for its lanes with a true guard; the others go on. -/
def State.waitCause (s : State) (w i : Nat) (f : Frag) (code addr : Nat) : State :=
  let off := f.mask &&& ~~~f.waitOn
  let s := s.spliceFrag w i ((if off = 0 then [] else [{ f with mask := off, st := .ready, pc := f.pc + 8 }])
    ++ [{ f with mask := f.waitOn }])
  s.lateCause w f.waitOn f.hnd f.pc code addr (match f.st with | .wait wt => encode wt.instr | _ => none)

/-- The record that a `BRLD` loaded arrives: written for the threads of the fragment's gate depth and the fragment goes on, or
refused with 0x06C + D. -/
def State.brldArrive (s : State) (w gid key target : Nat) (l : List Byte) : State :=
  let r := BitVec.ofNat 128 (ofBytes l)
  match s.fragOn w key isBrld with
  | none => s
  | some (i, f) =>
    match recRefusal r with
    | none =>
      let depth := (((lowLane f.mask).bind (s.laneThread w)).map (·.outer.length)).getD 0
      (s.updGroup gid (fun g => g.putBuf depth target key r)).spliceFrag w i
        [{ f with st := .ready, pc := f.pc + 8 }]
    | some d => s.waitCause w i f (0x06C + d) 0

/-! ### Caches (spec 01, R11, R12; spec 04, R93, R110, R112) -/

/-- The context in which an access in flight was issued. -/
def Flight.ctx (f : Flight) : Ctx := { die := dieOf f.core, func := f.func, pasid := f.pasid, domain := f.domain }

/-- The cache policy of an access (spec 06, R142). -/
def cacheOf : Instr → Cache
  | .ld a => a.cache
  | .ldw a => a.cache
  | .brld a => a.cache
  | .st a => a.cache
  | _ => .normal

/-- Whether an access passes through the L1 of its core: those of loads and ordinary stores, but for lines that are cached in the
L2 only, and pages with NC set. -/
def State.throughL1 (s : State) (f : Flight) (p : Part) : Bool :=
  f.path = 0 && !isAtomic f.instr && !isWaiteq f.instr && (match f.instr with | .rel _ => false | _ => true)
    && cacheOf f.instr != .l2only && !s.uncached f.ctx p.addr

/-- Core `c` reads a place past its L1. -/
def State.useAt (s : State) (c : Nat) (l : Loc) (n : Nat) : State :=
  match l with
  | .scr k o => s.pinRange k o n
  | .mem pa => s.readL2 c (unitsOf pa n)
  | _ => s

/-- What the reading of a part brings into the caches and physical pages of core `c`. -/
def State.bringPart (s : State) (f : Flight) (p : Part) : State :=
  match p.loc with
  | .scr k o => s.pinRange k o p.len
  | .mem pa =>
    let late := cacheOf f.instr = .evfirst
    (unitsOf pa p.len).foldl (fun (s : State) u =>
      if s.throughL1 f p then
        (if (s.l1Line f.core u).isSome then s else s.readL2 f.core [u] late).fillL1 f.core u late
      else if isWaiteq f.instr || isAtomic f.instr || s.uncached f.ctx p.addr then s
      else s.readL2 f.core [u] late) s
  | _ => s

/-- What the reading of an access brings into the caches and physical pages of its core. -/
def State.bring (s : State) (f : Flight) : State := f.parts.foldl (fun (s : State) p => s.bringPart f p) s

/-- The order of an atomic. -/
def orderOf : Instr → Order
  | .atom a => a.order
  | .atoms a => a.order
  | .atomf a => a.order
  | .cas a => a.order
  | .cass a => a.order
  | _ => .relaxed

/-- Whether an access is a release side that covers the stores of its group. -/
def isRelease (i : Instr) : Bool :=
  match i with
  | .rel a => a.paths.getLsbD 0
  | i => orderOf i == .rel || orderOf i == .ar

/-- Whether an access is an acquire side. -/
def isAcquire (i : Instr) : Bool :=
  match i with
  | .acq _ => true
  | .waiteq a => a.acq
  | i => orderOf i == .acq || orderOf i == .ar

/-- The releases that an access with the parts `ps` reads are pulled first, and the one it makes is recorded (spec 04, R112). -/
def State.pullParts (s : State) (i : Instr) (ps : List Part) : State :=
  if isAcquire i then s.pullBy (fun l => ps.any (fun p => p.loc.overlaps p.len l 8)) else s

def State.recordParts (s : State) (i : Instr) (gid : Nat) (ps : List Part) : State :=
  if isRelease i then ps.foldl (fun (s : State) p => s.recordRelease gid p.loc) s else s

/-! ### The events -/

/-- The data of a load or a returning atomic arrives (spec 04, R103). `remote` gives, for each part, what another device
or a host answered. -/
def State.arriveData (s : State) (key : Nat) (remote : List W128) (mark : Option (Fin 16)) : State :=
  match Map.find s.flights key with
  | none => s
  | some f =>
    if raisesOf f.instr != some 0 || !s.mayPerform f || s.cutOff f then s
    else
      let s := s.sendFlight key
      s.consumeAll f (s.flightErrors f (s.farPoison f mark))
       (let q := s.partyFor f
        let s := ((s.pullParts f.instr f.parts).bring f).recordParts f.instr f.gid f.parts
        let r := f.asks.zipIdx.foldl (fun (a : List (Part × List Byte) × State) e =>
          let l := a.2.performPart f.instr q e.1 (remote.getD e.2 0)
          (a.1 ++ [(e.1, l.1)], l.2)) (([] : List (Part × List Byte)), s)
        let one := (r.1.head?.map Prod.snd).getD []
        let s := match f.instr with
          | .brld a => r.2.brldArrive f.wave f.gid key a.target.val one
          | .ldw _ => f.parts.foldl (fun (s : State) p => s.deliverPart key f.gid f.instr p one) r.2
          | _ => r.1.foldl (fun (s : State) (e : Part × List Byte) => s.deliverPart key f.gid f.instr e.1 e.2) r.2
        s.landFlight key 0)

def execMemoryResponse (key : Nat) (remote : List W128) (mark : Option (Fin 16)) (s : State) :
    Host.Outcome State Fault Refusal :=
  .next (s.arriveData key remote mark)

/-- Whether a place is in memory, or nowhere at all. -/
def Loc.inMemory : Loc → Bool
  | .mem _ => true
  | .nil => true
  | _ => false

/-- The writes of a store's parts on this device, lanes in ascending order, so that of several lanes that write one byte the highest
remains (spec 04, R91): an ordinary store stays in its core's L1 (R110), but for one that has a part beside memory or in a page
that is not cached. -/
def State.storeParts (s : State) (f : Flight) (q : Party) : State :=
  let here : List Part := f.parts.filter (fun p => !p.loc.remote)
  let ws := memWrites (here.map (fun p => (p.loc, p.data)))
  if here.all (fun p => p.loc.inMemory && s.throughL1 f p) then
    let s := s.storeL1 f.core f.gid ws
    if cacheOf f.instr = .evfirst then (unitsWritten ws).foldl (fun (s : State) u => s.fillL1 f.core u true) s else s
  else
    let s := match f.instr with
      | .rel _ => here.foldl (fun (s : State) (p : Part) => s.homeOf q.core p.loc p.len true) s
      | _ => s
    (s.recordParts f.instr f.gid here).writeLocs q (here.map (fun (p : Part) => (p.loc, p.data)))

/-- A store, or an atomic without return, is performed (spec 04, R103): a host has acknowledged what went to it. -/
def State.performStore (s : State) (key : Nat) : State :=
  match Map.find s.flights key with
  | none => s
  | some f =>
    if raisesOf f.instr != some 1 || !s.mayPerform f || s.cutOff f then s
    else
      let s := s.sendFlight key
      if s.host.sent.any (fun e => e.key == some key) then s
      else
        let q := s.partyFor f
        let s := if isAtomic f.instr then
            f.parts.foldl (fun (s : State) p => (s.performPart f.instr q p 0).2)
              ((s.pullParts f.instr f.parts).recordParts f.instr f.gid f.parts)
          else s.storeParts f q
        s.landFlight key 1

def execStorePerformed (key : Nat) (s : State) : Host.Outcome State Fault Refusal := .next (s.performStore key)

/-! ### `WAITEQ` (R209) -/

/-- The element a `WAITEQ` reads in a part: on another device or behind a host window its value is not this device's to
say (log 2). -/
def State.waitValue (s : State) (p : Part) (i : Nat) : List Byte :=
  if p.loc.remote then toBytes p.len (Config.freeWord (s.freeCtr + 1 + i)).toNat else s.readLoc none p.loc p.len

/-- Whether a part of a `WAITEQ` is satisfied. -/
def State.waitMet (s : State) (ne : Bool) (p : Part) (i : Nat) : Bool := (s.waitValue p i == p.data) != ne

/-- The element a `WAITEQ` reads in a part is translated again at each look: a page may have been taken away since (spec 04, R84,
R85). The part with its place, or how its lane leaves. -/
def State.placePart (s : State) (f : Flight) (g : Group) (p : Part) : (Part ⊕ Formed) × State :=
  match p.loc with
  | .scr _ _ => (.inl p, s)
  | _ => match s.placeVirt { g with pasid := f.pasid, domain := f.domain } .read 0 p.addr p.len with
    | (.at' l _, s) => (.inl { p with loc := l }, s)
    | (q, s) => (.inr q, s)

/-- The parts of a `WAITEQ` with their places, up to the first whose lane leaves, with how it does. -/
def State.placeAll (s : State) (f : Flight) (g : Group) : List Part → List Part × Option (Part × Formed) × State
  | [] => ([], none, s)
  | p :: r => match s.placePart f g p with
    | (.inr q, s) => ([], some (p, q), s)
    | (.inl p, s) =>
      let q := s.placeAll f g r
      (p :: q.1, q.2.1, q.2.2)

/-- The lane of part `p` of access `key` leaves a `WAITEQ` whose element can no longer be read: it parks, or takes a cause. -/
def State.waitLeaves (s : State) (key : Nat) (f : Flight) (p : Part) (q : Formed) : State :=
  match s.fragOn f.wave key isWaiteq with
  | none => s
  | some (i, fr) =>
    let m : Mask := BitVec.ofNat 32 (2 ^ p.lane) &&& fr.mask
    let left := f.parts.filter (fun o => o.lane != p.lane)
    let s := { s with flights := if left.isEmpty then Map.del s.flights key else Map.put s.flights key { f with parts := left } }
    let rest := if fr.mask &&& ~~~m = 0 then [] else [fr.without m]
    match q with
    | .park k a => s.spliceFrag f.wave i (rest ++ [{ fr with mask := m, st := .parked k a }])
    | .cause c a => (s.spliceFrag f.wave i (rest ++ [{ fr with mask := m }])).lateCause f.wave m fr.hnd fr.pc c a (encode f.instr)
    | _ => s

/-- Look again, with a request where they are not on this device, at the elements that the lanes of access `key` wait for;
satisfied lanes go on at PC + 8 as their own fragment. -/
def State.waiteqTry (s : State) (key : Nat) : State :=
  match Map.find s.flights key with
  | none => s
  | some f =>
    match f.instr, Map.find s.groups f.gid with
    | .waiteq a, some g =>
      if !s.mayPerform f then s
      else
      let placed := s.placeAll f g f.parts
      let s := placed.2.2
      match placed.2.1 with
      | some (p, q) => s.waitLeaves key f p q
      | none =>
      let f := { f with parts := placed.1 }
      if s.cutOff f then s
      else s.consumeAll f (s.flightErrors f (s.freePoison f))
       (let s := { s with flights := Map.put s.flights key f }
        let s := if f.sent then s else s.sendFlight key
        let s := f.parts.foldl (fun (s : State) p => s.homeOf (some f.core) p.loc p.len false) s
        let hit := (f.parts.zipIdx.filter (fun e => s.waitMet a.ne e.1 e.2)).map Prod.fst
        let s := if f.parts.any (fun p => p.loc.remote) then { s with freeCtr := s.freeCtr + f.parts.length + 1 } else s
        match s.fragOn f.wave key isWaiteq with
        | none => s
        | some (i, fr) =>
          let left := f.parts.filter (fun p => !hit.contains p)
          let s := s.pullParts f.instr hit
          let s := { s with flights := if left.isEmpty then Map.del s.flights key
                                       else Map.put s.flights key { f with parts := left, sent := false } }
          s.releaseLanes f.wave i fr (maskOf (hit.map (·.lane)) &&& fr.mask))
    | _, _ => s

def execWaiteq (a : WaiteqArgs) (s : State) : Host.Outcome State Fault Refusal :=
  let n := if a.wide then 8 else 4
  issue (.waiteq a) (fun x s =>
    let p := s.formLanes x.w x.on (formMem a.m (if a.scr then .scr else .virt .read) 0 n x)
    let fs := p.1.map (fun e => (e.1, match e.2 with | .skip ad => Formed.cause 0x0A0 ad | q => q))
    match mismatchOf fs with
    | some (c, ad) => p.2.killGroup x.gid { cause := c, addr := ad }
    | none =>
      let s := p.2
      let ps := s.partsOf x fs n (opBytes a.d n x.v)
      let key := s.nextKey
      let s := s.launchFlight x 0 (streamMask a.m.str.val) none [] ps [] {}
      let ends := (lanesLeave x fs).map (fun e => (e.1, match e.2 with
        | .go pc => if ps.any (fun p => p.lane == e.1) then LaneEnd.wait else .go pc
        | q => q))
      (s.finish x (some { instr := x.i, on := x.on, vals := [], aux := [key] }) ends).waiteqTry key) s

def execWaiteqSatisfied (wave frag : Nat) (s : State) : Host.Outcome State Fault Refusal :=
  .next (match s.frag wave frag with
    | none => s
    | some fr => match fr.st with
      | .wait wt => if isWaiteq wt.instr then s.waiteqTry (wt.aux.headD 0) else s
      | _ => s)

end Sys2Proof.Machine
end

