-- ==== Sys2Proof/Machine/Copy.lean ====
section
/-!
DEFINITION. Tensor copies (spec 08, R210 to R213; spec 04, R88, R95, R101, R102; spec 18, R413; spec 20, R464).
-/

namespace Sys2Proof.Machine

/-! ### The descriptor (R210, R211) -/

/-- Field `i` of a copy descriptor: SIDX, DIDX, COLS, ROWS, SPITCH, DPITCH. -/
def descAt (d : List Nat) (i : Nat) : Nat := d.getD i 0

/-- Bytes of a box. -/
def boxBytes : Nat := 4096

/-- Boxes of a copy of `rows` rows of `rb` bytes. -/
def boxCount (rb rows : Nat) : Nat :=
  if rb ≤ boxBytes then ceilDiv rows (boxBytes / rb) else rows * ceilDiv rb boxBytes

/-- The causes of a descriptor (R413; spec 17, R389). -/
def descCodes (d : List Nat) (src dst : W128) : List Nat :=
  let e := recEsize src
  let cols := descAt d 2
  let rows := descAt d 3
  (if cols = 0 ∨ 2 ^ 31 < cols then [0x060] else []) ++ (if rows = 0 ∨ 65536 < rows then [0x061] else [])
    ++ (if 2 ^ 24 < cols * rows * e then [0x062] else [])
    ++ (if cols ≠ 0 ∧ 4096 < boxCount (cols * e) rows then [0x063] else [])
    ++ (if recEsizeCode src ≠ recEsizeCode dst then [0x064] else [])
    ++ (if descAt d 6 ≠ 0 ∨ descAt d 7 ≠ 0 then [0x065] else [])

/-- The elements of box `n`, as row and column, ascending. -/
def boxElems (e cols rows n : Nat) : List (Nat × Nat) :=
  let rb := cols * e
  if rb ≤ boxBytes then
    let q := boxBytes / rb
    (List.range' (n * q) (min q (rows - n * q))).flatMap (fun r => (List.range cols).map (fun c => (r, c)))
  else
    let p := ceilDiv rb boxBytes
    let c := n % p * (boxBytes / e)
    (List.range' c (min (boxBytes / e) (cols - c))).map (fun k => (n / p, k))

/-- The source and destination index of an element. -/
def elemIndices (d : List Nat) (rc : Nat × Nat) : Nat × Nat :=
  (descAt d 0 + rc.1 * descAt d 4 + rc.2, descAt d 1 + rc.1 * descAt d 5 + rc.2)

/-! ### Issue (R212, R213) -/

/-- The weight-store regions a `COPYW` is accepted to write: those of its elements that are open and not being sealed. -/
def State.copyRegions (s : State) (d : List Nat) (dst : W128) : List Nat :=
  (List.range (descAt d 3)).foldl (fun rs r => (List.range (descAt d 2)).foldl (fun rs c =>
    let n := elemAddr dst (elemIndices d (r, c)).2 / 2 ^ 23
    if n < 64 && !(s.region n).sealing && !(s.region n).isSealed && !rs.contains n then rs ++ [n] else rs) rs) []

/-- The issue of a copy: its descriptor is checked, its token is marked pending and counted in every lane, and it joins
the core's queue. -/
def copyBody (sb : Opnd) (ra rb : Fin 16) (tok : Opnd) (weight ss sd : Bool) (str : Fin 16) (x : Iss) (s : State) : State :=
  match (lowLane x.on).bind (fun l => s.laneThread x.w l) with
  | none => s.advance x
  | some t =>
    let d := (List.range 8).map (fun i => (opNth sb i x.v t).toNat)
    let src := x.g.buf ra.val
    let dst := x.g.buf rb.val
    match minCode (descCodes d src dst ++ (if x.on = x.fr.mask then [] else [if weight then 0x067 else 0x066])) with
    | some c => s.faultLanes x x.on c
    | none =>
      match tok with
      | .g k =>
        let tids := s.tidsOf x.w x.on
        let deps := tids.flatMap (fun t => s.localDeps t 1 (streamMask str.val) [])
        let key := s.nextKey
        let q : Copy :=
          { key := key, gid := x.gid, func := x.g.func, pasid := x.g.pasid, domain := x.g.domain, weight := weight,
            ss := ss, sd := sd, stream := str.val,
            toks := (lanesOf x.on).filterMap (fun l => (s.laneTid x.w l).map (fun t => (t, l))),
            call := t.call, token := k.val, desc := d, src := src, dst := dst,
            nbox := boxCount (descAt d 2 * recEsize src) (descAt d 3), next := 0, parked := none,
            deps := deps.eraseDups, regions := if weight then s.copyRegions d dst else [], old := [] }
        let s := { s with nextKey := key + 1 }
        let s := s.mapLanes x.w x.on (fun _ t => { t.bump 2 (· + 1) with pend := Map.put t.pend k.val key })
        (s.updCore x.g.core (fun c => { c with copyq := c.copyq ++ [q] })).advance x
      | _ => s.advance x

def execCopy (a : CopyArgs) (s : State) : Host.Outcome State Fault Refusal :=
  issue (.copy a) (copyBody a.sb a.ra a.rb a.tok false a.ss a.sd a.str) s

def execCopyw (a : CopywArgs) (s : State) : Host.Outcome State Fault Refusal :=
  issue (.copyw a) (copyBody a.sb a.ra a.rb a.tok true a.ss false a.str) s

/-! ### Tokens (spec 04, R101; spec 20, R464) -/

/-- The copy ends: it leaves the queue and its threads' counters, and its token is written in every lane. -/
def State.endCopy (s : State) (q : Copy) (token : Nat) : State :=
  let full := s.fullOf q.gid
  let s := q.toks.foldl (fun (s : State) t => s.updThread t.1 (fun t =>
    (t.deliver q.call q.key full q.token (BitVec.ofNat 32 token)).doneWith 2 q.call q.key)) s
  { s with cores := Map.mapv s.cores (fun _ c => { c with copyq := c.copyq.filter (fun p => p.key != q.key) }) }.reap

/-- Change a copy in its queue. -/
def State.updCopy (s : State) (key : Nat) (f : Copy → Copy) : State :=
  { s with cores := Map.mapv s.cores (fun _ c =>
      { c with copyq := c.copyq.map (fun q => if q.key = key then f q else q) }) }

/-- The copy ends in a fault at its present box: the fault token, and an asynchronous cause that names every thread whose
token it marked. -/
def State.failCopy (s : State) (q : Copy) (code addr : Nat) : State :=
  (s.endCopy q (2 ^ 31 + code % 512 * 2 ^ 16 + q.next)).raiseAsync q.gid
    { code := code, tids := q.toks.map Prod.fst, addr := BitVec.ofNat 64 addr }

/-! ### One box (R210, R211) -/

/-- The place `i` bytes on. -/
def Loc.plus (l : Loc) (i : Nat) : Loc :=
  match l with
  | .mem a => .mem (a + i)
  | .scr g o => .scr g (o + i)
  | .ws a => .ws (a + i)
  | .reg a => .reg (a + i)
  | .dom a => .dom (a + i)
  | .host a => .host (a + i)
  | .nil => .nil

/-- The byte at a place as writes `ws` left it, last first. -/
def byteOver (ws : List (Loc × List Byte)) (l : Loc) : Option Byte :=
  ws.foldl (fun b w => match (List.range w.2.length).find? (fun i => w.1.plus i == l) with
    | some i => some (w.2.getD i 0)
    | none => b) none

/-- The bytes at a place after the writes `ws`, as core `c` reads them. -/
def State.readOver (s : State) (c : Option Nat) (ws : List (Loc × List Byte)) (l : Loc) (n : Nat) : List Byte :=
  let base := s.readLoc c l n
  if ws.any (fun w => w.1.overlaps w.2.length l n) then
    (List.range n).map (fun i => (byteOver ws (l.plus i)).getD (base.getD i 0))
  else base

/-- What one copied element comes to: its chunks in and out. -/
structure Moved where
  src : Elem
  dst : Elem
deriving DecidableEq, Repr

/-- A group in the context a copy was issued in. -/
def Copy.group (q : Copy) (g : Group) : Group := { g with pasid := q.pasid, domain := q.domain }

/-- An access of a copy to a host address is refused (spec 13, R348). -/
def refuseHost (d : Nat) : Elem → Elem
  | .places a l => if l.any (fun p => match p with | .host _ => true | _ => false) then .stop (.cause (0x098 + d) a)
    else .places a l
  | e => e

/-- Form the source and destination of an element. -/
def State.formMove (s : State) (q : Copy) (g : Group) (rc : Nat × Nat) : Moved × State :=
  let n := recEsize q.src
  let (i, j) := elemIndices q.desc rc
  let (a, s) := s.formWide q.gid (q.group g) q.src (if q.ss then .scr else .virt .read) 3 i n
  let (b, s) := s.formWide q.gid (q.group g) q.dst
    (if q.weight then .wsw q.regions else if q.sd then .scr else .virt .write) 4 j n
  ({ src := refuseHost 3 a, dst := refuseHost 4 b }, s)

/-- Why an element stops the copy, if it does. -/
def Moved.stop (m : Moved) : Option Formed :=
  match m.src, m.dst with
  | .stop f, _ => some f
  | _, .stop f => some f
  | _, _ => none

/-- The places an access has. -/
def Elem.locs : Elem → List Loc
  | .places _ l => l
  | _ => []

/-- Whether places of `n` bytes of two lists overlap. -/
def anyOverlap (n : Nat) (a b : List Loc) : Bool := a.any (fun p => b.any (fun q => p.overlaps n q n))

/-- Whether the outcome of a box depends on the order of its elements, which is not given (R210, R211). -/
def boxTangled (n : Nat) (ms : List Moved) : Bool :=
  anyOverlap n (ms.flatMap (fun m => m.src.locs)) (ms.flatMap (fun m => m.dst.locs))
    || ms.zipIdx.any (fun e => anyOverlap n e.1.dst.locs ((ms.drop (e.2 + 1)).flatMap (fun m => m.dst.locs)))

/-- What the copying of a box has done so far: writes in order, what bytes held before the copy, poisoned destinations and
whether `FINJ` made the poison, and the next free value. -/
structure BoxAcc where
  writes : List (Loc × List Byte)
  old : List (Loc × List Byte)
  bad : List (Loc × Bool)
  ctr : Nat
deriving DecidableEq, Repr

/-- The value copied from a chunk: where the copy itself has written a byte of it, each byte is the value before the copy
or the one it wrote, freely (R210); the value of another device's memory is free (log 2). -/
def State.copiedChunk (s : State) (c : Option Nat) (a : BoxAcc) (l : Loc) (n : Nat) : List Byte × Nat :=
  if l.remote then
    (toBytes n ((Config.freeWord a.ctr).toNat + (Config.freeWord (a.ctr + 1)).toNat * 2 ^ 64), a.ctr + 2)
  else if a.old.any (fun w => w.1.overlaps w.2.length l n) then
    let now := s.readOver c a.writes l n
    ((List.range n).map (fun i => if Config.freeChoice (a.ctr + i) % 2 = 0 then now.getD i 0
      else (byteOver (a.old.reverse) (l.plus i)).getD (now.getD i 0)), a.ctr + n)
  else (s.readOver c a.writes l n, a.ctr)

/-- Copy one chunk of `n` bytes to `d`; `src` is none for a source out of extent, which reads zero. -/
def State.copyChunk (s : State) (c : Option Nat) (n : Nat) (a : BoxAcc) (src : Option Loc) (d : Loc) : BoxAcc :=
  let v := match src with
    | some l => s.copiedChunk c a l n
    | none => (List.replicate n 0, a.ctr)
  { writes := a.writes ++ [(d, v.1)]
    old := a.old ++ [(d, s.readOver c a.writes d n)]
    bad := match src.bind (fun l => s.poisonAt c l n <|> farMark v.2 l) with
      | some p => a.bad ++ [(d, p.2.1)]
      | none => a.bad
    ctr := if (src.map Loc.remote).getD false then v.2 + 1 else v.2 }

/-- Copy one element in chunks of `n` bytes. -/
def State.copyElem (s : State) (c : Option Nat) (n : Nat) (a : BoxAcc) (m : Moved) : BoxAcc :=
  (m.dst.locs.zipIdx).foldl (fun a e => s.copyChunk c n a (m.src.locs[e.2]?) e.1) a

/-- Poison the unit of a place; a copied mark keeps that `FINJ` made it (spec 19, R430, R450). -/
def State.poisonLoc (s : State) (l : Loc) (inj : Bool) : State :=
  match l with
  | .mem pa => s.poisonLine pa inj
  | .ws a => (s.poisonWs 0 (a / 128)).poisonWs 1 (a / 128)
  | .scr k o => s.updGroup k (fun g =>
      { g with scrPoison := if g.scrPoison.contains (o / 128) then g.scrPoison else o / 128 :: g.scrPoison
               scrInjected := if inj && !g.scrInjected.contains (o / 128) then o / 128 :: g.scrInjected else g.scrInjected })
  | _ => s

/-- Write elements of a copy, in an order that is free where it matters. -/
def State.copyElems (s : State) (q : Copy) (ms : List Moved) : State :=
  let n := min (recEsize q.src) 16
  let core : Option Nat := (Map.find s.groups q.gid).map (·.core)
  let s := match core with
    | some c => (ms.flatMap (fun (m : Moved) => m.src.locs)).foldl (fun (s : State) l => s.useAt c l n) s
    | none => s
  let ctr := s.freeCtr
  let tangled := boxTangled n ms
  let order := if tangled then
      (sortBy (fun a b => Config.freeChoice (ctr + a.2) ≤ Config.freeChoice (ctr + b.2)) ms.zipIdx).map Prod.fst
    else ms
  let a := order.foldl (s.copyElem core n)
    { writes := [], old := q.old, bad := [], ctr := if tangled then ctr + ms.length else ctr }
  let s := { s with freeCtr := a.ctr }
  let s := (s.writeLocs { Party.of q.func with core := core } a.writes).updCopy q.key (fun q => { q with old := a.old })
  let s := ms.foldl (fun (s : State) m => m.src.locs.foldl (fun (s : State) l => match l with
    | .dom pa => s.domSend pa (.load (pa % 2 ^ 44) n)
    | _ => s) s) s
  a.bad.foldl (fun (s : State) d => s.poisonLoc d.1 d.2) s

/-- Form elements for their effect on the state. -/
def State.formMoves (s : State) (q : Copy) (g : Group) (es : List (Nat × Nat)) : List Moved × State :=
  es.foldl (fun (p : List Moved × State) e =>
    let r := p.2.formMove q g e
    (p.1 ++ [r.1], r.2)) (([] : List Moved), s)

/-- Serve the next box of copy `q`. Where an element stops it, which of those is met first, and which others are already
written, is free (R464); a resolvable fault parks the copy, and its box is copied again in full (R102). -/
def State.serveBox (s : State) (q : Copy) (g : Group) : State :=
  let es := boxElems (recEsize q.src) (descAt q.desc 2) (descAt q.desc 3) q.next
  let halts := es.filter (fun e => (s.formMove q g e).1.stop.isSome)
  match halts with
  | [] =>
    let r := s.formMoves q g es
    let s := r.2.copyElems q r.1
    if q.next + 1 = q.nbox then s.endCopy q 1 else s.updCopy q.key (fun q => { q with next := q.next + 1 })
  | h :: hs =>
    let ctr := s.freeCtr
    let at' := (h :: hs).getD (Config.freeChoice ctr % (h :: hs).length) h
    let done := (es.zipIdx.filter (fun e => !(h :: hs).contains e.1 && Config.freeChoice (ctr + 1 + e.2) % 2 == 0)).map
      Prod.fst
    let s := { s with freeCtr := ctr + 1 + es.length }
    let r := s.formMoves q g done
    let s := r.2.copyElems q r.1
    let m := s.formMove q g at'
    match m.1.stop with
    | some (.cause c a) => m.2.failCopy q c a
    | some (.park k _) => m.2.updCopy q.key (fun q => { q with parked := some k })
    | some (.mismatch c a) => m.2.killGroup q.gid { cause := c, addr := a }
    | _ => m.2

/-- The places of the boxes that a copy has left. -/
def State.copyPlaces (s : State) (q : Copy) : List Loc :=
  match Map.find s.groups q.gid with
  | none => []
  | some g => (List.range' q.next (q.nbox - q.next)).flatMap (fun n =>
      (boxElems (recEsize q.src) (descAt q.desc 2) (descAt q.desc 3) n).flatMap (fun e =>
        let m := (s.formMove q g e).1
        m.src.locs ++ m.dst.locs))

/-- The virtual addresses of the elements that a copy has left, also of those that have no place now. -/
def Copy.virtuals (q : Copy) : List Nat :=
  let n := recEsize q.src
  (List.range' q.next (q.nbox - q.next)).flatMap (fun k =>
    (boxElems n (descAt q.desc 2) (descAt q.desc 3) k).flatMap (fun e =>
      let ij := elemIndices q.desc e
      (if !q.ss && inExtent q.src ij.1 n then [elemAddr q.src ij.1] else [])
        ++ (if !q.sd && !q.weight && inExtent q.dst ij.2 n then [elemAddr q.dst ij.2] else [])))

/-- Whether a thread orders copy `q` behind copy `p`, which it issued before: they touch overlapping bytes (spec 04, R106, rule
1), by their places or, since an element of a page that is away has none, by their addresses in one address space. -/
def State.copyAfter (s : State) (p q : Copy) : Bool :=
  p.toks.any (fun t => q.toks.any (fun u => u.1 == t.1))
    && ((s.copyPlaces p).any (fun a => (s.copyPlaces q).any (fun b =>
        a.overlaps (min (recEsize p.src) 16) b (min (recEsize q.src) 16)))
      || (p.func == q.func && p.pasid == q.pasid && p.virtuals.any (fun a => q.virtuals.any (fun b =>
        a < b + recEsize q.src && b < a + recEsize p.src))))

/-- The copy whose box the engine of core `c` takes next: the oldest that is not stopped, not saved with its group, and
not ordered behind an access or copy under way. R211 does not say whether a younger copy is served while local order holds an
older one; here it is (log 71). -/
def State.nextCopy (s : State) (c : Nat) : Option Copy :=
  let cs := (s.core c).copyq
  (cs.zipIdx.find? (fun e => e.1.parked.isNone && !e.1.deps.any s.isLive
    && (match Map.find s.groups e.1.gid with
        | some g => g.st != .saved
        | none => false)
    && !(cs.take e.2).any (fun p => s.copyAfter p e.1))).map Prod.fst

def execCopyBox (core : Nat) (s : State) : Host.Outcome State Fault Refusal :=
  .next (match s.nextCopy core with
    | none => s
    | some q => match Map.find s.groups q.gid with
      | none => s
      | some g => s.serveBox q g)

end Sys2Proof.Machine
end

