-- ==== Sys2Proof/Machine/Fetch.lean ====
section
/-!
DEFINITION. The fetch of an instruction (spec 06, R133; spec 17, R388, R390, R396, R399; spec 20, R459), and the runs of an
issue slot (spec 11, R309, R310, R312).
-/

namespace Sys2Proof.Machine

/-! ### Fetch -/

/-- How a fetch ends: with a word, with a cause, on a fault record, or on poison. -/
inductive Fetched where
  | word (w : IWord)
  | cause (code : Nat)
  | park (rec' : Nat)
  | poison (p : Nat × Bool × Nat)
deriving DecidableEq, Repr

/-- Fetch the word at `pc` for group `g`, through the instruction cache of its core, from memory as it stands at the issue: spec 04,
R113 leaves open whether a fetch sees a store that no completion covers (log 51). 0x02C for a fatal
translation, 0x02D for a resolvable one that cannot wait, 0x02E for a page with NC set and for what is no memory. -/
def State.fetch (s : State) (g : Group) (pc : VA) : Fetched × State :=
  match s.translate g.ctx pc.toNat .fetch with
  | (.ok t, s) =>
    if t.nc || s.paKind t.pa != .mem then (.cause 0x02E, s)
    else match s.poisonAt none (.mem t.pa) 8 with
      | some p => (.poison p, s)
      | none => (.word (BitVec.ofNat 64 (s.peekNat t.pa 8)), s.fillIcache g.core (t.pa / 128))
  | (.error (.fatal _), s) => (.cause 0x02C, s)
  | (.error (.park c st lv ipa), s) =>
    match s.faultRecord (g.faultRec c st lv ipa pc.toNat true) with
    | (some r, s) => (.park r, s)
    | (none, s) => (.cause 0x02D, s)

/-! ### Runs (R310) -/

/-- The open run of wave `w`, with one instruction more, of the fragment `fr`; a new run where none is open. -/
def State.openRun (s : State) (w : Nat) (v : Wave) (fr : Frag) : State :=
  let live := (s.runFrag w v).isSome
  s.updCore v.core (fun r => { r with slots := r.slots.zipIdx.map (fun e =>
    if e.2 = v.slot then
      { e.1 with isOpen := true, wave := w, count := if live then e.1.count + 1 else 1,
                 lane := (lowLane fr.mask).getD 0 }
    else e.1) })

/-- Core cycles in which a request for a gang of a bounded class is served: 20 µs (spec 11, R316). -/
def servedWithin : Nat := 35000

/-- An instruction of group `gid` issues: if its gang had been refused placement, its request is served, and one served late is
reported under 0x0FC (spec 11, R316; spec 17, R391). -/
def State.served (s : State) (gid : Nat) : State :=
  match (Map.find s.groups gid).bind (fun v => (Map.find s.gangs v.gang).bind (fun g => g.asked.map (fun t => (v, g, t)))) with
  | none => s
  | some (v, g, t) =>
    let s := s.updGang v.gang (fun g => { g with asked := none })
    let l := Map.find s.launches v.lid
    if t + servedWithin < s.tick then s.hostReport
        { cause := 0x0FC, func := v.func, pasid := v.pasid, domain := v.domain, core := v.core,
          lrec := (l.map (·.lrec)).getD 0, gang := g.num, queue := (l.map (·.queue)).getD 0, etag := (l.map (·.etag)).getD 0 }
    else s

/-- The `B` bit of a word. -/
def endsRun (i : Instr) : Bool := ((hdrOfInstr i).map (·.b)).getD false

/-- Whether an instruction whose guard is true in the lanes `on` ends its run whatever its `B` bit: a `YIELD` without a true
guard has no effect (spec 07, R187). -/
def closesRun (i : Instr) (on : Mask) : Bool :=
  match i with
  | .yield _ => on != 0
  | .reform _ => true
  | .hitsort _ => true
  | _ => false

/-- The run of a slot after its 24th instruction, or one that closes it, or with none of the lanes `m` that issued still
ready to go on; else it goes on with the fragment of the lowest of them, an active lane before the others. `live` is the
wave, if it is still there. A run that the instruction has closed already stays closed. -/
def Slot.after (r : Slot) (w : Nat) (close : Bool) (next : Option Nat) : Slot :=
  if !(r.isOpen && r.wave == w) then r
  else match next with
    | none => { r with isOpen := false, last := w }
    | some l => if close || 24 ≤ r.count then { r with isOpen := false, last := w } else { r with lane := l }

/-- State `t` after wave `w` issued `i` from fragment `x.fr`: what becomes of the run. -/
def State.ranOn (t : State) (x : Iss) : State :=
  let next := (Map.find t.waves x.w).bind (fun v =>
    (fragHolding v (t.eligible x.w v) (lanesOf x.on ++ lanesOf x.fr.mask)).map Prod.fst)
  t.updCore x.v.core (fun r => { r with slots := r.slots.zipIdx.map (fun e =>
    if e.2 = x.v.slot then e.1.after x.w (endsRun x.i || closesRun x.i x.on) next else e.1) })

/-- What comes of an issue before the instruction's own effect: the step is over, or the instruction runs. -/
inductive Prep where
  | ended (s : State)
  | run (i : Instr) (s : State)

/-- A failed fetch: in every lane of the fragment; at the handler's first address the gang is killed with 0x162 (spec 17,
R396). -/
def State.fetchFails (s : State) (w : Nat) (v : Wave) (g : Group) (fr : Frag) (code : Nat) : State :=
  if fr.hnd && fr.pc.setWidth 64 == g.hvec then
    s.killGroup v.gid { cause := 0x162, cause2 := v.handler.map (·.code) }
  else s.lateCause w fr.mask fr.hnd fr.pc code 0 none

/-- The issue of fragment `f` of wave `w` up to its instruction: a cause that waits for the wave enters first; then the
fetch, the decoding, and the fragment becomes the one that issues, its run open and its gang served. A fetch that parks closes the run. -/
def State.prepare (s : State) (w f : Nat) : Prep :=
  match Map.find s.waves w with
  | none => .ended s
  | some v =>
    match v.frags[f]?, Map.find s.groups v.gid with
    | some fr, some g =>
      if !s.eligible w v fr then .ended s
      else match s.pendingEntry w with
        | some s => .ended s
        | none =>
          match s.fetch g fr.pc with
          | (.word b, s) => .run (decode b) ((({ s with cur := (w, f) } : State).openRun w v fr).served v.gid)
          | (.cause c, s) => .ended (s.fetchFails w v g fr c)
          | (.park k, s) =>
            if fr.hnd && fr.pc.setWidth 64 == g.hvec then .ended (s.fetchFails w v g fr 0x162)
            else .ended ((s.spliceFrag w f [{ fr with st := .parked k fr.pc.toNat }]).closeRun w)
          | (.poison p, s) => .ended (s.consume v.gid g.callee p)
    | _, _ => .ended s

/-! ### Arbitration (R312) -/

/-- A wave that could issue now: its key, the age and the index of the fragment it would issue. -/
structure Pick where
  wave : Nat
  age : Nat
  frag : Nat
deriving DecidableEq, Repr

/-- The waves bound to a slot that can issue, oldest first. -/
def State.slotPicks (s : State) (c sl : Nat) : List Pick :=
  sortBy (fun a b => a.age < b.age || a.age == b.age && a.wave ≤ b.wave)
    (s.waves.filterMap (fun p => if p.2.core == c && p.2.slot == sl then
        (s.pickFrag p.1).bind (fun i => (p.2.frags[i]?).map (fun fr => Pick.mk p.1 (fragAge p.2 fr) i))
      else none))

/-- Whether the launch that owns a wave arbitrates round-robin. -/
def State.roundRobin (s : State) (w : Nat) : Bool :=
  match (Map.find s.waves w).bind (fun v => Map.find s.groups v.gid) with
  | some g => lrArb (s.recOf g)
  | none => false

/-- Whether the open run of a slot has a fragment to go on with. -/
def State.runLive (s : State) (r : Slot) : Bool :=
  ((Map.find s.waves r.wave).bind (s.runFrag r.wave)).isSome

/-- The wave and fragment that slot `sl` of core `c` issues, if any: while a run is open, only its own. Round-robin goes on from the
age of the fragment that the last run ended with. -/
def State.arbitrate (s : State) (c sl : Nat) : Option (Nat × Nat) :=
  match (s.core c).slots[sl]? with
  | none => none
  | some r =>
    let ok := s.slotPicks c sl
    let own (w : Nat) : Option Pick := ok.find? (fun p => p.wave == w)
    (if s.runLive r then own r.wave
      else if s.roundRobin r.last then
        match Map.find s.waves r.last with
        | none => ok.head?
        | some v =>
          let age := (Map.find v.ages r.lane).getD v.age
          (ok.find? (fun p => age < p.age || age == p.age && r.last < p.wave)).orElse (fun _ => ok.head?)
      else (own r.last).orElse (fun _ => ok.head?)).map (fun p => (p.wave, p.frag))

/-- Whether fragment `f` of wave `w` is what the wave's slot issues now. -/
def State.chosen (s : State) (w f : Nat) : Bool :=
  match Map.find s.waves w with
  | none => false
  | some v => s.arbitrate v.core v.slot == some (w, f)

/-- Every wave and fragment that some slot would issue now. -/
def State.candidates (s : State) : List (Nat × Nat) :=
  ((s.waves.map (fun p => p.2.core)).eraseDups).flatMap (fun c => [0, 1, 2, 3].filterMap (s.arbitrate c))

/-- Whether a wave has a fragment that may issue. -/
def State.waveCanIssue (s : State) (w : Nat) : Bool :=
  match Map.find s.waves w with
  | none => false
  | some v => v.frags.any (fun f => s.eligible w v f)

end Sys2Proof.Machine
end

