-- ==== Sys2Proof/Machine/Macro.lean ====
section
/-!
DEFINITION. What macro-instructions share (spec 10, R268 to R271; spec 03, R72 to R74; spec 04, R88; spec 18, R424): the
operands of each, the issue, memory in a step, and how a step's outcome reaches the lane. The steps themselves are in
Raster, Filter, Rays and Queue.
-/

namespace Sys2Proof.Machine

/-! ### Operands -/

/-- What a macro-instruction names: block base, records (RECA, RECB, RECC), OPX and stream. -/
structure MacOp where
  sb : Opnd
  recs : List (Fin 16)
  opx : Opnd
  str : Nat
deriving DecidableEq, Repr

/-- The operands of the macro-instructions that the sequencer carries out in steps; `HITSORT` has no step. -/
def macOp : Instr → Option MacOp
  | .rastri a => some { sb := a.sb, recs := [a.ra, a.rb], opx := a.tri, str := a.str.val }
  | .traverse a => some { sb := a.sb, recs := [a.ra, a.rb], opx := .z, str := a.str.val }
  | .filter a => some { sb := a.sb, recs := [a.ra], opx := .z, str := a.str.val }
  | .oblend a => some { sb := a.sb, recs := [a.ra, a.rb], opx := a.zsrc, str := a.str.val }
  | .shadeq a => some { sb := a.sb, recs := [a.ra], opx := .z, str := a.str.val }
  | .anyhitNext a => some { sb := a.sb, recs := [a.rb], opx := .z, str := a.str.val }
  | .anyhitAcc a => some { sb := a.sb, recs := [a.rb], opx := a.x, str := a.str.val }
  | .anyhitTerm a => some { sb := a.sb, recs := [a.rb], opx := a.x, str := a.str.val }
  | .anyhitCommit a => some { sb := a.sb, recs := [a.rb], opx := .z, str := a.str.val }
  | .gqpush a => some { sb := a.sb, recs := [a.ra], opx := .z, str := a.str.val }
  | .gqpushClose a => some { sb := a.sb, recs := [a.ra], opx := .z, str := a.str.val }
  | .gqpop a => some { sb := a.sb, recs := [a.ra], opx := .z, str := a.str.val }
  | .hizq a => some { sb := a.sb, recs := [a.ra], opx := .z, str := a.str.val }
  | .macroPrim a => some { sb := a.sb, recs := [a.ra, a.rb, a.rc], opx := a.x, str := a.str.val }
  | .bop a => some { sb := a.sb, recs := [a.ra, a.rb, a.rc], opx := a.x, str := a.str.val }
  | _ => none

/-- The lowest register of a block. -/
def MacOp.base (m : MacOp) : Nat := match m.sb with | .g k => k.val | _ => 0

/-- An `ANYHIT`, which works on the block of a `TRAVERSE` and leaves its STATUS (spec 10, R292). -/
def isAnyhit : Instr → Bool
  | .anyhitNext _ => true
  | .anyhitAcc _ => true
  | .anyhitTerm _ => true
  | .anyhitCommit _ => true
  | _ => false

/-- A `RASTRI`, whose set-up step reads memory (spec 10, R276). -/
def isRastri : Instr → Bool
  | .rastri _ => true
  | _ => false

/-- Whether the first step of a new operand is a set-up step that reads no memory, before which a stop leaves STATUS as it
is (spec 21, R475; log 32); or the instruction is an `ANYHIT`. -/
def hasSetup : Instr → Bool
  | .traverse _ => true
  | .filter _ => true
  | i => isAnyhit i

/-- Whether the lanes of one instruction take their steps in ascending order (spec 10, R277, R280). -/
def laneOrder : Instr → Bool
  | .rastri _ => true
  | .shadeq _ => true
  | _ => false

/-! ### Headers (spec 03, R73) -/

/-- STATUS of a header. -/
def hdrStatus (h : W32) : Nat := bits h.toNat 15 8

/-- REASON of a header. -/
def hdrReason (h : W32) : Nat := bits h.toNat 7 0

/-- A header with a new STATUS and REASON, IDATA kept. -/
def hdrWith (h : W32) (status reason : Nat) : W32 :=
  BitVec.ofNat 32 (h.toNat / 2 ^ 16 * 2 ^ 16 + status * 2 ^ 8 + reason)

/-! ### A step -/

/-- What a step sees: the instruction, its wave, lane, thread and group, the records it captured at issue (spec 03, R66),
OPX as read at issue, whether this issue has performed a step of the lane, whether the thread's `RASTRI` of this state
block has written a sample of the current block, and whether the lane is served in a full quad. -/
structure MacCtx where
  i : Instr
  op : MacOp
  w : Nat
  lane : Nat
  tid : Nat
  t : Thread
  gid : Nat
  g : Group
  recs : List W128
  opx : W32
  ran : Bool
  wrote : Bool
  quad : Bool
deriving DecidableEq, Repr

/-- Register `i` of the block. -/
def MacCtx.reg (c : MacCtx) (i : Nat) : W32 := c.t.reg (c.op.base + i)

/-- Register `i` of the block as a number. -/
def MacCtx.nat (c : MacCtx) (i : Nat) : Nat := (c.reg i).toNat

/-- Record `i` that the instruction names. -/
def MacCtx.record (c : MacCtx) (i : Nat) : W128 := c.recs.getD i 0

/-- Why a step is not performed: it waits; it meets a cause, with `keep` where the block stays as it is; it faults
resolvably; it consumes poison; it meets a structure of another domain. -/
inductive MStop where
  | wait
  | cause (code addr : Nat) (keep : Bool)
  | park (rec' addr : Nat)
  | poison (p : Nat × Bool × Nat)
  | kill (code addr : Nat)
deriving DecidableEq, Repr

/-- A write of a step: its place, its address, and its bytes. -/
abbrev MWrite := Loc × Nat × List Byte

/-- What a performed step does: registers of lanes of its wave, writes to memory, the lanes that leave the instruction at
PC + 8, and whether it wrote a sample of the current block. -/
structure MOut where
  regs : List (Nat × Nat × W32) := []
  ws : List MWrite := []
  ends : List Nat := []
  wrote : Bool := false
deriving DecidableEq, Repr

/-- A step: it may stop, and it may change the translation state before it does. -/
abbrev Mac (α : Type) := ExceptT MStop (StateM State) α

/-- A step that stops with a cause, STATUS 1 in its block. -/
def macCause {α : Type} (code : Nat) : Mac α := throw (.cause code 0 false)

/-- A step that stops with a cause found at issue: the block stays as it is (spec 18, R424; log 32). -/
def macCauseAtIssue {α : Type} (code : Nat) : Mac α := throw (.cause code 0 true)

/-- A step that waits. -/
def macWait {α : Type} : Mac α := throw .wait

/-- The index of a new free value (log 2). -/
def macFree : Mac Nat := do
  let s ← get
  set { s with freeCtr := s.freeCtr + 1 }
  return s.freeCtr

/-- The places of element `e` of `n` bytes of a record with their addresses, on the GFX path; none for a non-strict access out of
extent. It waits for the accesses that local order puts before it (spec 10, R269; spec 04, R106); those of an atomic operation are
at their home slices (spec 01, R14; spec 10, R297). -/
def macPlaces (c : MacCtx) (r : W128) (scr : Bool) (k : Need) (e n : Nat) : Mac (List (Loc × Nat)) := do
  let s ← get
  let p := s.formWide c.gid c.g r (if scr then .scr else .virt k) 6 e n
  set p.2
  match p.1 with
  | .places a l =>
    if (p.2.localDeps c.tid 3 (streamMask c.op.str) (l.map (fun a => (a, min n 16)))).isEmpty then
      set (if k = .atomic then l.foldl (fun (s : State) p => s.homeOf (some c.g.core) p (min n 16) true) p.2 else p.2)
      return l.zipIdx.map (fun q => (q.1, (a + min n 16 * q.2) % 2 ^ 57))
    else macWait
  | .skip _ => return []
  | .stop (.cause code a) => throw (.cause code a false)
  | .stop (.park k a) => throw (.park k a)
  | .stop (.mismatch code a) => throw (.kill code a)
  | .stop _ => return []

/-- The cause of a remote access at virtual address `a` that the far side refuses, in a macro-instruction (spec 17, R390, R395;
spec 20, R463). -/
def State.macRefused (s : State) (c : MacCtx) (a : Nat) : State :=
  s.raiseAsync c.gid { code := 0x09E, tids := [c.tid], addr := BitVec.ofNat 64 a }

/-- What becomes of a remote access of a macro-instruction that is not performed, by free value `k`: refused, or given up after 1
ms without an answer, which the host is told under 0x16E (spec 20, R463). -/
def State.macLost (s : State) (c : MacCtx) (a k : Nat) : State :=
  if Config.freeChoice k % 4 = 1 then s.macRefused c a
  else (s.hostReport { cause := 0x16E, func := c.g.func, pasid := c.g.pasid, domain := c.g.domain, core := c.g.core, addr := a }
    ).macRefused c a

/-- What another device or a host answers is its own to say (log 2): `n` bytes, perhaps with the mark of poison, or a
refusal or nothing, which reads zero. -/
def macFar (c : MacCtx) (l : Loc) (a n : Nat) : Mac Nat := do
  let i ← macFree
  let j ← macFree
  let k ← macFree
  let m ← macFree
  match farMark m l with
  | some p => throw (.poison p)
  | none =>
    if Config.freeChoice k % 2 = 0 then
      return ((Config.freeWord j).toNat * 2 ^ 64 + (Config.freeWord i).toNat) % 2 ^ (8 * n)
    else
      let s ← get
      set (s.macLost c a k)
      return 0

/-- The bytes at a place with address `a`. -/
def macLoad (c : MacCtx) (l : Loc) (a n : Nat) : Mac Nat := do
  let s ← get
  match s.poisonAt (some c.g.core) l n with
  | some p => throw (.poison p)
  | none =>
    match l with
    | .dom pa =>
      set (s.domSend pa (.load (pa % 2 ^ 44) n))
      macFar c l a n
    | .host pa =>
      set (s.hostSend (s.partyOf c.g) none pa none n)
      macFar c l a n
    | l =>
      set (s.useAt c.g.core l n)
      return ofBytes (s.readLoc (some c.g.core) l n)

/-- The number that the chunks of `n` bytes at places `l` spell. -/
def macLoads (c : MacCtx) (n : Nat) : List (Loc × Nat) → Mac Nat
  | [] => return 0
  | l :: r => do
    let v ← macLoad c l.1 l.2 n
    let u ← macLoads c n r
    return v + u * 2 ^ (8 * n)

/-- Read element `e` of `n` bytes of a record; zero out of extent of a record that is not strict (R269). -/
def macRead (c : MacCtx) (r : W128) (scr : Bool) (e n : Nat) : Mac Nat := do
  let l ← macPlaces c r scr .read e n
  macLoads c (min n 16) l

/-- The writes that store number `v` of `n` bytes to element `e` of a record: none where it is dropped (R269). -/
def macWrite (c : MacCtx) (r : W128) (scr : Bool) (k : Need) (e n v : Nat) : Mac (List MWrite) := do
  let l ← macPlaces c r scr k e n
  let m := min n 16
  return l.zipIdx.map (fun p => (p.1.1, p.1.2, toBytes m (v / 2 ^ (8 * m * p.2))))

/-- Read `k` consecutive elements of `n` bytes of a record in scratchpad from offset `e`, each an element of its own, as one number
(R269). -/
def macRun (c : MacCtx) (r : W128) (e n : Nat) : Nat → Mac Nat
  | 0 => return 0
  | k + 1 => do
    let v ← macRead c r true e n
    let u ← macRun c r (e + n) n k
    return v + u * 2 ^ (8 * n)

/-- Registers of the block from `i` on, for the step's own lane. -/
def MacCtx.put (c : MacCtx) (i : Nat) (l : List W32) : List (Nat × Nat × W32) :=
  l.zipIdx.map (fun e => (c.lane, c.op.base + i + e.2, e.1))

/-- The header with STATUS and REASON, and IDATA `d`. -/
def MacCtx.head (c : MacCtx) (idata status reason : Nat) : List (Nat × Nat × W32) :=
  c.put 0 [BitVec.ofNat 32 (idata * 2 ^ 16 + status * 2 ^ 8 + reason)]

/-- A `RASTRI` whose set-up step is still to be performed: STATUS 0, or a block that stopped before that step, whose edges
are all zero, as no set-up leaves them (log 32). -/
def MacCtx.unset (c : MacCtx) : Bool :=
  isRastri c.i && (hdrStatus (c.reg 0) == 0 || (List.range' 1 9).all (fun i => c.reg i == 0))

/-- IDATA of the header. -/
def MacCtx.idata (c : MacCtx) : Nat := c.nat 0 / 2 ^ 16

/-- STATUS of the header. -/
def MacCtx.status (c : MacCtx) : Nat := hdrStatus (c.reg 0)

/-- The launch record's words. -/
def MacCtx.launch (c : MacCtx) (s : State) : List W64 := s.recOf c.g

/-- Whether the launch is in early mode (R273). -/
def earlyMode (ws : List W64) : Bool := lrNodisc ws && lrNodepth ws

/-! ### The issue (R270; R424) -/

/-- A wait of a macro-instruction: `on` is the lanes at work; `vals` holds for each lane OPX [31:0], whether a step has
been performed [32] and whether its quad is full [34]; `aux` holds three
captured records and then, for each lane that has ended, its lane, end, code and address: end 0 at PC + 8, 1 at the
instruction, 2 a cause, 3 parked. -/
def macWaitOf (i : Instr) (on : Mask) (vals : Map W64) (recs : List W128) (ends : List Nat) : Wait :=
  { instr := i, on := on, vals := vals, aux := ((recs.map (fun (r : W128) => r.toNat)) ++ [0, 0, 0]).take 3 ++ ends }

/-- The ends that a macro wait has recorded: lane, end, code, address. -/
def endsOf : List Nat → List (Nat × Nat × Nat × Nat)
  | l :: k :: c :: a :: r => (l, k, c, a) :: endsOf r
  | _ => []

/-- The ends of a macro wait. -/
def Wait.macEnds (w : Wait) : List (Nat × Nat × Nat × Nat) := endsOf (w.aux.drop 3)

/-- How a lane with a recorded end leaves; a park whose record has been answered resumes at the instruction. -/
def State.endOf (s : State) (pc : VA) (e : Nat × Nat × Nat) : LaneEnd :=
  match e.1 with
  | 0 => .go (pc + 8)
  | 1 => .go pc
  | 2 => .cause e.2.1 e.2.2
  | _ => if Map.has s.mmu.recs e.2.1 then .park e.2.1 e.2.2 else .go pc

/-- The fragment of a macro-instruction whose lanes have all ended leaves it (R270): in a frozen wave its causes are held
(spec 17, R396). -/
def State.macDone (s : State) (w f : Nat) (v : Wave) (g : Group) (fr : Frag) (wt : Wait) : State :=
  let x : Iss := { i := wt.instr, w := w, f := f, v := v, fr := { fr with st := .ready }, g := g, on := 0 }
  let ends := (lanesOf fr.mask).map (fun l => (l, match wt.macEnds.find? (fun e => e.1 == l) with
    | some e => s.endOf fr.pc e.2
    | none => LaneEnd.go (fr.pc + 8)))
  if v.handler.isSome && !fr.hnd then
    let cs := causesOf ends
    let s := s.spliceFrag w f (readyFrags false (goFrags ends) ++ stayFrags x none ends
      ++ readyFrags false [(maskOf (cs.map Prod.fst), fr.pc)])
    ((cs.map (fun c => c.2.1)).eraseDups).foldl (fun (s : State) code =>
      let hit := cs.filter (fun c => c.2.1 == code)
      s.lateCause w (maskOf (hit.map Prod.fst)) fr.hnd fr.pc code ((hit.head?.map (fun c => c.2.2)).getD 0) (encode wt.instr)) s
  else s.finish x none ends

/-- Put the wait back in fragment `f`, or leave the instruction once no lane is at work. -/
def State.macSettle (s : State) (w f : Nat) (wt : Wait) : State :=
  match Map.find s.waves w with
  | none => s
  | some v =>
    match v.frags[f]?, Map.find s.groups v.gid with
    | some fr, some g =>
      if wt.on &&& fr.mask = 0 then s.macDone w f v g fr wt
      else s.spliceFrag w f [{ fr with st := .wait wt }]
    | _, _ => s

/-- The issue of a macro-instruction (R270; R424): each lane's header is checked, then `check` gives the causes found at
issue; a lane with STATUS 3 completes at once (R73), and no cause of its operands applies to it (log 32); the others are at
work, and the fragment waits for them. -/
def macIssue (i : Instr) (m : MacOp) (check : State → Iss → Thread → List Nat) (s : State) :
    Host.Outcome State Fault Refusal :=
  issue i (fun x s =>
    let base := m.base
    let judge (l : Nat) : Option (Nat × Nat × Nat × Nat) := match s.laneThread x.w l with
      | none => some (l, 0, 0, 0)
      | some t =>
        let st := hdrStatus (t.reg base)
        if 4 ≤ st then some (l, 2, 0x027, 0)
        else if st = 3 then some (l, 0, 0, 0)
        else match minCode (check s x t) with
          | some c => some (l, 2, c, 0)
          | none => none
    let ends := (lanesOf x.on).filterMap judge
    let on := x.on &&& ~~~(maskOf (ends.map Prod.fst))
    let vals := (lanesOf on).map (fun l =>
      let q := l / 4 * 4
      let full := [q, q + 1, q + 2, q + 3].all (fun j => on.getLsbD j)
      (l, BitVec.ofNat 64 ((((s.laneThread x.w l).map (fun (t : Thread) => (opRead m.opx x.v t).toNat)).getD 0)
        + b2n full * 2 ^ 34)))
    s.macSettle x.w x.f (macWaitOf i on vals (m.recs.map (fun r => x.g.buf r.val))
      (ends.flatMap (fun e => [e.1, e.2.1, e.2.2.1, e.2.2.2])))) s

/-- Causes among conditions. -/
def codesWhere (l : List (Nat × Bool)) : List Nat := (l.filter (·.2)).map Prod.fst

/-! ### What becomes of a step -/

/-- Write registers of lanes of a wave. -/
def State.putRegs (s : State) (w : Nat) (l : List (Nat × Nat × W32)) : State :=
  l.foldl (fun (s : State) e => match s.laneTid w e.1 with
    | some k => s.updThread k (fun t => t.setReg e.2.1 e.2.2)
    | none => s) s

/-- The context of lane `l` of a fragment that waits in a macro-instruction: the group as it was when its thread issued it, also
while a gate call of other threads is in progress (spec 08, R229). -/
def State.macCtx (s : State) (w l : Nat) (v : Wave) (g : Group) (wt : Wait) : Option MacCtx :=
  match macOp wt.instr, s.laneTid w l with
  | some op, some k => (Map.find s.threads k).map (fun t =>
      let a := (Map.get wt.vals 0 l).toNat
      { i := wt.instr, op := op, w := w, lane := l, tid := k, t := t, gid := v.gid, g := g.atDepth t.outer.length,
        recs := (wt.aux.take 3).map (BitVec.ofNat 128), opx := BitVec.ofNat 32 a, ran := a.testBit 32,
        wrote := t.drew.contains op.base, quad := a.testBit 34 })
  | _, _ => none

/-- A wait in which lane `l` has ended. -/
def Wait.macEnd (wt : Wait) (l k c a : Nat) : Wait :=
  { wt with on := wt.on &&& ~~~(BitVec.ofNat 32 (2 ^ l)), aux := wt.aux ++ [l, k, c, a] }

/-- A wait in which lane `l` has performed a step. -/
def Wait.macRan (wt : Wait) (l : Nat) : Wait :=
  { wt with vals := Map.upd wt.vals l (fun (a : W64) => a ||| BitVec.ofNat 64 (2 ^ 32)) }

/-- The sequencer's note of whether a `RASTRI` has written a sample of its current block: it outlives a stop (R277; log
33). -/
def Thread.noteDrew (t : Thread) (base : Nat) (wrote : Bool) : Thread :=
  { t with drew := if wrote then (if t.drew.contains base then t.drew else base :: t.drew) else t.drew.filter (· != base) }

/-- A performed step of a `RASTRI` brings the note of its block up to date. -/
def State.noteDrew (s : State) (c : MacCtx) (wrote : Bool) : State :=
  if isRastri c.i then s.updThread c.tid (fun t => t.noteDrew c.op.base wrote) else s

/-- The block of lane `c.lane` at a stop, or at a fault or park (`fault`): STATUS 1, but for an `ANYHIT`, for a set-up step
still to be performed, and for a stop before the first step after a callback (R270; R424; spec 21, R475; log 32). A
`RASTRI` that stops before its set-up step, as where its triangle record is absent, has STATUS 1 and zero in the rest. -/
def State.macHalt (s : State) (fault : Bool) (c : MacCtx) : State :=
  if c.unset then s.putRegs c.w (c.put 0 (hdrWith (c.reg 0) 1 0 :: List.replicate 15 0))
  else if hasSetup c.i && (isAnyhit c.i || c.status = 0 || (c.status = 2 && !fault)) then s
  else s.putRegs c.w (c.put 0 [hdrWith (c.reg 0) 1 0])

/-- Whether the far side takes a write of a macro-instruction is its own to say (log 2); one that it refuses or does not answer
writes nothing. -/
def State.macWrites (s : State) (c : MacCtx) (ws : List MWrite) : State :=
  let far := ws.zipIdx.filter (fun e => e.1.1.remote)
  let k := s.freeCtr
  let taken (e : MWrite × Nat) : Bool := !e.1.1.remote || Config.freeChoice (k + e.2) % 2 == 0
  let s := if far.isEmpty then s else { s with freeCtr := k + ws.length }
  let s := s.writeLocs (s.partyOf c.g) ((ws.zipIdx.filter taken).map (fun e => (e.1.1, e.1.2.2)))
  (far.filter (fun e => !taken e)).foldl (fun (s : State) e => s.macLost c e.1.2.1 (k + e.2)) s

/-- The outcome of a step reaches the lane: performed; not performed with a cause or a park; or not possible yet. -/
def State.macLand (s : State) (f : Nat) (c : MacCtx) (wt : Wait) : Except MStop MOut → State
  | .ok o =>
    let s := ((s.macWrites c o.ws).putRegs c.w o.regs).noteDrew c o.wrote
    let wt := o.ends.foldl (fun (t : Wait) l => t.macEnd l 0 0 0) (wt.macRan c.lane)
    s.macSettle c.w f wt
  | .error .wait => s
  | .error (.cause code a keep) =>
    (if keep then s else s.macHalt true c).macSettle c.w f (wt.macEnd c.lane 2 code a)
  | .error (.park k a) => (s.macHalt true c).macSettle c.w f (wt.macEnd c.lane 3 k a)
  | .error (.poison p) => s.consume c.gid (if c.t.call = 0 then none else some c.g.domain) p
  | .error (.kill code a) => s.killGroup c.gid { cause := code, addr := a }

/-- Stop the lanes of `m` at work of fragment `f` of wave `w`, at a stopping point (R270, R271). -/
def State.macStopLanes (s : State) (w f : Nat) (m : Mask) : State :=
  match Map.find s.waves w with
  | none => s
  | some v =>
    match v.frags[f]?, Map.find s.groups v.gid with
    | some fr, some g =>
      match fr.st with
      | .wait wt =>
        if (macOp wt.instr).isNone then s
        else
          let r := (lanesOf (wt.on &&& fr.mask &&& m)).foldl (fun (p : State × Wait) l =>
            match p.1.macCtx w l v g p.2 with
            | some c => (p.1.macHalt false c, p.2.macEnd l 1 0 0)
            | none => p) (s, wt)
          r.1.macSettle w f r.2
      | _ => s
    | _, _ => s

/-- Stop every lane at work of fragment `f` of wave `w`. -/
def State.macStop (s : State) (w f : Nat) : State := s.macStopLanes w f (BitVec.allOnes 32)

/-- Stop every macro-instruction of wave `w`, the later fragments first. -/
def State.macStopAll (s : State) (w : Nat) : State :=
  match Map.find s.waves w with
  | none => s
  | some v => ((List.range v.frags.length).reverse).foldl (fun (s : State) f => s.macStop w f) s

end Sys2Proof.Machine
end

