-- ==== Sys2Proof/Machine/Post.lean ====
section
/-!
DEFINITION. Posting and accepting launches: the engine's reads (spec 11, R304; spec 20, R485), the packet and record checks
(spec 20, R465), dependence counters and their successors (spec 02, R45; spec 11, R483, R484), and the completion of
launches (spec 11, R321; spec 20, R466).
-/

namespace Sys2Proof.Machine

/-! ### Reads through an address space -/

/-- Why a read of device memory by an engine fails: a translation, or poison, at a virtual address. -/
inductive ReadFail where
  | tr (f : TrFail) (va : Nat)
  | poison (p : Nat × Bool × Nat) (va : Nat)
deriving DecidableEq, Repr

/-- The code of a failure, with D = 0 (spec 20, R485; spec 11, R483). -/
def ReadFail.code : ReadFail → Nat
  | .tr (.park c _ _ _) _ => c
  | .tr (.fatal c) _ => c
  | .poison p _ => p.1

/-- The context of the work-queue engine in a PASID of a function (log 72). -/
def State.engineCtx (s : State) (f p : Nat) : Ctx :=
  { die := 0, func := f, pasid := p, domain := bits (s.pasidEntry f p) 63 52 }

/-- Read `n` bytes in `k` pages from virtual address `va`. A place that cannot be reached is a fatal failure. -/
def State.readPages (s : State) (c : Ctx) (va n : Nat) : Nat → Except ReadFail (List Byte) × State
  | 0 => (.ok [], s)
  | k + 1 =>
    match s.translate c (va % 2 ^ 57) .read with
    | (.error e, s) => (.error (.tr e va), s)
    | (.ok t, s) =>
      let m := min n (4096 - va % 4096)
      match s.reach c.func t.pa m .read with
      | none => (.error (.tr (.fatal 0x098) va), s)
      | some l => match s.fetchPoison l m with
        | (some p, s) => (.error (.poison p va), s)
        | (none, s) =>
          let b := s.fetchLoc (.of c.func) l m
          match b.2.readPages c (va + m) (n - m) k with
          | (.error e, s) => (.error e, s)
          | (.ok r, s) => (.ok (b.1 ++ r), s)

/-- Read `n` bytes, at least one, at virtual address `va`. -/
def State.readVirt (s : State) (c : Ctx) (va n : Nat) : Except ReadFail (List Byte) × State :=
  s.readPages c va n (pagesOf va n)

/-- The 64-bit words of `k` times eight bytes. -/
def wordsOf (k : Nat) (l : List Byte) : List W64 :=
  (List.range k).map (fun i => BitVec.ofNat 64 (ofBytes ((l.drop (8 * i)).take 8)))

/-- Read the entries of a bind table that `is` names. -/
def State.readBinds (s : State) (c : Ctx) (tab : Nat) : List Nat → Except ReadFail (Map W128) × State
  | [] => (.ok [], s)
  | i :: r =>
    match s.readVirt c (tab + 16 * i) 16 with
    | (.error e, s) => (.error e, s)
    | (.ok l, s) =>
      match s.readBinds c tab r with
      | (.error e, s) => (.error e, s)
      | (.ok m, s) => (.ok (Map.put m i (BitVec.ofNat 128 (ofBytes l))), s)

/-- Read a launch record and the entries its BINDMASK selects (spec 11, R304; spec 20, R465 order 4). -/
def State.readRecord (s : State) (c : Ctx) (va : Nat) : Except ReadFail (List W64 × Map W128) × State :=
  match s.readVirt c va 256 with
  | (.error e, s) => (.error e, s)
  | (.ok l, s) =>
    let ws := wordsOf 32 l
    match s.readBinds c (lrBindtab ws) ((List.range 16).filter (lrBindmask ws)) with
    | (.error e, s) => (.error e, s)
    | (.ok b, s) => (.ok (ws, b), s)

/-- Whether a record passes R305 for a launch in the given space; `priv` says whether SYSPRIV is allowed. -/
def State.recordFits (s : State) (func pasid domain : Nat) (priv : Bool) (ws : List W64) (binds : Map W128) : Bool :=
  recordOk ws binds ((s.boardAt func pasid domain (lrTsarea ws)).map Prod.snd) && (!lrSyspriv ws || priv)

/-! ### Work queues (spec 13, R345) -/

/-- Address of the entry of queue `q` of function `f`. -/
def State.queueAddr (s : State) (f q : Nat) : Nat := s.ftBase f 4 + 32 * q

/-- Word `w` of the entry. -/
def State.queueWord (s : State) (f q w : Nat) : Nat := s.peekNat (s.queueAddr f q + 8 * w) 8

def State.queueLog (s : State) (f q : Nat) : Nat := bits (s.queueWord f q 0) 9 5
def State.queueHead (s : State) (f q : Nat) : Nat := bits (s.queueWord f q 2) 31 0
def State.queueTail (s : State) (f q : Nat) : Nat := bits (s.queueWord f q 2) 63 32
def State.queuePasid (s : State) (f q : Nat) : Nat := bits (s.queueWord f q 0) 51 32
def State.queueCeil (s : State) (f q : Nat) : Nat := bits (s.queueWord f q 0) 4 2

/-- Whether a queue is privileged: function 0 only. -/
def State.queuePriv (s : State) (f q : Nat) : Bool := f == 0 && (s.queueWord f q 0).testBit 1

/-- Whether a queue is enabled: a LOG2SIZE outside 4 to 16 or a reserved bit acts as EN 0 (spec 13, R345), and so does a function
whose own EN is 0 (log 77). -/
def State.queueOn (s : State) (f q : Nat) : Bool :=
  (s.ftWord f 0).testBit 63 && (s.queueWord f q 0).testBit 0 && 4 ≤ s.queueLog f q && s.queueLog f q ≤ 16
    && bits (s.queueWord f q 0) 63 52 == 0 && bits (s.queueWord f q 0) 31 10 == 0
    && bits (s.queueWord f q 1) 63 57 == 0 && bits (s.queueWord f q 3) 63 16 == 0

/-- Packets a queue holds. -/
def State.queueFill (s : State) (f q : Nat) : Nat := (s.queueTail f q + 2 ^ 32 - s.queueHead f q) % 2 ^ 32

/-- Virtual address of the slot of packet `i`. -/
def State.queueSlot (s : State) (f q i : Nat) : Nat :=
  (bits (s.queueWord f q 1) 56 0 + 64 * (i % 2 ^ s.queueLog f q)) % 2 ^ 57

/-- Count a refusal in REFUSED, which saturates. -/
def State.queueRefused (s : State) (f q : Nat) : State :=
  let n := bits (s.queueWord f q 3) 15 0
  s.poke (s.queueAddr f q + 24) (toBytes 2 (min (n + 1) 0xFFFF))

/-- Consume the packet at HEAD. -/
def State.queueTake (s : State) (f q : Nat) : State :=
  s.poke (s.queueAddr f q + 16) (toBytes 4 ((s.queueHead f q + 1) % 2 ^ 32))

/-! ### Dependence counters (spec 02, R45; spec 08, R225, R226) -/

/-- Register an accepted launch and offer its first gangs. -/
def State.accept (s : State) (l : Launch) : State :=
  let k := s.nextKey
  ({ s with nextKey := k + 1, launches := Map.put s.launches k { l with seq := k } }).offerGangs k

/-- Enqueue the successor whose record lies at `lrec` (spec 11, R483): the checks of orders 3, 4 and 6; a failure is a
host error record. No queue is behind it, so SYSPRIV is refused. -/
def State.enqueueSucc (s : State) (d : DepSucc) (lrec : Nat) : State :=
  let pe := s.pasidEntry d.func d.pasid
  let dom := bits pe 63 52
  let refuse (s : State) (code : Nat) : State := s.hostReport
    { cause := code, action := 6, func := d.func, pasid := d.pasid, lrec := lrec, queue := d.queue, etag := d.etag }
  if !pe.testBit 0 then refuse s 0x135
  else
    match s.readRecord (s.engineCtx d.func d.pasid) lrec with
    | (.error e, s) => refuse s e.code
    | (.ok (ws, b), s) =>
      if !s.recordFits d.func d.pasid dom false ws b then refuse s 0x0E2
      else s.accept (launchRec ws b [] d.func d.pasid dom lrec d.queue d.etag (min (lrPrio ws) d.cls) 0 false
        (.succ d.lid))

/-- One of the counters a group's phase waits for has reached zero: with the last, the phase is queued (R225). -/
def State.counterFired (s : State) (gid : Nat) : State :=
  match Map.find s.groups gid with
  | none => s
  | some g => match g.st with
    | .phase (.counters n) =>
      if n ≤ 1 then s.queuePhase gid else s.updGroup gid (fun g => { g with st := .phase (.counters (n - 1)) })
    | _ => s

/-- The number that the counter at physical address `pa` holds of its successor's context (log 26). -/
def State.counterId (s : State) (pa : Nat) : Nat := s.peekNat (pa + 8) 8

/-- The counter at physical address `pa` has reached zero: the successor that its bytes hold is enqueued. A counter whose
count a store sets again enqueues again; a group's phase is queued by each counter once. -/
def State.fireCounter (s : State) (pa : Nat) : State :=
  match Map.find s.mem.depSucc (s.counterId pa) with
  | none => s
  | some d => match d.self with
    | some gid =>
      ({ s with mem := { s.mem with depSucc := Map.del s.mem.depSucc (s.counterId pa) } } : State).counterFired gid
    | none => s.enqueueSucc d (256 * s.peekNat (pa + 4) 4)

/-- One decrement of the counter at physical address `pa`: the value read. The one that reads 1 fires it; one that reads 0
changes nothing. -/
def State.decrement (s : State) (pa : Nat) : Nat × State :=
  let s := s.homeOf none (.mem pa) 16 true
  let n := s.peekNat pa 4
  if n = 0 then (0, s)
  else
    let s := s.pokes [(pa, toBytes 4 (n - 1))]
    (n, if n = 1 then s.fireCounter pa else s)

/-- One decrement of the counter at a place: on another device it is asked for as an atomic of that device (log 43), and what
that reads is free. -/
def State.decrementAt (s : State) (l : Loc) : Nat × State :=
  match l with
  | .dom pa =>
    let k := s.freeCtr
    ((Config.freeWord k).toNat % 2 ^ 32,
      { s with freeCtr := k + 1 }.domSend pa (.atom (pa % 2 ^ 44) false .add (BitVec.ofNat 64 (2 ^ 32 - 1))))
  | .mem pa => s.decrement pa
  | .reg pa =>
    let n := ofBytes (s.readLoc none (.reg pa) 4)
    (n, if n = 0 then s else s.writeReg (pa - regBase) (toBytes 4 (n - 1)))
  | _ => (0, s)

/-- The decrement of CDEP by the engine; a failure is a host error record (spec 11, R484). -/
def State.cdepStep (s : State) (l : Launch) : State :=
  if l.cdep = 0 then s
  else
    let fails (s : State) (code : Nat) : State := s.hostReport
      { cause := code, func := l.func, pasid := l.pasid, domain := l.domain, lrec := l.lrec, queue := l.queue,
        etag := l.etag, addr := l.cdep }
    match s.translate { die := 0, func := l.func, pasid := l.pasid, domain := l.domain } l.cdep .atomic with
    | (.error (.park c _ _ _), s) => fails s (c + 2)
    | (.error (.fatal c), s) => fails s (c + 2)
    | (.ok t, s) =>
      match s.reach l.func t.pa 16 .atomic with
      | none => fails s 0x09A
      | some p => match s.fetchPoison p 16 with
        | (some e, s) => fails s e.1
        | (none, s) => match s.decrementAt p with
          | (0, s) => fails s 0x0EC
          | (_, s) => s

/-! ### Accepting packets (spec 20, R465) -/

/-- What a packet's path gives it: function, queue, its ceilings, whether SYSPRIV is allowed by the queue and, for a peer
packet, by its access-control entry. -/
structure Path where
  func : Nat
  queue : Nat
  ceil : Nat
  priv : Bool
  sysok : Bool
  src : LaunchSrc
deriving DecidableEq, Repr

/-- The queue number in the records and events of the management queue, which is none of a function's (log 29). -/
def mgmtQueue : Nat := 0x7FF

/-- The launch a packet asks for. -/
def launchOfPacket (p : Path) (ws : List W64) (rec' : List W64) (binds : Map W128) (domain : Nat) : Launch :=
  { launchRec rec' binds ((List.range 8).map (pkArg ws)) p.func (pkPasid ws) domain (pkLrec ws) p.queue (pkEtag ws)
      (min (lrPrio rec') p.ceil) 0 (lrSyspriv rec' || p.src == .mgmt) p.src with
    vec := pkVec ws, cdep := pkCdep ws, ord := pkOrd ws }

/-- Whether an earlier launch of the same queue has not completed (spec 11, R300). -/
def State.queueBusy (s : State) (p : Path) : Bool :=
  s.launches.any (fun e => e.2.func == p.func && e.2.queue == p.queue && (match e.2.src with
    | .queue => p.src != .mgmt
    | .peer => p.src != .mgmt
    | .mgmt => p.src == .mgmt
    | _ => false))

/-- Whether domain `d` is being ended: its packets are refused (spec 19, R435). -/
def State.isEnding (s : State) (d : Nat) : Bool := s.rep.ending.contains d

/-- Answer a packet with an event. -/
def State.answer (s : State) (p : Path) (ws : List W64) (status : Nat) : State :=
  s.writeEvent p.func (pkVec ws) (some (pkPasid ws)) status p.queue (pkEtag ws)

/-- Judge packet `ws` from order 2 on; `given` is the record and bound values where the Barista core has read them. The
error record of a refusal has domain 0, since its launch never began (spec 21, R479). -/
def State.judge (s : State) (p : Path) (ws : List W64) (given : Option (List W64 × Map W128)) : State :=
  let pasid := pkPasid ws
  let pe := s.pasidEntry p.func pasid
  let dom := if p.src == .mgmt then 0 else bits pe 63 52
  if !packetOk ws then s.answer p ws 3
  else if !pe.testBit 0 || s.isEnding dom then
    (s.hostReport { cause := 0x135, action := 6, func := p.func, pasid := pasid, lrec := pkLrec ws, queue := p.queue,
                    etag := pkEtag ws }).answer p ws 4
  else if pkType ws = 0 then
    (s.cdepStep (launchOfPacket p ws [] [] dom)).answer p ws 0
  else
    let r : Except ReadFail (List W64 × Map W128) × State := match given with
      | some g => (.ok g, s)
      | none => s.readRecord (s.engineCtx p.func pasid) (pkLrec ws)
    match r with
    | (.error _, s) => s.answer p ws 6
    | (.ok (rec', b), s) =>
      if p.src == .peer && lrSyspriv rec' && !p.sysok then
        s.setFblock p.func { s.fblock p.func with peerref := satInc (s.fblock p.func).peerref }
      else if !s.recordFits p.func pasid dom p.priv rec' b then s.answer p ws 5
      else s.accept (launchOfPacket p ws rec' b dom)

/-- The path of queue `q` of function `f`. -/
def State.queuePath (s : State) (f q : Nat) : Path :=
  { func := f, queue := q, ceil := s.queueCeil f q, priv := s.queuePriv f q, sysok := true, src := .queue }

/-- Whether the engine has read every packet that stood in its queue's ring before peer packet `k` came. -/
def State.peerTurn (s : State) (k : PeerPkt) : Bool :=
  let left := (k.tail + 2 ^ 32 - s.queueHead k.func k.queue) % 2 ^ 32
  left == 0 || 2 ^ 31 ≤ left

/-- The engine reads the packet at HEAD of queue `q` of function `f` (spec 11, R300; spec 20, R485), in
order with the packets that peers sent to it. -/
def State.acceptQueue (s : State) (f q : Nat) : State :=
  if !s.queueOn f q || s.queueFill f q = 0 || s.host.stalled.contains (f * 2048 + q) || s.host.frst.contains f
      || s.host.peerq.any (fun k => k.func == f && k.queue == q && s.peerTurn k) then s
  else
    let va := s.queueSlot f q (s.queueHead f q)
    match s.readVirt (s.engineCtx f (s.queuePasid f q)) va 64 with
    | (.error e, s) =>
      let s := { s with host := { s.host with stalled := s.host.stalled ++ [f * 2048 + q] } }
      s.hostReport { cause := e.code, func := f, pasid := s.queuePasid f q, queue := q, addr := va }
    | (.ok l, s) =>
      let ws := wordsOf 8 l
      if packetOk ws && pkOrd ws && s.queueBusy (s.queuePath f q) then s
      else (s.queueTake f q).judge (s.queuePath f q) ws none

/-- The path of a peer packet. -/
def State.peerPath (s : State) (k : PeerPkt) : Path :=
  { func := k.func, queue := k.queue, ceil := min (s.queueCeil k.func k.queue) k.pmax,
    priv := s.queuePriv k.func k.queue, sysok := k.sysok, src := .peer }

/-- The index of the oldest peer packet that can be accepted: the first of its queue, when its turn has come, and not held
back by ORD (spec 11, R300). -/
def State.peerNext (s : State) : Option Nat :=
  (List.range s.host.peerq.length).find? (fun i => match s.host.peerq[i]? with
    | some k => !(s.host.peerq.take i).any (fun e => e.func == k.func && e.queue == k.queue) && s.peerTurn k
        && !(packetOk k.words && pkOrd k.words && s.queueBusy (s.peerPath k))
    | none => false)

/-- Accept a packet that a peer sent (spec 11, R320). -/
def State.acceptPeer (s : State) : State :=
  match s.peerNext with
  | none => s
  | some i => match s.host.peerq[i]? with
    | some k => ({ s with host := { s.host with peerq := s.host.peerq.eraseIdx i } }).judge (s.peerPath k) k.words none
    | none => s

/-- A packet of the Barista core's management queue (spec 14, R361). -/
def State.acceptMgmt (s : State) (ws rec' : List W64) (binds : List W128) : State :=
  let p : Path := { func := 0, queue := mgmtQueue, ceil := 7, priv := true, sysok := true, src := .mgmt }
  if packetOk ws && pkOrd ws && s.queueBusy p then s
  else
    let sel := (List.range 16).filter (lrBindmask rec')
    s.judge p ws (some (rec', sel.map (fun i => (i, binds.getD i 0))))

def execPacketAccept (src : PktSrc) (s : State) : Host.Outcome State Fault Refusal :=
  .next (match src with
    | .queue f q => s.acceptQueue f q
    | .peer => s.acceptPeer
    | .mgmt ws rec' binds => s.acceptMgmt ws rec' binds)

/-! ### Completion (spec 11, R321; spec 20, R466) -/

/-- An RDMA WRITE. -/
def OutMsg.isWrite : OutMsg → Bool
  | .rdmaWrite _ _ _ _ => true
  | _ => false

/-- Whether launch `lid` is done: nothing is left to offer, none of its gangs, nor of the children forked from it, is left,
and every RDMA WRITE of it has been acknowledged (spec 13, R350). -/
def State.launchDone (s : State) (lid : Nat) (l : Launch) : Bool :=
  (l.ended || lrGangs l.words ≤ l.nextGang)
    && !s.host.sent.any (fun e => e.lid == some lid && e.out && e.msg.isWrite)
    && !s.gangs.any (fun p => p.2.lid == lid || (match Map.find s.launches p.2.lid with
      | some c => c.src == .fork lid
      | none => false))

/-- Whether a launch writes an event and decrements a CDEP: not a forked child or a successor. -/
def LaunchSrc.answers : LaunchSrc → Bool
  | .queue => true
  | .peer => true
  | .mgmt => true
  | _ => false

/-- Complete launch `lid`, if it is done: the CDEP decrement, unless it was ended, and then the event. -/
def State.completeLaunch (s : State) (lid : Nat) : State :=
  match Map.find s.launches lid with
  | none => s
  | some l =>
    if !l.src.answers || !s.launchDone lid l then s
    else
      let s := if l.ended then s else s.cdepStep l
      let s := s.writeEvent l.func l.vec (some l.pasid) (if l.ended then 2 else if l.failed then 1 else 0) l.queue l.etag
      { s with launches := Map.del s.launches lid }

def execLaunchCompletion (lid : Nat) (s : State) : Host.Outcome State Fault Refusal := .next (s.completeLaunch lid)

end Sys2Proof.Machine
end

