-- ==== Sys2Proof/Machine/Answer.lean ====
section
/-!
DEFINITION. Answers to faults (spec 20, R461, R462), the frame sweepers (spec 04, R97 to R99; spec 20, R463), the end of a
domain and of a function reset (spec 19, R435, R438), and writes of registers (spec 13, R341).
-/

namespace Sys2Proof.Machine

/-! ### Answers to faults (R461, R462) -/

/-- The record is gone. -/
def State.dropRec (s : State) (k : Nat) : State := { s with mmu := { s.mmu with recs := Map.del s.mmu.recs k } }

/-- Whether a fragment is parked on record `k`. -/
def Frag.parkedOn (k : Nat) (f : Frag) : Bool :=
  match f.st with
  | .parked j _ => j == k
  | _ => false

/-- Resume: what is parked on record `k` issues its instruction again, with the cycle of its resumption as its age (spec 11,
R312), and its copies go on. Lanes of a macro-instruction
that others still keep at work resume with them, because their record is gone. -/
def State.resumeRec (s : State) (k : Nat) : State :=
  let s := s.dropRec k
  { s with
    waves := Map.mapv s.waves (fun _ v =>
      { v with
        frags := v.frags.map (fun f => if f.parkedOn k then { f with st := .ready } else f)
        ages := (v.frags.filter (Frag.parkedOn k)).foldl (fun a f =>
          (lanesOf f.mask).foldl (fun a l => Map.put a l s.tick) a) v.ages })
    cores := Map.mapv s.cores (fun _ c =>
      { c with copyq := c.copyq.map (fun q => if q.parked = some k then { q with parked := none } else q) }) }

/-- The cause of a fatal answer: the record's, or 0x02D for a fetch. -/
def FaultRec.fatalCode (r : FaultRec) : Nat := if r.fetch then 0x02D else r.code

/-- The lanes that a macro-instruction's wait has parked on record `k` have the cause instead. -/
def Wait.fatal (k code : Nat) (w : Wait) : Wait :=
  if (macOp w.instr).isNone then w
  else { w with aux := w.aux.take 3 ++ w.macEnds.flatMap (fun e =>
    if e.2.1 = 3 ∧ e.2.2.1 = k then [e.1, 2, code, e.2.2.2] else [e.1, e.2.1, e.2.2.1, e.2.2.2]) }

/-- The fragments of wave `w` parked on record `k` take its cause, one after the other. -/
def State.fatalFrags (s : State) (k code w : Nat) : State :=
  match Map.find s.waves w with
  | none => s
  | some v => (v.frags.filter (Frag.parkedOn k)).foldl (fun (s : State) f =>
      s.lateCause w f.mask f.hnd f.pc code (match f.st with | .parked _ a => a | _ => 0)
        ((s.peekInstr v f).bind encode)) s

/-- Fatal: every parked sub-group of record `k` enters its handler, and its copies end (R462). -/
def State.fatalRec (s : State) (k : Nat) (r : FaultRec) : State :=
  let code := r.fatalCode
  let s := s.dropRec k
  let s : State := { s with waves := Map.mapv s.waves (fun _ v =>
    { v with frags := v.frags.map (fun (f : Frag) => match f.st with
        | .wait w => { f with st := .wait (w.fatal k code) }
        | _ => f) }) }
  let qs := s.cores.flatMap (fun c => c.2.copyq.filter (fun q => q.parked == some k))
  let s := qs.foldl (fun (s : State) q => s.failCopy q code r.vaddr) s
  (Map.keysOf s.waves).foldl (fun (s : State) w => s.fatalFrags k code w) s

/-- The record of function `f` that was written with identifier `fid` and has no response. -/
def State.recOfFid (s : State) (f fid : Nat) : Option (Nat × FaultRec) :=
  s.mmu.recs.find? (fun p => p.2.func == f && p.2.fid == some fid)

/-- Apply a response word of function `f`; a word that names no record, or with a reserved ACT or reserved bits, is
ignored (R461). -/
def State.respond (s : State) (f : Nat) (w : W64) : State :=
  match s.recOfFid f (bits w.toNat 31 0) with
  | none => s
  | some (k, r) =>
    if 2 ^ 34 ≤ w.toNat || 1 < bits w.toNat 33 32 then s
    else if bits w.toNat 33 32 = 0 then s.resumeRec k
    else s.fatalRec k r

/-- The oldest response word of a function is applied. -/
def execFaultResponse (func : Nat) (s : State) : Host.Outcome State Fault Refusal :=
  .next (match s.mmu.resps.find? (fun p => p.1 == func) with
    | none => s
    | some p => ({ s with mmu := { s.mmu with resps := s.mmu.resps.erase p } }).respond func p.2)

/-- A record that was written and has no response after TMO ms is fatal, and TMOHIT is set (R462). -/
def State.expire (s : State) (f fid : Nat) : State :=
  match s.recOfFid f fid with
  | none => s
  | some (k, r) =>
    if r.tmo ≠ 0 ∧ r.written + r.tmo * 1750000 ≤ s.tick then
      (s.setFblock f { s.fblock f with tmohit := true }).fatalRec k r
    else s

def execFaultTmoExpiry (func fid : Nat) (s : State) : Host.Outcome State Fault Refusal := .next (s.expire func fid)

/-! ### The frame sweepers (spec 04, R97 to R99; R463) -/

/-- The ready count of a sweeper. -/
def Sweeper.ready (w : Sweeper) : Nat := (w.qtail - w.qhead).toNat

def Sweeper.low (w : Sweeper) : Nat := bits w.mark.toNat 19 0
def Sweeper.high (w : Sweeper) : Nat := bits w.mark.toNat 51 32

/-- Clear A in the leaf descriptor at `a`, and the A-already-set record of every TLB entry of that leaf. -/
def State.clearA (s : State) (a : Nat) : State :=
  let d := s.peekNat a 8
  let s := s.atHome a true
  let s := if descA d then s.poke a (toBytes 8 (d - 4)) else s
  { s with mmu := { s.mmu with tlb := s.mmu.tlb.map (fun t =>
    if t.leaf1 = a ∨ t.leaf2 = a then { t with aSet := false } else t) } }

/-- Write the sweeper's notice, where it has one: 0xFC, with the block as tag. -/
def State.sweepNote (s : State) (b : Nat) (w : Sweeper) : State :=
  if w.note.getLsbD 16 then s.writeEvent 0 (bits w.note.toNat 15 0) none 0xFC 0x7FF b else s

/-- The next entry to visit. -/
def Sweeper.advance (w : Sweeper) : Sweeper :=
  { w with cursor := BitVec.ofNat 64 ((w.cursor.toNat + 1) % w.tcount.toNat) }

/-- One visit's outcome in the count of a barren pass: DRY rises after TCOUNT entries that queued nothing while the ready
count was below the low watermark. -/
def State.sweepEnd (s : State) (b : Nat) (w : Sweeper) (queued bad : Bool) : State :=
  let n := if queued || w.low ≤ w.ready then 0 else w.barren + 1
  let dry := w.dry || decide (w.tcount.toNat ≤ n)
  let idx := w.cursor.toNat
  let w' : Sweeper :=
    { w with barren := if w.tcount.toNat ≤ n then 0 else n, dry := dry, badent := w.badent || bad,
             badidx := if bad then idx else w.badidx, lastVisit := s.tick }
  let s := s.setSweeper b w'.advance
  if (dry && !w.dry) || (bad && !w.badent) then s.sweepNote b w' else s

/-- Visit the entry at the cursor of sweeper `b`, which runs. -/
def State.sweepEntry (s : State) (b : Nat) (w : Sweeper) : State :=
  let a := w.tbase.toNat + 16 * w.cursor.toNat
  let lo := s.peekNat a 8
  let hi := s.peekNat (a + 8) 8
  let desc := bits hi 51 0
  let idle := !lo.testBit 0 || lo.testBit 2 || lo.testBit 3
  let malformed := bits lo 63 8 != 0 || lo.testBit 1 || desc % 8 != 0
  if malformed || (!idle && (!s.isMem desc || s.poisoned desc 8)) then s.sweepEnd b w false true
  else if idle then s.sweepEnd b w false false
  else
    let age := if descA (s.peekNat desc 8) then 0 else min (bits lo 7 4 + 1) 15
    let s := s.clearA desc
    let cold := bits w.ctl.toNat 7 4 ≤ age
    let s := s.poke a (toBytes 8 (age * 16 + b2n cold * 8 + 1))
    if cold then
      let s := s.poke (w.qbase.toNat + 8 * (w.qtail.toNat % w.qsize.toNat)) (toBytes 8 (w.cursor.toNat % 2 ^ 40))
      s.sweepEnd b { w with qtail := w.qtail + 1 } true false
    else s.sweepEnd b w false false

/-- A visit, once PACE allows it: a sweep starts below the low watermark, and ends at the high watermark or at QSIZE. One that EN
0 interrupts goes on when EN is set again, whatever the count then is: the spec does not say (log 60). -/
def State.sweep (s : State) (b : Nat) : State :=
  let w := s.sweeper b
  if 2 ≤ b || !w.ctl.getLsbD 0 || w.tcount = 0 || s.tick < w.lastVisit + bits w.ctl.toNat 31 16 then s
  else
    let w := { w with running := w.running || decide (w.ready < w.low) }
    if !w.running then s
    else if w.high ≤ w.ready || w.qsize.toNat ≤ w.ready then s.setSweeper b { w with running := false }
    else s.sweepEntry b w

def execSweeperVisit (block : Nat) (s : State) : Host.Outcome State Fault Refusal := .next (s.sweep block)

/-! ### Ends of domains and resets (spec 19, R435, R438) -/

/-- The ending that was asked for first is done: `DOMEND.GO` reads 0 again if it named the domain. -/
def State.finishEnding (s : State) : State :=
  match s.rep.ending with
  | [] => s
  | d :: r =>
    let s := s.endDomain d 0x130
    { s with rep := { s.rep with
        ending := r
        domend := if bits s.rep.domend.toNat 11 0 = d then BitVec.ofNat 64 d else s.rep.domend } }

def execDomainEndingDone (s : State) : Host.Outcome State Fault Refusal := .next s.finishEnding

/-- The domains that the PASID table of a function names; domain 0 only through a valid entry. -/
def State.domainsOf (s : State) (f : Nat) : List Nat :=
  ((List.range (s.pasidCount f)).filterMap (fun p =>
    let e := s.pasidEntry f p
    if e.testBit 0 || bits e 63 52 != 0 then some (bits e 63 52) else none)).eraseDups

/-- Clear HEAD, TAIL and REFUSED of queue `q` of function `f`. -/
def State.clearQueue (s : State) (f q : Nat) : State :=
  let a := s.queueAddr f q
  if s.peekNat (a + 16) 8 = 0 ∧ bits (s.peekNat (a + 24) 8) 15 0 = 0 then s
  else (s.poke (a + 16) (List.replicate 8 0)).poke (a + 24) [0, 0]

/-- The requests that hosts have sent to function `f` and that are not served are answered with a NAK (spec 13, R355). -/
def State.nakInbox (s : State) (f : Nat) : State :=
  let s := (s.host.inbox.filter (fun r => r.func == f)).foldl (fun (s : State) r =>
    s.emit f r.qp (s.recvPsn f r.qp) (.nakAccess (f * 4096 + r.qp))) s
  { s with host := { s.host with inbox := s.host.inbox.filter (fun r => r.func != f) } }

/-- The reset of function `f` ends: its domains, and for function 0 those of every VF, end; the
requests of hosts that still wait are answered with a NAK; its queues are cleared, its packets and its held fault records (spec
20, R471) discarded, and its QPs are in STATE 0, with none of their requests left to send again; FRST reads 0. A VF that is not
enabled and whose PTBASE is zero has no PASID table yet. -/
def State.finishReset (s : State) (f : Nat) : State :=
  if !s.host.frst.contains f then s
  else
    let fs := if f = 0 then (List.range 64).filter (fun g => g = 0 || (s.ftWord g 0).testBit 63 || s.ftBase g 3 != 0) else [f]
    let ds := (fs.flatMap s.domainsOf).eraseDups
    let s := (ds.foldl (fun (s : State) d => s.endDomain d 0x131) s).nakInbox f
    let s := (List.range 2048).foldl (fun (s : State) q => s.clearQueue f q) s
    let s := (List.range (s.qpCount f)).foldl (fun (s : State) j =>
      if s.qpState f j = 0 then s else s.setQpState f j 0) s
    let s := s.setFblock f { s.fblock f with held := false }
    let recs := s.mmu.recs.filter (fun p => !(p.2.func == f && p.2.fid.isNone))
    { s with mmu := { s.mmu with recs := recs }, host := { s.host with
        frst := s.host.frst.filter (· != f)
        sent := s.host.sent.filter (fun e => e.func != f)
        retries := Map.keep s.host.retries (fun k _ => k / 4096 != f)
        gapped := s.host.gapped.filter (fun k => k / 4096 != f)
        peerq := s.host.peerq.filter (fun p => p.func != f)
        stalled := s.host.stalled.filter (fun k => k / 2048 != f) } }

def execFunctionResetDone (func : Nat) (s : State) : Host.Outcome State Fault Refusal := .next (s.finishReset func)

/-! ### Writes of registers by PF system software (spec 13, R341) -/

/-- A write of the 64-bit register at offset `o`. -/
def regEvent (o : Nat) (v : W64) (s : State) : Host.Outcome State Fault Refusal := .next (s.setRegWord o v.toNat)

def execFunctionTableWrite (func word : Nat) (v : W64) (s : State) : Host.Outcome State Fault Refusal :=
  .next (if func < 64 && word < 8 then s.setRegWord (0x420000 + 64 * func + 8 * word) v.toNat else s)

/-- FRST is written 1, the entry otherwise as it stands. -/
def execFrst (func : Nat) (s : State) : Host.Outcome State Fault Refusal :=
  .next (if func < 64 then s.setRegWord (0x420000 + 64 * func) (s.ftWord func 0 + 2 ^ 62) else s)

def execRegionSealWrite (region : Nat) (v : W64) (s : State) : Host.Outcome State Fault Refusal :=
  .next (if region < 64 then s.setRegWord (0x430000 + 8 * region) v.toNat else s)

def execDomend (v : W64) (s : State) : Host.Outcome State Fault Refusal := regEvent 0x440020 v s

def execHaltrel (v : W64) (s : State) : Host.Outcome State Fault Refusal := regEvent 0x440028 v s

def execFswCtlWrite (block : Nat) (v : W64) (s : State) : Host.Outcome State Fault Refusal :=
  .next (if block < 2 then s.setRegWord (0x400000 + 0x100 * block) v.toNat else s)

def execFswStatClear (block : Nat) (v : W64) (s : State) : Host.Outcome State Fault Refusal :=
  .next (if block < 2 then s.setRegWord (0x400050 + 0x100 * block) v.toNat else s)

def execFqctlWrite (func : Nat) (v : W64) (s : State) : Host.Outcome State Fault Refusal :=
  .next (if func < 64 then s.setRegWord (0x490000 + 64 * func) v.toNat else s)

def execFqrespWrite (func : Nat) (v : W64) (s : State) : Host.Outcome State Fault Refusal :=
  .next (if func < 64 then s.setRegWord (0x490038 + 64 * func) v.toNat else s)

def execFqstatClear (func : Nat) (v : W64) (s : State) : Host.Outcome State Fault Refusal :=
  .next (if func < 64 then s.setRegWord (0x490020 + 64 * func) v.toNat else s)

/-- Whether offset `o` is that of a register that any write clears: a cause counter, IRMISS, PEERREF, FPCRC or FPREPLAY. -/
def clearsOnWrite (o : Nat) : Bool :=
  (0x481000 ≤ o && o < 0x481800 && o % 4 == 0)
    || (0x490000 ≤ o && o < 0x491000 && (o % 64 == 0x28 || o % 64 == 0x30))
    || (0x460000 ≤ o && o < 0x460480 && (o % 64 == 0x10 || o % 64 == 0x18))

/-- Write the register at physical address `addr`. -/
def State.writeRegister (s : State) (addr v : Nat) : State :=
  let o := addr - regBase
  if addr < regBase || regBase + regSize ≤ addr then s
  else if regNarrow o then s.setNarrow (o / 4 * 4) (v % 2 ^ 32)
  else s.setRegWord (o / 8 * 8) v

def execCounterClear (addr : Nat) (s : State) : Host.Outcome State Fault Refusal :=
  .next (if clearsOnWrite (addr - regBase) then s.writeRegister addr 0 else s)

/-- RETRAIN is written 1, EN as it stands. -/
def execFpctlRetrain (port : Nat) (s : State) : Host.Outcome State Fault Refusal :=
  .next (if port < 18 then s.setRegWord (0x460000 + 64 * port) (b2n (s.fport port).en + 2) else s)

def execPwrcapWrite (v : W64) (s : State) : Host.Outcome State Fault Refusal := regEvent 0x470008 v s

def execMrreadWrite (v : W64) (s : State) : Host.Outcome State Fault Refusal := regEvent 0x470018 v s

/-- A write of a word of a queue's entry in the queue block; a stalled read of its ring is tried again (spec 20, R485). -/
def execQueueEntryWrite (func q word : Nat) (v : W64) (s : State) : Host.Outcome State Fault Refusal :=
  .next (if func < 64 && q < 2048 && word < 4 then
      s.writeLocs (.of func) [(.mem (s.queueAddr func q + 8 * word), toBytes 8 v.toNat)]
    else s)

def execRegisterWrite (addr : Nat) (v : W64) (s : State) : Host.Outcome State Fault Refusal :=
  .next (s.writeRegister addr v.toNat)

end Sys2Proof.Machine
end

