-- ==== Sys2Proof/Machine/Raster.lean ====
section
/-!
DEFINITION. The tile record and the instructions that work on it: `RASTRI`, `HIZQ` and `SHADEQ` (spec 10, R273 to R281; spec
12, R323, R331, R332; spec 18, R424).
-/

namespace Sys2Proof.Machine

/-! ### The tile record (R273) -/

/-- Bytes of a tile record. -/
def tileBytes : Nat := 37888

/-- Whether a record describes a tile record. -/
def tileOk (r : W128) : Bool :=
  recEsizeCode r = 0 && recStrideField r = 0 && recSwz r = 0 && tileBytes ≤ recExtent r

/-- Position of sample `s`, in sixteenths of a pixel from the pixel's corner. -/
def sampleAt (s : Nat) : Int × Int :=
  match s with
  | 0 => (6, 2)
  | 1 => (14, 6)
  | 2 => (2, 10)
  | _ => (10, 14)

/-- Offset of sample `s` of pixel `p`. -/
def sampleOff (p s : Nat) : Nat := 32 * p + 8 * s

/-- Offset of HZ of block `b`. -/
def hzOff (b : Nat) : Nat := 0x8000 + 4 * b

/-- Offset of WALK. -/
def walkOff : Nat := 0x8040

/-- Offset of the ticket counters of pixel `p`. -/
def pixOff (p : Nat) : Nat := 0x8400 + 4 * p

/-- The number of the pixel at column `i`, row `j` of block `b`. -/
def blockPixel (b i j : Nat) : Nat := 32 * (8 * (b / 4) + j) + 8 * (b % 4) + i

/-- The block of a pixel. -/
def pixelBlock (p : Nat) : Nat := 4 * (p / 32 / 8) + p % 32 / 8

/-- No primitive. -/
def noOwner : Nat := 0xFFFFFFFF

/-- `DepthPass` (R277): a NaN fails every function but `.al`. -/
def depthPass (f : DepthFn) (z d : W32) : Bool :=
  match f with
  | .lt => fccHolds .lt z d
  | .le => fccHolds .le z d
  | .al => true
  | .gt => fccHolds .gt z d

/-- A DEPTH as `BlockMax` counts it: a NaN as +∞ (log 34). -/
def depthKey (d : W32) : W32 := if f32Nan d then 0x7F800000 else d

/-- The DEPTH words of the 256 samples of a block, 32 bytes for each pixel. -/
def readBlock (c : MacCtx) (r : W128) (b : Nat) : List Nat → Mac (List W32)
  | [] => return []
  | k :: rest => do
    let v ← macRun c r (sampleOff (blockPixel b (k % 8) (k / 8)) 0) 8 4
    let l ← readBlock c r b rest
    return (List.range 4).map (fun s => BitVec.ofNat 32 (v / 2 ^ (64 * s))) ++ l

/-- `BlockMax` of depths. -/
def blockMax (l : List W32) : W32 :=
  match l with
  | [] => 0
  | d :: r => r.foldl (fun m x => fmaxBits m (depthKey x)) (depthKey d)

/-! ### `RASTRI` (R274 to R277) -/

/-- An edge: A, B, C. -/
abbrev Edge := Int × Int × Int

/-- The value of an edge at X, Y. -/
def edgeAt (e : Edge) (x y : Int) : Int := e.1 * x + e.2.1 * y + e.2.2

/-- Whether an edge covers a sample with value `v` (R276, the top-left rule). -/
def edgeCovers (e : Edge) (v : Int) : Bool := 0 < v || (v == 0 && (0 < e.1 || (e.1 == 0 && 0 < e.2.1)))

/-- The edge from vertex `p` to vertex `q`. -/
def edgeOf (p q : Int × Int) : Edge :=
  let a := p.2 - q.2
  let b := q.1 - p.1
  (a, b, -a * p.1 - b * p.2)

/-- The registers +1 to +9 of three edges (R275). -/
def edgeRegs (es : List Edge) : List W32 :=
  es.flatMap (fun e =>
    let v := wrap 22 e.1 * 2 ^ 42 + wrap 42 e.2.2
    [BitVec.ofNat 32 v, BitVec.ofNat 32 (v / 2 ^ 32)])
  ++ es.map (fun e => BitVec.ofInt 32 e.2.1)

/-- Edge `i` as the block holds it. -/
def MacCtx.edge (c : MacCtx) (i : Nat) : Edge :=
  let v := c.nat (1 + 2 * i) + c.nat (2 + 2 * i) * 2 ^ 32
  (sInt 22 (v / 2 ^ 42), sInt 32 (c.nat (7 + i)), sInt 42 (v % 2 ^ 42))

/-- X and Y of sample `s` of pixel (x, y), in units of 1/256 pixel. -/
def samplePos (x y s : Nat) : Int × Int := (256 * (x : Int) + 16 * (sampleAt s).1, 256 * (y : Int) + 16 * (sampleAt s).2)

/-- Whether some edge is negative at all 256 sample positions of block `b` (R277). -/
def blockMissed (es : List Edge) (b : Nat) : Bool :=
  es.any (fun e => (List.range 64).all (fun k => (List.range 4).all (fun s =>
    let q := samplePos (8 * (b % 4) + k % 8) (8 * (b / 4) + k / 8) s
    edgeAt e q.1 q.2 < 0)))

/-- The depth of a plane at X, Y, rounded once (R277). -/
def planeDepth (a b c : W32) (q : Int × Int) : W32 :=
  let at' (v : Int) : FR := .fin (decide (v < 0)) v.natAbs (-8)
  toF32 (FR.sum [FR.mul (ofF32 a) (at' q.1), FR.mul (ofF32 b) (at' q.2), ofF32 c])

/-- The set-up step (R276). Under 0x101 the block stays as it is (R424). -/
def rastriSetup (a : RastriArgs) (c : MacCtx) : Mac MOut := do
  let v ← macRead c (c.record 0) false c.opx.toNat 64
  let word (i : Nat) : Nat := v / 2 ^ (32 * i) % 2 ^ 32
  let p (i : Nat) : Int × Int := (sInt 32 (word (2 * i)), sInt 32 (word (2 * i + 1)))
  if (List.range 6).any (fun i => sInt 32 (word i) < -2 ^ 19 || 2 ^ 19 ≤ sInt 32 (word i)) then
    throw (.cause 0x101 0 true)
  else if word 9 = noOwner || (List.range' 10 6).any (fun i => word i ≠ 0) then macCause 0x102
  else
    let area := ((p 1).1 - (p 0).1) * ((p 2).2 - (p 0).2) - ((p 2).1 - (p 0).1) * ((p 1).2 - (p 0).2)
    if area = 0 || (decide (area < 0) && a.cull) then
      return { regs := c.head c.idata 3 0, ends := [c.lane] }
    else
      let q1 := if area < 0 then p 2 else p 1
      let q2 := if area < 0 then p 1 else p 2
      return { regs := c.head c.idata 1 0 ++ c.put 1 (edgeRegs [edgeOf (p 0) q1, edgeOf q1 q2, edgeOf q2 (p 0)])
                 ++ c.put 10 ([6, 7, 8, 9].map (fun i => BitVec.ofNat 32 (word i)) ++ [0, 0]) }

/-- The cursor registers, and STATUS 3 once BCUR is 16. -/
def rastriCursor (c : MacCtx) (inblk : Bool) (b p s : Nat) : List (Nat × Nat × W32) :=
  c.put 14 [BitVec.ofNat 32 (b2n inblk * 2 ^ 11 + p * 2 ^ 5 + b), BitVec.ofNat 32 s]
    ++ c.head c.idata (if 16 ≤ b then 3 else 1) 0

/-- The set-up, one block test or one sample (R277). The step that finishes a block in early mode also writes its HZ if
this `RASTRI` wrote a sample of the block (R271; log 34). -/
def rastriStep (a : RastriArgs) (c : MacCtx) : Mac MOut := do
  if c.unset then rastriSetup a c
  else
    let s ← get
    let early := earlyMode (c.launch s)
    let b := bits (c.nat 14) 4 0
    let p := bits (c.nat 14) 10 5
    let sm := bits (c.nat 15) 1 0
    let es := [c.edge 0, c.edge 1, c.edge 2]
    if 16 ≤ b then return { regs := c.head c.idata 3 0, ends := [c.lane] }
    else if !(c.nat 14).testBit 11 then
      let b' := if blockMissed es b then b + 1 else b
      return { regs := rastriCursor c (b' == b) b' p sm, ends := if 16 ≤ b' then [c.lane] else [] }
    else
      let x := 8 * (b % 4) + p % 8
      let y := 8 * (b / 4) + p / 8
      let q := samplePos x y sm
      let off := sampleOff (32 * y + x) sm
      let covered := es.all (fun e => edgeCovers e (edgeAt e q.1 q.2))
      let old ← (if covered then macRead c (c.record 1) true off 8 else pure 0)
      let d : W32 := BitVec.ofNat 32 old
      let z := planeDepth (c.reg 10) (c.reg 11) (c.reg 12) q
      let hit := covered && depthPass a.df z d
      let d' := if early then z else d
      let ws ← (if hit then macWrite c (c.record 1) true .write off 8 (d'.toNat + c.nat 13 * 2 ^ 32) else pure [])
      let last := p = 63 ∧ sm = 3
      let hz ← (if last ∧ early then do
          if c.wrote || hit then
            let all ← readBlock c (c.record 1) b (List.range 64)
            let now := if hit then all.zipIdx.map (fun e => if e.2 = 4 * p + sm then d' else e.1) else all
            macWrite c (c.record 1) true .write (hzOff b) 4 (blockMax now).toNat
          else pure []
        else pure [])
      let s' := (sm + 1) % 4
      let p' := if sm = 3 then (p + 1) % 64 else p
      let b' := if last then b + 1 else b
      return { ws := ws ++ hz, regs := rastriCursor c (!decide last) b' p' s',
               ends := if 16 ≤ b' then [c.lane] else [], wrote := !decide last && (c.wrote || hit) }

def execRastri (a : RastriArgs) (s : State) : Host.Outcome State Fault Refusal :=
  macIssue (.rastri a) { sb := a.sb, recs := [a.ra, a.rb], opx := a.tri, str := a.str.val }
    (fun _ x _ => codesWhere [(0x100, !tileOk (x.g.buf a.rb.val))]) s

/-! ### `HIZQ` (R278) -/

/-- Whether a block meets the rectangle of register +1. -/
def meetsRect (v b : Nat) : Bool :=
  let x := 8 * (b % 4)
  let y := 8 * (b / 4)
  bits v 4 0 ≤ bits v 14 10 && bits v 9 5 ≤ bits v 19 15 && x ≤ bits v 14 10 && bits v 4 0 ≤ x + 7
    && y ≤ bits v 19 15 && bits v 9 5 ≤ y + 7

/-- Whether a block that meets the rectangle stays in the mask. -/
def hizKeeps (f : DepthFn) (zn hz : W32) : Bool :=
  match f with
  | .lt => f32Nan zn || f32Nan hz || fccHolds .lt zn hz
  | .le => f32Nan zn || f32Nan hz || fccHolds .le zn hz
  | _ => true

/-- The one step of `HIZQ`. -/
def hizqStep (a : HizqArgs) (c : MacCtx) : Mac MOut := do
  let v ← macRun c (c.record 0) (hzOff 0) 4 16
  let m := buildNat 16 (fun b => meetsRect (c.nat 1) b && hizKeeps a.df (c.reg 2) (BitVec.ofNat 32 (v / 2 ^ (32 * b))))
  return { regs := c.head c.idata 3 0 ++ c.put 3 [BitVec.ofNat 32 m], ends := [c.lane] }

def execHizq (a : HizqArgs) (s : State) : Host.Outcome State Fault Refusal :=
  macIssue (.hizq a) { sb := a.sb, recs := [a.ra], opx := .z, str := a.str.val }
    (fun _ x t => codesWhere [(0x100, !tileOk (x.g.buf a.ra.val)),
      (0x105, bits (t.reg (MacOp.base { sb := a.sb, recs := [], opx := .z, str := 0 } + 1)).toNat 31 20 ≠ 0)]) s

/-! ### `SHADEQ` (R279 to R281) -/

/-- The OWNER of sample `s` in a pixel's 32 bytes. -/
def ownerIn (v s : Nat) : Nat := v / 2 ^ (64 * s + 32) % 2 ^ 32

/-- None as the OWNER of the samples of `l` of pixel `p`, whose 32 bytes are `v`. -/
def disown (c : MacCtx) (p v : Nat) : List Nat → Mac (List MWrite)
  | [] => return []
  | s :: r => do
    let w ← macWrite c (c.record 0) true .write (sampleOff p s) 8 (v / 2 ^ (64 * s) % 2 ^ 32 + noOwner * 2 ^ 32)
    let ws ← disown c p v r
    return w ++ ws

/-- The block of a lane with an item (R279): helper, pixel, mask, ticket, primitive. -/
def itemBlock (c : MacCtx) (lane : Nat) (helper : Bool) (x y m ticket prim : Nat) : List (Nat × Nat × W32) :=
  let at' (v : Nat) : W32 := toF32 (.fin false (2 * v + 1) (-1))
  let words : List W32 := [BitVec.ofNat 32 (b2n helper * 2 ^ 17 + 3 * 2 ^ 8), BitVec.ofNat 32 (x + y * 2 ^ 5 + m * 2 ^ 10),
    BitVec.ofNat 32 ticket, BitVec.ofNat 32 prim, at' x, at' y, 0, 0]
  words.zipIdx.map (fun e => (lane, c.op.base + e.2, e.1))

/-- The block of a lane without an item: NONE, and zero in the rest, whose values R279 leaves open (log 69). -/
def noneBlock (c : MacCtx) (lane : Nat) : List (Nat × Nat × W32) :=
  ([0x10300, 0, 0, 0, 0, 0, 0, 0] : List W32).zipIdx.map (fun e => (lane, c.op.base + e.2, e.1))

/-- Read the 32 bytes of pixels. -/
def readPixels (c : MacCtx) : List Nat → Mac (List Nat)
  | [] => return []
  | p :: r => do
    let v ← macRun c (c.record 0) (sampleOff p 0) 8 4
    let l ← readPixels c r
    return v :: l

/-- Hand out samples of pixels: pixel, its 32 bytes, the mask of samples. Each pixel's ISSUED is its ticket and then one
more; every OWNER handed out becomes none; 0x107 where ISSUED − RETIRED would reach 2^15 (R280, R424). -/
def handOut (c : MacCtx) : List (Nat × Nat × Nat) → Mac (List Nat × List MWrite)
  | [] => return ([], [])
  | (p, v, m) :: r => do
    let q ← macRead c (c.record 0) true (pixOff p) 4
    let issued := q % 2 ^ 16
    if 2 ^ 15 ≤ (issued + 2 ^ 16 - q / 2 ^ 16) % 2 ^ 16 + 1 then macCause 0x107
    else
      let w1 ← disown c p v ((List.range 4).filter m.testBit)
      let w2 ← macWrite c (c.record 0) true .write (pixOff p) 4 (q / 2 ^ 16 * 2 ^ 16 + (issued + 1) % 2 ^ 16)
      let l ← handOut c r
      return (issued :: l.1, w1 ++ w2 ++ l.2)

/-- Among `n` samples with owners `own`, those of the primitive whose lowest sample not yet handed out comes first: the
primitive and its mask. -/
def nextItem (n handed : Nat) (own : Nat → Nat) : Option (Nat × Nat) :=
  ((List.range n).find? (fun s => !handed.testBit s && own s != noOwner)).map (fun s =>
    (own s, buildNat n (fun k => !handed.testBit k && own k == own s)))

/-- The walk from pixel `p`, of which the samples of `handed` are handed out, over at most `k` pixels: the pixel found,
its bytes, primitive and mask. -/
def walkFrom (c : MacCtx) (p handed : Nat) : Nat → Mac (Option (Nat × Nat × Nat × Nat × Nat))
  | 0 => return none
  | k + 1 => do
    if 1024 ≤ p then return none
    else
      let v ← macRun c (c.record 0) (sampleOff p 0) 8 4
      match nextItem 4 handed (ownerIn v) with
      | some (prim, m) => return some (p, v, prim, m, handed)
      | none => walkFrom c (p + 1) 0 k

/-- The pixels of quad `q`, in the order of their lanes (R281; spec 09, R248). -/
def quadPixels (q : Nat) : List Nat :=
  (List.range 4).map (fun j => 32 * (2 * (q / 16) + j / 2) + 2 * (q % 16) + j % 2)

/-- The walk over quads: the quad found, the bytes of its pixels, primitive and mask of 16 samples. -/
def walkQuads (c : MacCtx) (q handed : Nat) : Nat → Mac (Option (Nat × List Nat × Nat × Nat × Nat))
  | 0 => return none
  | k + 1 => do
    if 256 ≤ q then return none
    else
      let vs ← readPixels c (quadPixels q)
      match nextItem 16 handed (fun i => ownerIn (vs.getD (i / 4) 0) (i % 4)) with
      | some (prim, m) => return some (q, vs, prim, m, handed)
      | none => walkQuads c (q + 1) 0 k

/-- One item without helper threads. -/
def shadeqPixel (c : MacCtx) (walk : Nat) : Mac MOut := do
  match ← walkFrom c (bits walk 10 0) (bits walk 14 11) 1025 with
  | none =>
    let ws ← macWrite c (c.record 0) true .write walkOff 4 1024
    return { ws := ws, regs := noneBlock c c.lane, ends := [c.lane] }
  | some (p, v, prim, m, handed) =>
    let h ← handOut c [(p, v, m)]
    let ws ← macWrite c (c.record 0) true .write walkOff 4 (p + (handed ||| m) * 2 ^ 11)
    return { ws := h.2 ++ ws, regs := itemBlock c c.lane false (p % 32) (p / 32) m (h.1.headD 0) prim,
             ends := [c.lane] }

/-- One quad item, for the four lanes of a full quad. -/
def shadeqQuad (c : MacCtx) (walk : Nat) : Mac MOut := do
  let lanes := (List.range 4).map (fun j => c.lane / 4 * 4 + j)
  match ← walkQuads c (bits walk 8 0) (bits walk 24 9) 257 with
  | none =>
    let ws ← macWrite c (c.record 0) true .write walkOff 4 256
    return { ws := ws, regs := lanes.flatMap (noneBlock c), ends := lanes }
  | some (q, vs, prim, m, handed) =>
    let part (j : Nat) : Nat := m / 2 ^ (4 * j) % 16
    let owned := (List.range 4).filter (fun j => part j ≠ 0)
    let px := quadPixels q
    let h ← handOut c (owned.map (fun j => (px.getD j 0, vs.getD j 0, part j)))
    let ws ← macWrite c (c.record 0) true .write walkOff 4 (q + (handed ||| m) * 2 ^ 9)
    let tick (j : Nat) : Nat := h.1.getD (owned.findIdx (· == j)) 0
    return { ws := h.2 ++ ws, ends := lanes
             regs := (List.range 4).flatMap (fun j =>
               let p := px.getD j 0
               itemBlock c (c.lane / 4 * 4 + j) (part j == 0) (p % 32) (p / 32) (part j)
                 (if part j = 0 then 0 else tick j) prim) }

/-- Whether WALK is out of range (R424; log 35). -/
def walkBad (helper : Bool) (w : Nat) : Bool :=
  if helper then 256 < bits w 8 0 || (bits w 8 0 == 256 && bits w 24 9 != 0) || bits w 31 25 != 0
  else 1024 < bits w 10 0 || (bits w 10 0 == 1024 && bits w 14 11 != 0) || bits w 31 15 != 0

/-- One item. -/
def shadeqStep (c : MacCtx) : Mac MOut := do
  let s ← get
  let helper := lrHelper (c.launch s)
  let walk ← macRead c (c.record 0) true walkOff 4
  if walkBad helper walk then macCauseAtIssue 0x106
  else if !helper then shadeqPixel c walk
  else if c.quad then shadeqQuad c walk
  else return { regs := noneBlock c c.lane, ends := [c.lane] }

def execShadeq (a : BlkRecArgs) (s : State) : Host.Outcome State Fault Refusal :=
  macIssue (.shadeq a) { sb := a.sb, recs := [a.ra], opx := .z, str := a.str.val }
    (fun _ x _ => codesWhere [(0x100, !tileOk (x.g.buf a.ra.val))]) s

end Sys2Proof.Machine
end

