-- ==== Sys2Proof/Machine/Blend.lean ====
section
/-!
DEFINITION. `OBLEND` (spec 10, R282 to R284; spec 12, R331, R333; spec 18, R424) and the exact arithmetic of its channels.
-/

namespace Sys2Proof.Machine

/-! ### Exact rationals with infinities, NaN and signed zeros (spec 05, R128) -/

/-- An exact value: (−1)^neg · num / den with den positive, an infinity, or NaN. -/
inductive XR where
  | nan
  | inf (neg : Bool)
  | fin (neg : Bool) (num den : Nat)
deriving DecidableEq, Repr

/-- A dyadic value as a rational. -/
def xrOf : FR → XR
  | .nan => .nan
  | .inf s => .inf s
  | .fin s m e => if 0 ≤ e then .fin s (m * 2 ^ e.toNat) 1 else .fin s m (2 ^ (-e).toNat)

def xrNeg : XR → XR
  | .nan => .nan
  | .inf s => .inf !s
  | .fin s n d => .fin (!s) n d

def xrMul : XR → XR → XR
  | .nan, _ => .nan
  | _, .nan => .nan
  | .inf s, .inf t => .inf (s != t)
  | .inf s, .fin t n _ => if n = 0 then .nan else .inf (s != t)
  | .fin s n _, .inf t => if n = 0 then .nan else .inf (s != t)
  | .fin s n d, .fin t m e => .fin (s != t) (n * m) (d * e)

/-- The exact sum of two values; a zero sum is +0 unless both are −0. -/
def xrAdd : XR → XR → XR
  | .nan, _ => .nan
  | _, .nan => .nan
  | .inf s, .inf t => if s = t then .inf s else .nan
  | .inf s, _ => .inf s
  | _, .inf t => .inf t
  | .fin s n d, .fin t m e =>
    let a : Int := if s then -((n * e : Nat) : Int) else (n * e : Nat)
    let b : Int := if t then -((m * d : Nat) : Int) else (m * d : Nat)
    if a + b = 0 then .fin (n = 0 && m = 0 && s && t) 0 1 else .fin (decide (a + b < 0)) (a + b).natAbs (d * e)

/-- Whether `a` is less than `b`, −0 below +0 (spec 09, R236); for values that are not NaN. -/
def xrLt : XR → XR → Bool
  | .nan, _ => false
  | _, .nan => false
  | .inf s, .inf t => s && !t
  | .inf s, _ => s
  | _, .inf t => !t
  | .fin s n d, .fin t m e =>
    if n = 0 ∧ m = 0 then s && !t
    else
      let a : Int := if s then -((n * e : Nat) : Int) else (n * e : Nat)
      let b : Int := if t then -((m * d : Nat) : Int) else (m * d : Nat)
      a < b

/-- The smaller value; NaN if either is. -/
def xrMin (a b : XR) : XR := if a = .nan ∨ b = .nan then .nan else if xrLt b a then b else a

/-- The larger value; NaN if either is. -/
def xrMax (a b : XR) : XR := if a = .nan ∨ b = .nan then .nan else if xrLt a b then b else a

/-- A rational as a value to round: exact, or with its last bit standing for the inexact rest. -/
def frOf : XR → FR
  | .nan => .nan
  | .inf s => .inf s
  | .fin s n d => FR.div (.fin s n 0) (.fin false d 0)

/-- n ÷ d rounded to an integer, ties to even. -/
def rneDiv (n d : Nat) : Nat :=
  let q := n / d
  let r := n % d
  if 2 * r < d then q else if 2 * r = d then q + q % 2 else q + 1

/-! ### Channels (R284) -/

/-- The integer `k`-th root of `n`, bit by bit from bit `i` down. -/
def irootFrom (k n r : Nat) : Nat → Nat
  | 0 => if (r + 1) ^ k ≤ n then r + 1 else r
  | i + 1 =>
    let c := r + 2 ^ (i + 1)
    irootFrom k n (if c ^ k ≤ n then c else r) i

/-- The integer `k`-th root. -/
def iroot (k n : Nat) : Nat := irootFrom k n 0 (Nat.log2 n / k + 1)

/-- Bits to which an irrational power is taken before the one rounding (log 36). -/
def powBits : Nat := 256

/-- (n / d)^(p / q), to `powBits` bits after the point and exact where it is a fraction of that many. -/
def powFrac (n d p q : Nat) : XR := .fin false (iroot q (n ^ p * 2 ^ (powBits * q) / d ^ p)) (2 ^ powBits)

/-- The IEC 61966-2-1 decoding of code `n` of 255: linear up to 0.04045, a power of 2.4 above. -/
def srgbDecode (n : Nat) : XR :=
  if n * 100000 ≤ 4045 * 255 then .fin false (n * 100) (255 * 1292)
  else if n = 255 then .fin false 1 1
  else powFrac (n * 1000 + 55 * 255) (1055 * 255) 12 5

/-- 255 times the IEC 61966-2-1 encoding of n / d in 0 to 1, rounded by RNE. -/
def srgbEncode (n d : Nat) : Nat :=
  if n * 10000000 ≤ 31308 * d then rneDiv (n * 1292 * 255) (d * 100)
  else
    match powFrac n d 5 12 with
    | .fin _ r e => rneDiv (255 * (1055 * r - 55 * e)) (1000 * e)
    | _ => 0

/-- A value clamped to 0 to 1, as numerator and denominator; NaN gives 0. -/
def clampUnit : XR → Nat × Nat
  | .nan => (0, 1)
  | .inf s => if s then (0, 1) else (1, 1)
  | .fin s n d => if s then (0, 1) else if d ≤ n then (1, 1) else (n, d)

/-- Channel `i` of colour format `f` in an element. -/
def channelOf (f v i : Nat) : XR :=
  if f = 2 then xrOf (FR.ofBits .f16 (v / 2 ^ (16 * i) % 2 ^ 16))
  else
    let n := v / 2 ^ (8 * i) % 2 ^ 8
    if f = 1 ∧ i < 3 then srgbDecode n else .fin false n 255

/-- Store a result in channel `i` of format `f`. -/
def channelTo (f i : Nat) (x : XR) : Nat :=
  if f = 2 then roundTo .f16 .rne false (frOf x)
  else
    let c := clampUnit x
    if f = 1 ∧ i < 3 then srgbEncode c.1 c.2 else rneDiv (255 * c.1) c.2

/-- Bits of a channel. -/
def channelBits (f : Nat) : Nat := if f = 2 then 16 else 8

/-- A blend factor (R282). -/
def blendFactor (code : Nat) (sa da : XR) : XR :=
  let one : XR := .fin false 1 1
  match code with
  | 0 => .fin false 0 1
  | 1 => one
  | 2 => sa
  | 3 => xrAdd one (xrNeg sa)
  | 4 => da
  | _ => xrAdd one (xrNeg da)

/-- A blend operation (R282). -/
def blendOp (code : Nat) (s fs d fd : XR) : XR :=
  match code with
  | 0 => xrAdd (xrMul s fs) (xrMul d fd)
  | 1 => xrAdd (xrMul s fs) (xrNeg (xrMul d fd))
  | 2 => xrAdd (xrMul d fd) (xrNeg (xrMul s fs))
  | 3 => xrMin s d
  | _ => xrMax s d

/-- CFMT of register +3. -/
def blendFmt (ctl : Nat) : Nat := bits ctl 25 23

/-- `Blend`: the colour element after channels that WMASK enables take their results (R283, R284). -/
def blend (ctl : Nat) (src : List W32) (v : Nat) : Nat :=
  let f := blendFmt ctl
  let s (i : Nat) : XR := xrOf (ofF32 (src.getD i 0))
  let d (i : Nat) : XR := channelOf f v i
  let n := channelBits f
  (List.range 4).foldl (fun acc i =>
    let k := if i = 3 then 9 else 0
    let r := blendOp (bits ctl (k + 8) (k + 6)) (s i) (blendFactor (bits ctl (k + 2) k) (s 3) (d 3)) (d i)
      (blendFactor (bits ctl (k + 5) (k + 3)) (s 3) (d 3))
    acc + (if ctl.testBit (18 + i) then channelTo f i r else v / 2 ^ (n * i) % 2 ^ n) * 2 ^ (n * i)) 0

/-! ### `OBLEND` (R283) -/

/-- One step: a sample of the mask, or the last step, which retires the item. Before its first sample the item waits
until its ticket is next. -/
def oblendStep (a : OblendArgs) (c : MacCtx) : Mac MOut := do
  let s ← get
  let early := earlyMode (c.launch s)
  let pixw := c.nat 1
  let ctl := c.nat 3
  let mask := bits pixw 13 10
  let p := 32 * bits pixw 9 5 + bits pixw 4 0
  let sdone := c.idata % 16
  if mask = 0 then return { regs := c.head c.idata 3 0, ends := [c.lane] }
  else
    let q ← macRead c (c.record 1) true (pixOff p) 4
    if sdone = 0 && q / 2 ^ 16 ≠ c.nat 2 % 2 ^ 16 then macWait
    else
      match (List.range 4).find? (fun i => mask.testBit i && !sdone.testBit i) with
      | some i =>
        let disc := ctl.testBit 22
        let v ← (if !early && !disc then macRead c (c.record 1) true (sampleOff p i) 8 else pure 0)
        let pass := !disc && (early || depthPass a.df c.opx (BitVec.ofNat 32 v))
        let n := if blendFmt ctl = 2 then 8 else 4
        let old ← (if pass then macRead c (c.record 0) true (4 * p + i) n else pure 0)
        let w1 ← (if pass then
            macWrite c (c.record 0) true .write (4 * p + i) n (blend ctl [c.reg 4, c.reg 5, c.reg 6, c.reg 7] old)
          else pure [])
        let w2 ← (if pass && !early then
            macWrite c (c.record 1) true .write (sampleOff p i) 8 (v / 2 ^ 32 * 2 ^ 32 + c.opx.toNat)
          else pure [])
        return { ws := w1 ++ w2, regs := c.head (c.idata / 16 * 16 + (sdone ||| 2 ^ i)) 1 0 }
      | none =>
        let w1 ← macWrite c (c.record 1) true .write (pixOff p) 4 (q % 2 ^ 16 + (q / 2 ^ 16 + 1) % 2 ^ 16 * 2 ^ 16)
        let b := pixelBlock p
        let w2 ← (if early then pure [] else do
          let all ← readBlock c (c.record 1) b (List.range 64)
          macWrite c (c.record 1) true .write (hzOff b) 4 (blockMax all).toNat)
        return { ws := w1 ++ w2, regs := c.head c.idata 3 0, ends := [c.lane] }

/-- The causes of an `OBLEND` found at issue (R331, R389, R424). -/
def oblendCheck (a : OblendArgs) (s : State) (x : Iss) (t : Thread) : List Nat :=
  let ws := s.recOf x.g
  let b := MacOp.base { sb := a.sb, recs := [], opx := .z, str := 0 }
  let r (i : Nat) : Nat := (t.reg (b + i)).toNat
  let ctl := r 3
  let f := blendFmt ctl
  let opx := decide (a.zsrc ≠ .g 0)
  codesWhere [
    (0x100, !tileOk (x.g.buf a.rb.val)),
    (0x103, lrNodisc ws && ctl.testBit 22),
    (0x104, lrNodepth ws && opx),
    (0x078, 2 < f),
    (0x079, f ≤ 2 && recEsizeCode (x.g.buf a.ra.val) ≠ (if f = 2 then 3 else 2)),
    (0x07A, [0, 3, 9, 12].any (fun k => 5 < bits ctl (k + 2) k)),
    (0x07B, [6, 15].any (fun k => 4 < bits ctl (k + 2) k)),
    (0x07C, bits (r 0) 31 20 ≠ 0 || bits ctl 31 26 ≠ 0),
    (0x07D, earlyMode ws && opx),
    (0x07E, bits (r 1) 31 14 ≠ 0),
    (0x07F, bits (r 2) 31 16 ≠ 0)]

def execOblend (a : OblendArgs) (s : State) : Host.Outcome State Fault Refusal :=
  macIssue (.oblend a) { sb := a.sb, recs := [a.ra, a.rb], opx := a.zsrc, str := a.str.val } (oblendCheck a) s

end Sys2Proof.Machine
end

