-- ==== Sys2Proof/Machine/Int.lean ====
section
/-!
DEFINITION. Integer, logic, shift, bit-field and comparison instructions (spec 07, R163 to R176). Each acts on every
lane whose guard is true, reads all its sources at issue (R161), and writes modulo 2^wd (R160).
-/

namespace Sys2Proof.Machine

/-! ### Shapes -/

/-- `D := f(S1)` in the width of the form. -/
def lane1 (a : A1) (f : Nat → Nat) (x : Iss) (_ : Nat) (t : Thread) : Thread :=
  opPut a.wide a.d (f (opNat a.wide a.s1 x.v t)) t

/-- `D := f(S1, S2)` in the width of the form. -/
def lane2 (a : A2) (f : Nat → Nat → Nat) (x : Iss) (_ : Nat) (t : Thread) : Thread :=
  opPut a.wide a.d (f (opNat a.wide a.s1 x.v t) (opNat a.wide a.s2 x.v t)) t

/-- `D := f(S1, F)` where F is a single register in both widths. -/
def lane2s (a : A2) (f : Nat → Nat → Nat) (x : Iss) (_ : Nat) (t : Thread) : Thread :=
  opPut a.wide a.d (f (opNat a.wide a.s1 x.v t) (opRead a.s2 x.v t).toNat) t

/-- `D := f(S1, S2, S3)` in the width of the form. -/
def lane3 (a : A3) (f : Nat → Nat → Nat → Nat) (x : Iss) (_ : Nat) (t : Thread) : Thread :=
  opPut a.wide a.d (f (opNat a.wide a.s1 x.v t) (opNat a.wide a.s2 x.v t) (opNat a.wide a.s3 x.v t)) t

/-- The immediate in the width of a form: sign-extended in the 64-bit form (spec 06, R140). -/
def immNat (wide : Bool) (i : W32) : Nat := if wide then (i.signExtend 64).toNat else i.toNat

/-- `D := f(S1, IMM)` in the width of the form. -/
def laneImm (a : A1i) (f : Nat → Nat → Nat) (x : Iss) (_ : Nat) (t : Thread) : Thread :=
  opPut a.wide a.d (f (opNat a.wide a.s1 x.v t) (immNat a.wide a.imm)) t

/-- `D := f(S1, shift)` in the width of the form. -/
def laneShi (a : ShiArgs) (f : Nat → Nat → Nat) (x : Iss) (_ : Nat) (t : Thread) : Thread :=
  opPut a.wide a.d (f (opNat a.wide a.s1 x.v t) a.sh.val) t

/-! ### The functions computed -/

/-- A shift left of `v` at width `wd`; nothing is left at `wd` or more (spec 07, R170). -/
def shlNat (wd v n : Nat) : Nat := if n < wd then v * 2 ^ n % 2 ^ wd else 0

/-- A shift right with zero fill. -/
def shrNat (wd v n : Nat) : Nat := if n < wd then v / 2 ^ n else 0

/-- A shift right with sign fill; at `wd` or more, every bit is the sign bit. -/
def sarNat (wd v n : Nat) : Nat := wrap wd (sInt wd v / (2 ^ min n (wd - 1) : Nat))

/-- A rotation left. -/
def rotlNat (wd v n : Nat) : Nat :=
  let k := n % wd
  (v * 2 ^ k) % 2 ^ wd + v / 2 ^ (wd - k)

/-- Zero bits above the highest one bit. -/
def clzNat (wd v : Nat) : Nat := match highBit wd v with
  | some i => wd - 1 - i
  | none => wd

/-- Bits in reverse order. -/
def brevNat (wd v : Nat) : Nat := buildNat wd (fun j => v.testBit (wd - 1 - j))

/-- Position of a field descriptor (spec 07, R172). -/
def fieldPos (wd f : Nat) : Nat := min (bits f 7 0) wd

/-- Length of a field descriptor. -/
def fieldLen (wd f : Nat) : Nat := min (bits f 15 8) (wd - fieldPos wd f)

/-- The field, zero-extended. -/
def bfxuNat (wd v f : Nat) : Nat := v / 2 ^ fieldPos wd f % 2 ^ fieldLen wd f

/-- The field, sign-extended from its highest bit; a length of 0 gives 0. -/
def bfxsNat (wd v f : Nat) : Nat :=
  if fieldLen wd f = 0 then 0 else wrap wd (sInt (fieldLen wd f) (bfxuNat wd v f))

/-- `v` with the field replaced by the low bits of `b`. -/
def bfiNat (wd v b f : Nat) : Nat :=
  let p := fieldPos wd f
  let n := fieldLen wd f
  v % 2 ^ p + b % 2 ^ n * 2 ^ p + v / 2 ^ (p + n) * 2 ^ (p + n)

/-- One byte of `PRMT` (spec 07, R173): `x` is the eight source bytes as one number. -/
def prmtByte (x sel : Nat) : Nat :=
  let b := x / 2 ^ (8 * (sel % 8)) % 256
  match bits sel 4 3 with
  | 0 => b
  | 1 => 0
  | 2 => if b.testBit 7 then 255 else 0
  | _ => brevNat 8 b

/-- `PRMT`: four bytes by the four selector bytes. -/
def prmtNat (a b c : Nat) : Nat :=
  let x := a + b * 2 ^ 32
  prmtByte x (bits c 7 0) + prmtByte x (bits c 15 8) * 2 ^ 8 + prmtByte x (bits c 23 16) * 2 ^ 16
    + prmtByte x (bits c 31 24) * 2 ^ 24

/-- The high half of the signed product at width `wd` (spec 07, R165). -/
def mulHiS (wd a b : Nat) : Nat := wrap wd (sInt wd a * sInt wd b / (2 ^ wd : Nat))

/-- The high half of the unsigned product. -/
def mulHiU (wd a b : Nat) : Nat := a * b / 2 ^ wd

/-- Quotient rounded toward zero, or the remainder, of signed values (spec 07, R167). -/
def divS (wd : Nat) (rem : Bool) (a b : Nat) : Nat :=
  wrap wd (if rem then (sInt wd a).tmod (sInt wd b) else (sInt wd a).tdiv (sInt wd b))

/-- Quotient or remainder of unsigned values. -/
def divU (rem : Bool) (a b : Nat) : Nat := if rem then a % b else a / b

/-! ### Moves (R163) -/

def execNop (a : H0) (s : State) : Host.Outcome State Fault Refusal :=
  issue (.nop a) (fun x s => s.advance x) s

def execMov (a : A1) (s : State) : Host.Outcome State Fault Refusal :=
  issue (.mov a) (laneWise (lane1 a id)) s

def execMovi (a : MoviArgs) (s : State) : Host.Outcome State Fault Refusal :=
  issue (.movi a) (laneWise (fun _ _ t => opPut a.wide a.d (immNat a.wide a.imm) t)) s

/-- The upper register of the pair; the lower is unchanged. -/
def movhiLane (a : ImmArgs) (t : Thread) : Thread :=
  match a.d with
  | .g k => t.setReg (k.val + 1) a.imm
  | _ => t

def execMovhi (a : ImmArgs) (s : State) : Host.Outcome State Fault Refusal :=
  issue (.movhi a) (laneWise (fun _ _ t => movhiLane a t)) s

/-! ### Addition and subtraction (R164) -/

/-- The sum of two sources and a carry in, with the carry out. -/
def addLane (wide : Bool) (d : Opnd) (co : Fin 8) (a b c : Nat) (t : Thread) : Thread :=
  (opPut wide d (a + b + c) t).setPred co (carryOut (wdOf wide) (a + b + c))

/-- The difference of two sources and a borrow in, with the borrow out. -/
def subLane (wide : Bool) (d : Opnd) (co : Fin 8) (a b c : Nat) (t : Thread) : Thread :=
  (opPut wide d (wrap (wdOf wide) ((a : Int) - b - c)) t).setPred co (borrowOut a b c)

def execIadd (a : A2c) (s : State) : Host.Outcome State Fault Refusal :=
  issue (.iadd a) (laneWise (fun x _ t =>
    addLane a.wide a.d a.co (opNat a.wide a.s1 x.v t) (opNat a.wide a.s2 x.v t) 0 t)) s

def execIaddi (a : A1i) (s : State) : Host.Outcome State Fault Refusal :=
  issue (.iaddi a) (laneWise (laneImm a (· + ·))) s

def execIaddc (a : A2cc) (s : State) : Host.Outcome State Fault Refusal :=
  issue (.iaddc a) (laneWise (fun x _ t =>
    addLane a.wide a.d a.co (opNat a.wide a.s1 x.v t) (opNat a.wide a.s2 x.v t) (b2n (t.pred a.ci)) t)) s

def execIsub (a : A2c) (s : State) : Host.Outcome State Fault Refusal :=
  issue (.isub a) (laneWise (fun x _ t =>
    subLane a.wide a.d a.co (opNat a.wide a.s1 x.v t) (opNat a.wide a.s2 x.v t) 0 t)) s

def execIsubb (a : A2cc) (s : State) : Host.Outcome State Fault Refusal :=
  issue (.isubb a) (laneWise (fun x _ t =>
    subLane a.wide a.d a.co (opNat a.wide a.s1 x.v t) (opNat a.wide a.s2 x.v t) (b2n (t.pred a.ci)) t)) s

/-! ### Multiplication (R165), addresses (R166), division (R167) -/

def execImul (a : A2) (s : State) : Host.Outcome State Fault Refusal :=
  issue (.imul a) (laneWise (lane2 a (· * ·))) s

def execImulhs (a : A2) (s : State) : Host.Outcome State Fault Refusal :=
  issue (.imulhs a) (laneWise (lane2 a (mulHiS (wdOf a.wide)))) s

def execImulhu (a : A2) (s : State) : Host.Outcome State Fault Refusal :=
  issue (.imulhu a) (laneWise (lane2 a (mulHiU (wdOf a.wide)))) s

def execImulws (a : B2) (s : State) : Host.Outcome State Fault Refusal :=
  issue (.imulws a) (laneWise (fun x _ t =>
    opPut true a.d (wrap 64 ((opRead a.s1 x.v t).toInt * (opRead a.s2 x.v t).toInt)) t)) s

def execImulwu (a : B2) (s : State) : Host.Outcome State Fault Refusal :=
  issue (.imulwu a) (laneWise (fun x _ t =>
    opPut true a.d ((opRead a.s1 x.v t).toNat * (opRead a.s2 x.v t).toNat) t)) s

def execImad (a : A3) (s : State) : Host.Outcome State Fault Refusal :=
  issue (.imad a) (laneWise (lane3 a (fun p q r => p * q + r))) s

/-- `LEA`: the 64-bit base plus the extended index shifted left, modulo 2^64. -/
def leaNat (sx : Bool) (sh : Nat) (base : W64) (index : W32) : Nat :=
  (base + (if sx then index.signExtend 64 else index.setWidth 64) <<< sh).toNat

def execLea (a : LeaArgs) (s : State) : Host.Outcome State Fault Refusal :=
  issue (.lea a) (laneWise (fun x _ t =>
    opPut true a.d (leaNat a.sx a.sh.val (opRead64 a.s1 x.v t) (opRead a.s2 x.v t)) t)) s

/-- A division: lanes whose divisor is zero perform nothing and take 0x040 + D, with D[2] for `IDIVU`, D[1] for the
64-bit form and D[0] for `.rem` (spec 18, R408); the others complete. -/
def divBody (a : DivArgs) (uns : Bool) (f : Nat → Nat → Nat) (x : Iss) (s : State) : State :=
  let bad := maskOf ((lanesOf x.on).filter (fun l => match s.laneThread x.w l with
    | some t => opNat a.wide a.s2 x.v t == 0
    | none => false))
  (s.mapLanes x.w (x.on &&& ~~~bad) (fun _ t =>
    opPut a.wide a.d (f (opNat a.wide a.s1 x.v t) (opNat a.wide a.s2 x.v t)) t)).faultLanes x bad
    (0x040 + 4 * b2n uns + 2 * b2n a.wide + b2n a.rem)

def execIdivs (a : DivArgs) (s : State) : Host.Outcome State Fault Refusal :=
  issue (.idivs a) (divBody a false (divS (wdOf a.wide) a.rem)) s

def execIdivu (a : DivArgs) (s : State) : Host.Outcome State Fault Refusal :=
  issue (.idivu a) (divBody a true (divU a.rem)) s

/-! ### Minimum, maximum, absolute value (R168) -/

/-- The operand whose signed value is smaller. -/
def minS (wd a b : Nat) : Nat := if sInt wd a ≤ sInt wd b then a else b

/-- The operand whose signed value is larger. -/
def maxS (wd a b : Nat) : Nat := if sInt wd a ≤ sInt wd b then b else a

def execImins (a : A2) (s : State) : Host.Outcome State Fault Refusal :=
  issue (.imins a) (laneWise (lane2 a (minS (wdOf a.wide)))) s

def execIminu (a : A2) (s : State) : Host.Outcome State Fault Refusal :=
  issue (.iminu a) (laneWise (lane2 a min)) s

def execImaxs (a : A2) (s : State) : Host.Outcome State Fault Refusal :=
  issue (.imaxs a) (laneWise (lane2 a (maxS (wdOf a.wide)))) s

def execImaxu (a : A2) (s : State) : Host.Outcome State Fault Refusal :=
  issue (.imaxu a) (laneWise (lane2 a max)) s

def execIabs (a : A1) (s : State) : Host.Outcome State Fault Refusal :=
  issue (.iabs a) (laneWise (lane1 a (fun v => (sInt (wdOf a.wide) v).natAbs))) s

/-! ### Logic (R169) -/

def execAnd (a : A2) (s : State) : Host.Outcome State Fault Refusal :=
  issue (.and a) (laneWise (lane2 a (· &&& ·))) s

def execAndi (a : A1i) (s : State) : Host.Outcome State Fault Refusal :=
  issue (.andi a) (laneWise (laneImm a (· &&& ·))) s

def execOr (a : A2) (s : State) : Host.Outcome State Fault Refusal :=
  issue (.or a) (laneWise (lane2 a (· ||| ·))) s

def execOri (a : A1i) (s : State) : Host.Outcome State Fault Refusal :=
  issue (.ori a) (laneWise (laneImm a (· ||| ·))) s

def execXor (a : A2) (s : State) : Host.Outcome State Fault Refusal :=
  issue (.xor a) (laneWise (lane2 a (· ^^^ ·))) s

def execXori (a : A1i) (s : State) : Host.Outcome State Fault Refusal :=
  issue (.xori a) (laneWise (laneImm a (· ^^^ ·))) s

def execAndn (a : A2) (s : State) : Host.Outcome State Fault Refusal :=
  issue (.andn a) (laneWise (lane2 a (fun p q => p &&& (2 ^ wdOf a.wide - 1 - q)))) s

def execLop3 (a : A3t) (s : State) : Host.Outcome State Fault Refusal :=
  issue (.lop3 a) (laneWise (fun x _ t =>
    opPut a.wide a.d (tableNat (wdOf a.wide) a.table.val (opNat a.wide a.s1 x.v t) (opNat a.wide a.s2 x.v t)
      (opNat a.wide a.s3 x.v t)) t)) s

/-! ### Shifts (R170), counts (R171), bit fields (R172), byte permutes (R173) -/

def execShl (a : A2) (s : State) : Host.Outcome State Fault Refusal :=
  issue (.shl a) (laneWise (lane2s a (shlNat (wdOf a.wide)))) s

def execShr (a : A2) (s : State) : Host.Outcome State Fault Refusal :=
  issue (.shr a) (laneWise (lane2s a (shrNat (wdOf a.wide)))) s

def execSar (a : A2) (s : State) : Host.Outcome State Fault Refusal :=
  issue (.sar a) (laneWise (lane2s a (sarNat (wdOf a.wide)))) s

def execShli (a : ShiArgs) (s : State) : Host.Outcome State Fault Refusal :=
  issue (.shli a) (laneWise (laneShi a (shlNat (wdOf a.wide)))) s

def execShri (a : ShiArgs) (s : State) : Host.Outcome State Fault Refusal :=
  issue (.shri a) (laneWise (laneShi a (shrNat (wdOf a.wide)))) s

def execSari (a : ShiArgs) (s : State) : Host.Outcome State Fault Refusal :=
  issue (.sari a) (laneWise (laneShi a (sarNat (wdOf a.wide)))) s

def execRotl (a : A2) (s : State) : Host.Outcome State Fault Refusal :=
  issue (.rotl a) (laneWise (lane2s a (rotlNat (wdOf a.wide)))) s

/-- A count: the destination is a single register in both widths. -/
def countLane (a : A1) (f : Nat → Nat) (x : Iss) (_ : Nat) (t : Thread) : Thread :=
  opPut false a.d (f (opNat a.wide a.s1 x.v t)) t

def execPopc (a : A1) (s : State) : Host.Outcome State Fault Refusal :=
  issue (.popc a) (laneWise (countLane a (popCount (wdOf a.wide)))) s

def execClz (a : A1) (s : State) : Host.Outcome State Fault Refusal :=
  issue (.clz a) (laneWise (countLane a (clzNat (wdOf a.wide)))) s

def execBrev (a : A1) (s : State) : Host.Outcome State Fault Refusal :=
  issue (.brev a) (laneWise (lane1 a (brevNat (wdOf a.wide)))) s

def execBfxs (a : A2) (s : State) : Host.Outcome State Fault Refusal :=
  issue (.bfxs a) (laneWise (lane2s a (bfxsNat (wdOf a.wide)))) s

def execBfxu (a : A2) (s : State) : Host.Outcome State Fault Refusal :=
  issue (.bfxu a) (laneWise (lane2s a (bfxuNat (wdOf a.wide)))) s

def execBfi (a : A3) (s : State) : Host.Outcome State Fault Refusal :=
  issue (.bfi a) (laneWise (fun x _ t =>
    opPut a.wide a.d (bfiNat (wdOf a.wide) (opNat a.wide a.s1 x.v t) (opNat a.wide a.s2 x.v t)
      (opRead a.s3 x.v t).toNat) t)) s

def execPrmt (a : B3) (s : State) : Host.Outcome State Fault Refusal :=
  issue (.prmt a) (laneWise (fun x _ t =>
    opPut false a.d (prmtNat (opRead a.s1 x.v t).toNat (opRead a.s2 x.v t).toNat (opRead a.s3 x.v t).toNat) t)) s

/-! ### Selection, comparison and predicate logic (R174 to R176) -/

def execSel (a : SelArgs) (s : State) : Host.Outcome State Fault Refusal :=
  issue (.sel a) (laneWise (fun x _ t =>
    opPut a.wide a.d (if t.pred a.ps != a.neg then opNat a.wide a.s1 x.v t else opNat a.wide a.s2 x.v t) t)) s

/-- A comparison with truth `r`: all ones or zero to D, and the combined predicate. -/
def cmpLane (a : IcmpArgs) (r : Bool) (t : Thread) : Thread :=
  (opPut a.wide a.d (onesIf (wdOf a.wide) r) t).setPred a.pd (combine a.comb r (t.pred a.pm))

def execIcmps (a : IcmpArgs) (s : State) : Host.Outcome State Fault Refusal :=
  issue (.icmps a) (laneWise (fun x _ t =>
    cmpLane a (ccHolds a.cc (sInt (wdOf a.wide) (opNat a.wide a.s1 x.v t))
      (sInt (wdOf a.wide) (opNat a.wide a.s2 x.v t))) t)) s

def execIcmpu (a : IcmpArgs) (s : State) : Host.Outcome State Fault Refusal :=
  issue (.icmpu a) (laneWise (fun x _ t =>
    cmpLane a (ccHolds a.cc (opNat a.wide a.s1 x.v t) (opNat a.wide a.s2 x.v t)) t)) s

def execPlop (a : PlopArgs) (s : State) : Host.Outcome State Fault Refusal :=
  issue (.plop a) (laneWise (fun _ _ t =>
    t.setPred a.pd (tableBit a.table.val (t.pred a.pa) (t.pred a.pb) (t.pred a.pc)))) s

end Sys2Proof.Machine
end

