-- ==== Sys2Proof/Machine/Masks.lean ====
section
/-!
DEFINITION. Lane masks, wave-uniform moves, shuffles and special registers (spec 07, R178 to R183; spec 03, R60 to R62,
R75 to R77).
-/

namespace Sys2Proof.Machine

/-- The thread in the lowest lane of the issuing fragment with a true guard. -/
def State.leader (s : State) (x : Iss) : Option (Nat × Thread) :=
  (lowLane x.on).bind (fun l => (s.laneThread x.w l).map (fun t => (l, t)))

/-- `D := f` in each lane, or, for a wave-uniform destination, the value of the lowest active lane (spec 03, R61). -/
def laneOrWave (wide : Bool) (d : Opnd) (f : Iss → Nat → Thread → Nat) (x : Iss) (s : State) : State :=
  if opWave d then
    match s.leader x with
    | none => s.advance x
    | some (l, t) =>
      (s.updWave x.w (fun v => if wide then waveWrite64 d (BitVec.ofNat 64 (f x l t)) v
        else waveWrite d (BitVec.ofNat 32 (f x l t)) v)).advance x
  else laneWise (fun x l t => opPut wide d (f x l t) t) x s

/-! ### Ballot and counts (R178, R179) -/

/-- The ballot over set `j`: the lanes whose contribution is one. -/
def ballotOf (j : Mask) (vals : Map W64) : Mask :=
  maskOf ((lanesOf j).filter (fun l => Map.get vals 0 l == 1))

/-- Write a ballot: once for a mask, else to every lane with a true guard; nothing where no lane has one. -/
def putBallot (w : Nat) (a : BallotArgs) (j on : Mask) (vals : Map W64) (s : State) : State :=
  if on = 0 then s
  else if opWave a.d then s.updWave w (waveWrite a.d (ballotOf j vals))
  else s.mapLanes w on (fun _ t => opWrite a.d (ballotOf j vals) t)

def execKballot (a : BallotArgs) (s : State) : Host.Outcome State Fault Refusal :=
  issue (.kballot a) (fun x s =>
    let j := joinSet (maskVal a.m x.v) x.fr
    s.arriveJoin x j
      (s.contributed x (fun l t => [(l, BitVec.ofNat 64 (b2n (x.on.getLsbD l && (t.pred a.ps != a.neg))))]))
      (putBallot x.w a j)) s

/-- The count of `KPOPC`: with `.lt`, only of the bits below the lane. -/
def kpopcNat (a : KcntArgs) (m : Mask) (l : Nat) : Nat :=
  popCount 32 (if a.flag then m.toNat % 2 ^ l else m.toNat)

def execKpopc (a : KcntArgs) (s : State) : Host.Outcome State Fault Refusal :=
  issue (.kpopc a) (laneOrWave false a.d (fun x l _ => kpopcNat a (maskVal a.m x.v) l)) s

/-- The index of the lowest or highest set bit; 32 where there is none. -/
def kfindNat (a : KcntArgs) (m : Mask) : Nat := ((if a.flag then highBit 32 m.toNat else lowBit 32 m.toNat)).getD 32

def execKfind (a : KcntArgs) (s : State) : Host.Outcome State Fault Refusal :=
  issue (.kfind a) (laneOrWave false a.d (fun x _ _ => kfindNat a (maskVal a.m x.v))) s

/-! ### Mask logic (R180), wave-uniform moves (R181) -/

def execKlop (a : KlopArgs) (s : State) : Host.Outcome State Fault Refusal :=
  issue (.klop a) (laneOrWave false a.d (fun x _ _ =>
    tableNat 32 a.table.val (maskVal a.ma x.v).toNat (maskVal a.mb x.v).toNat (maskVal a.mc x.v).toNat)) s

def execKset (a : ImmArgs) (s : State) : Host.Outcome State Fault Refusal :=
  issue (.kset a) (laneOrWave false a.d (fun _ _ _ => a.imm.toNat)) s

def execWmov (a : A1) (s : State) : Host.Outcome State Fault Refusal :=
  issue (.wmov a) (laneOrWave a.wide a.d (fun x _ t => opNat a.wide a.s1 x.v t)) s

/-! ### Shuffle (R182) -/

/-- The source lane of lane `l` for shuffle word `c`. -/
def shflSource (m : ShMode) (c l : Nat) : Nat :=
  let v := bits c 4 0
  let s := 2 ^ (5 - min (bits c 7 5) 5)
  let i := l % s
  l - i + (match m with
    | .idx => v % s
    | .rot => (i + v) % s
    | .xor => (i ^^^ v) % s
    | .rev => s - 1 - i)

/-- Write the results of a shuffle: the value of the source lane and true, or the lane's own and false where the source
is outside the join set. -/
def putShfl (w : Nat) (a : ShflArgs) (j on : Mask) (vals : Map W64) (s : State) : State :=
  s.mapLanes w on (fun l t =>
    let q := shflSource a.mode (Map.get vals 0 (32 + l)).toNat l
    let hit := j.getLsbD q
    (opPut a.wide a.d (Map.get vals 0 (if hit then q else l)).toNat t).setPred a.pd hit)

def execShfl (a : ShflArgs) (s : State) : Host.Outcome State Fault Refusal :=
  issue (.shfl a) (fun x s =>
    let j := joinSet (maskVal a.m x.v) x.fr
    s.arriveJoin x j
      (s.contributed x (fun l t =>
        [(l, BitVec.ofNat 64 (opNat a.wide a.s1 x.v t)), (32 + l, (opRead a.s2 x.v t).setWidth 64)]))
      (putShfl x.w a j)) s

/-! ### Special registers (R183; spec 03, R75, R76) -/

/-- How far bank `n` of a die is in its refresh, in fifths of a core cycle: the period is 7,168 of them and a window the first
168. The windows of the 64 banks begin 16 weight-store cycles apart, so at most two of them overlap (spec 01, R16; log 12). -/
def refreshAt (die n tick : Nat) : Nat := 5 * tick + 7168 - 7 * ((Config.refreshPhase die + 16 * n) % 1024)

/-- The refresh word of weight-store bank `n` of a die (spec 03, R76; spec 01, R16). -/
def wsRefWord (die n tick : Nat) : Nat :=
  let p := refreshAt die n tick % 7168
  (7168 - p) / 5 + (if p < 168 then ceilDiv (168 - p) 5 else 0) * 2 ^ 16

/-- The outstanding counters of a thread (spec 03, R75). -/
def outcnt (t : Thread) : Nat := t.nLd + t.nSt * 2 ^ 8 + t.nCp * 2 ^ 16 + t.nTl * 2 ^ 24

/-- The 64-bit value that special register `n` reads in a lane. -/
def State.srValue (s : State) (x : Iss) (n l : Nat) (t : Thread) : Nat :=
  let hr := x.v.hr
  if 0x300 ≤ n then (Map.get s.mgmt.sysregs 0 n).toNat
  else if 0x40 ≤ n ∧ n < 0x80 then wsRefWord (dieOf x.g.core) (n - 0x40) s.tick
  else if 0xC0 ≤ n ∧ n < 0xC8 then (lrSlot (s.recOf x.g) (n - 0xC0)).toNat
  else
    match n with
    | 0x00 => t.wid.toNat
    | 0x02 => l
    | 0x03 => x.fr.mask.toNat
    | 0x04 => x.g.num
    | 0x05 => x.g.rank
    | 0x06 => x.g.role
    | 0x07 => x.g.core
    | 0x08 => x.g.pasid
    | 0x09 => x.g.func
    | 0x0A => x.g.domain
    | 0x0B => x.g.gates.length
    | 0x10 => s.tick
    | 0x12 => outcnt t
    | 0x20 => x.g.mcktol.toNat
    | 0x21 => x.g.mckrows.toNat
    | 0x22 => x.g.mckcols.toNat
    | 0x80 => hr.cause.toNat
    | 0x81 => hr.faultmask.toNat
    | 0x82 => hr.badaddr.toNat
    | 0x84 => hr.epc.toNat
    | 0x86 => x.g.hvec.toNat
    | 0x88 => hr.decop.toNat
    | 0x89 => hr.decfld0.toNat
    | 0x8A => hr.decfld1.toNat
    | 0x8B => (Map.get hr.decfld2 0 l).toNat
    | 0x8C => (Map.get hr.decfld3 0 l).toNat
    | _ => 0

def execSrrd (a : SrrdArgs) (s : State) : Host.Outcome State Fault Refusal :=
  issue (.srrd a) (fun x s => laneOrWave a.wide a.d (fun x l t => s.srValue x a.idx.val l t) x s) s

/-- A write of a special register whose access is RW: `sr.mcktol` takes 32 bits; `sr.hvec` takes 64, the upper 32 zero
in the 32-bit form. -/
def State.srPut (s : State) (g n v : Nat) : State :=
  s.updGroup g (fun r =>
    if n = 0x20 then { r with mcktol := BitVec.ofNat 32 v }
    else if n = 0x86 then { r with hvec := BitVec.ofNat 64 v }
    else r)

def execSrwr (a : SrwrArgs) (s : State) : Host.Outcome State Fault Refusal :=
  issue (.srwr a) (fun x s =>
    match s.leader x with
    | none => s.advance x
    | some (_, t) => (s.srPut x.gid a.idx.val (opNat a.wide a.s1 x.v t)).advance x) s

end Sys2Proof.Machine
end

