-- ==== Sys2Proof/Machine/Vector.lean ====
section
/-!
DEFINITION. Vector arithmetic (spec 09, R233 to R248; spec 05, R122 to R124; spec 18, R423): every result is the exact one,
rounded once. No vector instruction traps or sets a flag on any value.
-/

namespace Sys2Proof.Machine

/-! ### Shapes -/

/-- `D := f(S1)` on 32-bit values. -/
def vec1 (d s1 : Opnd) (f : W32 → W32) (x : Iss) (_ : Nat) (t : Thread) : Thread :=
  opWrite d (f (opRead s1 x.v t)) t

/-- `D := f(S1, S2)` on 32-bit values. -/
def vec2 (d s1 s2 : Opnd) (f : W32 → W32 → W32) (x : Iss) (_ : Nat) (t : Thread) : Thread :=
  opWrite d (f (opRead s1 x.v t) (opRead s2 x.v t)) t

/-- `D := f(S1, S2, S3)` on 32-bit values. -/
def vec3 (d s1 s2 s3 : Opnd) (f : W32 → W32 → W32 → W32) (x : Iss) (_ : Nat) (t : Thread) : Thread :=
  opWrite d (f (opRead s1 x.v t) (opRead s2 x.v t) (opRead s3 x.v t)) t

/-- A function of one exact value as one of FP32 patterns. -/
def f32Fn (f : FR → FR) (a : W32) : W32 := toF32 (f (ofF32 a))

/-- A function of two exact values as one of FP32 patterns. -/
def f32Fn2 (f : FR → FR → FR) (a b : W32) : W32 := toF32 (f (ofF32 a) (ofF32 b))

/-! ### Basic arithmetic (R235) -/

def execFadd (a : B2) (s : State) : Host.Outcome State Fault Refusal :=
  issue (.fadd a) (laneWise (vec2 a.d a.s1 a.s2 (f32Fn2 FR.add))) s

def execFsub (a : B2) (s : State) : Host.Outcome State Fault Refusal :=
  issue (.fsub a) (laneWise (vec2 a.d a.s1 a.s2 (f32Fn2 FR.sub))) s

def execFmul (a : B2) (s : State) : Host.Outcome State Fault Refusal :=
  issue (.fmul a) (laneWise (vec2 a.d a.s1 a.s2 (f32Fn2 FR.mul))) s

/-- The product plus the third value, with one rounding in format `f`. -/
def fmaIn (f : Fmt) (a b c : Nat) : Nat :=
  roundTo f .rne false (FR.add (FR.mul (FR.ofBits f a) (FR.ofBits f b)) (FR.ofBits f c))

def execFfma (a : B3) (s : State) : Host.Outcome State Fault Refusal :=
  issue (.ffma a) (laneWise (vec3 a.d a.s1 a.s2 a.s3 (fun p q r =>
    BitVec.ofNat 32 (fmaIn .f32 p.toNat q.toNat r.toNat)))) s

def execFdiv (a : B2) (s : State) : Host.Outcome State Fault Refusal :=
  issue (.fdiv a) (laneWise (vec2 a.d a.s1 a.s2 (f32Fn2 FR.div))) s

def execFsqrt (a : B1) (s : State) : Host.Outcome State Fault Refusal :=
  issue (.fsqrt a) (laneWise (vec1 a.d a.s1 (f32Fn FR.sqrt))) s

/-! ### Minimum, maximum, comparison (R236, R237) -/

def execFmin (a : B2) (s : State) : Host.Outcome State Fault Refusal :=
  issue (.fmin a) (laneWise (vec2 a.d a.s1 a.s2 fminBits)) s

def execFmax (a : B2) (s : State) : Host.Outcome State Fault Refusal :=
  issue (.fmax a) (laneWise (vec2 a.d a.s1 a.s2 fmaxBits)) s

/-- A comparison with truth `r`: all ones or zero to D, and the combined predicate, as `ICMPS` does. -/
def fcmpLane (a : FcmpArgs) (r : Bool) (t : Thread) : Thread :=
  (opPut false a.d (onesIf 32 r) t).setPred a.pd (combine a.comb r (t.pred a.pm))

def execFcmp (a : FcmpArgs) (s : State) : Host.Outcome State Fault Refusal :=
  issue (.fcmp a) (laneWise (fun x _ t =>
    fcmpLane a (fccHolds a.cc (opRead a.s1 x.v t) (opRead a.s2 x.v t)) t)) s

/-! ### Approximating instructions (R238) -/

/-- The value 1. -/
def oneR : FR := .fin false 1 0

def execFrcp (a : B1) (s : State) : Host.Outcome State Fault Refusal :=
  issue (.frcp a) (laneWise (vec1 a.d a.s1 (f32Fn (FR.div oneR)))) s

def execFrsq (a : B1) (s : State) : Host.Outcome State Fault Refusal :=
  issue (.frsq a) (laneWise (vec1 a.d a.s1 (f32Fn FR.rsqrt))) s

def execFexp2 (a : B1) (s : State) : Host.Outcome State Fault Refusal :=
  issue (.fexp2 a) (laneWise (vec1 a.d a.s1 (f32Fn exp2R))) s

def execFlog2 (a : B1) (s : State) : Host.Outcome State Fault Refusal :=
  issue (.flog2 a) (laneWise (vec1 a.d a.s1 (f32Fn log2R))) s

def execFsin (a : B1) (s : State) : Host.Outcome State Fault Refusal :=
  issue (.fsin a) (laneWise (vec1 a.d a.s1 (f32Fn sinR))) s

def execFcos (a : B1) (s : State) : Host.Outcome State Fault Refusal :=
  issue (.fcos a) (laneWise (vec1 a.d a.s1 (f32Fn cosR))) s

/-! ### Classification, rounding to integral, scaling (R239, R240) -/

def execFclass (a : FclassArgs) (s : State) : Host.Outcome State Fault Refusal :=
  issue (.fclass a) (laneWise (vec1 a.d a.s1 (fun v =>
    BitVec.ofNat 32 (classOf (fmtOfTy a.ty) (v.toNat % 2 ^ (fmtOfTy a.ty).width))))) s

/-- A value rounded to an integral one; a zero result keeps the sign. -/
def integralR (m : Rnd) : FR → FR
  | .fin s n e => if 0 ≤ e then .fin s n e else .fin s (roundMag m s n (-e).toNat) 0
  | v => v

def execFrnd (a : FrndArgs) (s : State) : Host.Outcome State Fault Refusal :=
  issue (.frnd a) (laneWise (vec1 a.d a.s1 (f32Fn (integralR a.mode)))) s

/-- A value times 2^n. -/
def scaleR (n : Int) : FR → FR
  | .fin s m e => .fin s m (e + n)
  | v => v

def execFldexp (a : B2) (s : State) : Host.Outcome State Fault Refusal :=
  issue (.fldexp a) (laneWise (vec2 a.d a.s1 a.s2 (fun v n => toF32 (scaleR n.toInt (ofF32 v))))) s

/-! ### Conversions (R241, R242; spec 05, R124) -/

/-- The rounding mode of a slot word. -/
def rndOf (n : Nat) : Rnd :=
  match n with
  | 0 => .rne
  | 1 => .rtz
  | 2 => .rdn
  | _ => .rup

/-- Width in bits of the format of a slot code. -/
def slotWidth (c : Nat) : Nat :=
  match fmtOfSlot c with
  | some f => f.width
  | none => if c = 7 then 32 else 8

/-- Range of an integer slot code. -/
def slotRange (c : Nat) : Int × Int :=
  match c with
  | 5 => (-128, 127)
  | 6 => (0, 255)
  | _ => (-(2 ^ 31 : Nat), (2 ^ 31 - 1 : Nat))

/-- The value of a pattern in the format of a slot code. -/
def slotValue (c v : Nat) : FR :=
  match fmtOfSlot c with
  | some f => FR.ofBits f (v % 2 ^ f.width)
  | none => ofInt (if c = 6 then (v % 256 : Nat) else sInt (slotWidth c) v)

/-- A value from format `a` to format `o`: the pattern of a float, or the integer extended to 32 bits. Within one format
every value stays as it is, so that saturation does not touch an infinity (R124). -/
def convert (a o : Nat) (m : Rnd) (sat : Bool) (v : Nat) : Nat :=
  match fmtOfSlot o with
  | some f => roundTo f m (sat && a != o) (slotValue a v)
  | none => wrap 32 (toIntClamp m (slotRange o).1 (slotRange o).2 (slotValue a v))

/-- Whether a slot code is a floating-point one. -/
def isFloatSlot (c : Nat) : Bool := c < 5

/-- Whether it is an integer one. -/
def isIntSlot (c : Nat) : Bool := 5 ≤ c && c ≤ 7

/-- Format slot `n` of the group's launch. -/
def State.slotWord (s : State) (x : Iss) (n : Fin 8) : W32 := lrSlot (s.recOf x.g) n.val

/-- A conversion through slot `w`; the combinations it does not accept raise `code`. -/
def cvtBody (a : CvtArgs) (ok : Nat → Nat → Bool) (code : Nat) (x : Iss) (s : State) : State :=
  let w := s.slotWord x a.slot
  if ok (slotA w) (slotO w) then
    laneWise (vec1 a.d a.s1 (fun v =>
      BitVec.ofNat 32 (convert (slotA w) (slotO w) (rndOf (slotRnd w)) (slotSat w) v.toNat))) x s
  else s.faultLanes x x.on code

def execCvtf (a : CvtArgs) (s : State) : Host.Outcome State Fault Refusal :=
  issue (.cvtf a) (cvtBody a (fun p q => isFloatSlot p && isFloatSlot q) 0x048) s

def execCvtfi (a : CvtArgs) (s : State) : Host.Outcome State Fault Refusal :=
  issue (.cvtfi a) (cvtBody a (fun p q => isFloatSlot p && isIntSlot q) 0x049) s

def execCvtif (a : CvtArgs) (s : State) : Host.Outcome State Fault Refusal :=
  issue (.cvtif a) (cvtBody a (fun p q => isIntSlot p && isFloatSlot q) 0x04A) s

/-- Whether `PACK2` accepts a slot and `.hi`. -/
def pack2Ok (w : W32) (hi : Bool) : Bool :=
  (slotA w == 0 || slotA w == 7) && 1 ≤ slotO w && slotO w ≤ 6 && !(hi && slotWidth (slotO w) == 16)

/-- The word `PACK2` writes. -/
def pack2Nat (w : W32) (hi : Bool) (a b c : Nat) : Nat :=
  let cv (v : Nat) : Nat := convert (slotA w) (slotO w) (rndOf (slotRnd w)) (slotSat w) v % 2 ^ slotWidth (slotO w)
  if slotWidth (slotO w) = 16 then cv b * 2 ^ 16 + cv a
  else bfiNat 32 c (cv b * 2 ^ 8 + cv a) (16 * b2n hi + 16 * 2 ^ 8)

def execPack2 (a : Pack2Args) (s : State) : Host.Outcome State Fault Refusal :=
  issue (.pack2 a) (fun x s =>
    let w := s.slotWord x a.slot
    if pack2Ok w a.hi then
      laneWise (vec3 a.d a.s1 a.s2 a.s3 (fun p q r =>
        BitVec.ofNat 32 (pack2Nat w a.hi p.toNat q.toNat r.toNat))) x s
    else s.faultLanes x x.on 0x04B) s

/-- Whether `UNPK2` accepts a slot and `.hi`. -/
def unpk2Ok (w : W32) (hi : Bool) : Bool :=
  let a := slotA w
  ((1 ≤ a && a ≤ 4 && slotO w == 0) || ((a == 5 || a == 6) && (slotO w == 7 || slotO w == 0)))
    && !(hi && slotWidth a == 16)

/-- The two elements `UNPK2` writes, as one 64-bit number. -/
def unpk2Nat (w : W32) (hi : Bool) (v : Nat) : Nat :=
  let n := slotWidth (slotA w)
  let v := v / 2 ^ (16 * b2n hi)
  let cv (v : Nat) : Nat := convert (slotA w) (slotO w) (rndOf (slotRnd w)) (slotSat w) v % 2 ^ 32
  cv (v % 2 ^ n) + cv (v / 2 ^ n % 2 ^ n) * 2 ^ 32

def execUnpk2 (a : Unpk2Args) (s : State) : Host.Outcome State Fault Refusal :=
  issue (.unpk2 a) (fun x s =>
    let w := s.slotWord x a.slot
    if unpk2Ok w a.hi then
      laneWise (fun x _ t => opWrite64 a.d (BitVec.ofNat 64 (unpk2Nat w a.hi (opRead a.s1 x.v t).toNat)) t) x s
    else s.faultLanes x x.on 0x04C) s

/-! ### Packed half-width arithmetic and integer dot products (R243, R244) -/

/-- A function applied to each half of packed words. -/
def halves (f : Nat → Nat → Nat → Nat) (a b c : W32) : W32 :=
  let lo (v : W32) : Nat := v.toNat % 2 ^ 16
  let hi (v : W32) : Nat := v.toNat / 2 ^ 16
  BitVec.ofNat 32 (f (lo a) (lo b) (lo c) + f (hi a) (hi b) (hi c) * 2 ^ 16)

/-- A function of two exact values on each half, in format `f`. -/
def halves2 (f : Fmt) (g : FR → FR → FR) (a b : W32) : W32 :=
  halves (fun p q _ => roundTo f .rne false (g (FR.ofBits f p) (FR.ofBits f q))) a b 0

def execHadd2 (a : Half2Args) (s : State) : Host.Outcome State Fault Refusal :=
  issue (.hadd2 a) (laneWise (vec2 a.d a.s1 a.s2 (halves2 (fmtOfHTy a.ty) FR.add))) s

def execHmul2 (a : Half2Args) (s : State) : Host.Outcome State Fault Refusal :=
  issue (.hmul2 a) (laneWise (vec2 a.d a.s1 a.s2 (halves2 (fmtOfHTy a.ty) FR.mul))) s

def execHfma2 (a : Half3Args) (s : State) : Host.Outcome State Fault Refusal :=
  issue (.hfma2 a) (laneWise (vec3 a.d a.s1 a.s2 a.s3 (halves (fmaIn (fmtOfHTy a.ty))))) s

/-- Byte `i` of a word, signed where `sg` says so. -/
def byteInt (sg : Bool) (v : W32) (i : Nat) : Int :=
  let b := bits v.toNat (8 * i + 7) (8 * i)
  if sg then sInt 8 b else b

def execIdp4 (a : Idp4Args) (s : State) : Host.Outcome State Fault Refusal :=
  issue (.idp4 a) (laneWise (vec3 a.d a.s1 a.s2 a.s3 (fun p q r =>
    BitVec.ofInt 32 ((List.range 4).foldl (fun (n : Int) i => n + byteInt a.sa p i * byteInt a.sb q i)
      (r.toNat : Int))))) s

/-! ### Wave reduction (R245) -/

/-- One combination of a reduction. -/
def redStep (op : RedOp) (a b : W32) : W32 :=
  match op with
  | .add => a + b
  | .mins => if a.toInt ≤ b.toInt then a else b
  | .minu => if a.toNat ≤ b.toNat then a else b
  | .maxs => if a.toInt ≤ b.toInt then b else a
  | .maxu => if a.toNat ≤ b.toNat then b else a
  | .and => a &&& b
  | .or => a ||| b
  | .xor => a ^^^ b
  | .fadd => faddBits a b
  | .fmin => fminBits a b
  | .fmax => fmaxBits a b

/-- The result with no contribution. -/
def redEmpty : RedOp → W32
  | .mins => 0x7FFFFFFF
  | .minu => 0xFFFFFFFF
  | .maxs => 0x80000000
  | .and => 0xFFFFFFFF
  | .fmin => 0x7FC00000
  | .fmax => 0x7FC00000
  | _ => 0

/-- Whether a reduction is a floating-point one. -/
def redFloat : RedOp → Bool
  | .fadd => true
  | .fmin => true
  | .fmax => true
  | _ => false

/-- The reduction of contributions in their order; a NaN result is canonical (spec 05, R117). -/
def reduce (op : RedOp) (l : List W32) : W32 :=
  match l with
  | [] => redEmpty op
  | a :: r =>
    let v := r.foldl (redStep op) a
    if redFloat op && f32Nan v then 0x7FC00000 else v

/-- The contributions of lanes below `n`, ascending. -/
def redInputs (vals : Map W64) (n : Nat) : List W32 :=
  (List.range n).filterMap (fun l => (Map.find vals l).map (·.setWidth 32))

/-- Write a reduction: to every lane with a true guard, or once to a wave-uniform register. -/
def putWred (w : Nat) (a : WredArgs) (on : Mask) (vals : Map W64) (s : State) : State :=
  if on = 0 then s
  else if opWave a.d then s.updWave w (waveWrite a.d (reduce a.op (redInputs vals 32)))
  else s.mapLanes w on (fun l t => opWrite a.d (reduce a.op (redInputs vals (if a.scan then l + 1 else 32))) t)

def execWred (a : WredArgs) (s : State) : Host.Outcome State Fault Refusal :=
  issue (.wred a) (fun x s =>
    s.arriveJoin x (joinSet (maskVal a.m x.v) x.fr)
      (s.contributed x (fun l t => if x.on.getLsbD l then [(l, (opRead a.s1 x.v t).setWidth 64)] else []))
      (putWred x.w a)) s

/-! ### Attribute interpolation and derivatives (R246 to R248) -/

/-- The exact value of register `i` of an operand. -/
def nthR (o : Opnd) (i : Nat) (v : Wave) (t : Thread) : FR :=
  match o with
  | .g k => ofF32 (t.reg (k.val + i))
  | .w k => ofF32 (Map.get v.wr 0 (k.val + i))
  | _ => ofF32 0

/-- The exact value of the plane `o` at the position `p`. -/
def planeAt (o p : Opnd) (v : Wave) (t : Thread) : FR :=
  FR.sum [FR.mul (nthR o 0 v t) (nthR p 0 v t), FR.mul (nthR o 1 v t) (nthR p 1 v t), nthR o 2 v t]

/-- `INTERP`: the plane's value, divided by the second plane's with `.persp`. -/
def interpR (a : PlaneArgs) (v : Wave) (t : Thread) : FR :=
  let p := planeAt a.s1 a.s2 v t
  match a.persp with
  | none => p
  | some o => FR.div p (planeAt o a.s2 v t)

def execInterp (a : PlaneArgs) (s : State) : Host.Outcome State Fault Refusal :=
  issue (.interp a) (laneWise (fun x _ t => opWrite a.d (toF32 (interpR a x.v t)) t)) s

/-- The plane form of a derivative in direction `i`: 0 for x, 1 for y. -/
def derivR (a : PlaneArgs) (i : Nat) (v : Wave) (t : Thread) : FR :=
  match a.persp with
  | none => nthR a.s1 i v t
  | some o =>
    let p := planeAt a.s1 a.s2 v t
    let q := planeAt o a.s2 v t
    FR.div (FR.sub (FR.mul (nthR a.s1 i v t) q) (FR.mul p (nthR o i v t))) (FR.mul q q)

/-- The join set of a quad derivative: the lanes of every quad that holds a lane of the fragment. -/
def quadSet (m : Mask) : Mask :=
  maskOf ((List.range 32).filter (fun l => (List.range 4).any (fun j => m.getLsbD (l / 4 * 4 + j))))

/-- The two lanes whose values lane `l` differences: with `bit` 1 for x, 2 for y. -/
def quadPair (fine : Bool) (bit l : Nat) : Nat × Nat :=
  let m := l / 4 * 4
  let j := l % 4
  if fine then (m + (j ||| bit), m + (j &&& (3 - bit))) else (m + bit, m)

/-- Write the quad differences. -/
def putQuad (w : Nat) (a : QuadArgs) (bit : Nat) (on : Mask) (vals : Map W64) (s : State) : State :=
  s.mapLanes w on (fun l t =>
    let p := quadPair a.fine bit l
    let v (i : Nat) : FR := ofF32 ((Map.get vals 0 i).setWidth 32)
    opWrite a.d (toF32 (FR.sub (v p.1) (v p.2))) t)

/-- A derivative of either form. -/
def derivBody (a : DerivArgs) (i : Nat) (x : Iss) (s : State) : State :=
  match a with
  | .plane p => laneWise (fun x _ t => opWrite p.d (toF32 (derivR p i x.v t)) t) x s
  | .quad q =>
    s.arriveJoin x (quadSet x.fr.mask)
      (s.contributed x (fun l t => [(l, (opRead q.s1 x.v t).setWidth 64)]))
      (putQuad x.w q (i + 1))

def execDerivx (a : DerivArgs) (s : State) : Host.Outcome State Fault Refusal :=
  issue (.derivx a) (derivBody a 0) s

def execDerivy (a : DerivArgs) (s : State) : Host.Outcome State Fault Refusal :=
  issue (.derivy a) (derivBody a 1) s

end Sys2Proof.Machine
end

