-- ==== Sys2Proof/Machine/Matrix.lean ====
section
/-!
DEFINITION. The matrix engine (spec 05, R125 to R132; spec 09, R249 to R267; spec 18, R422): planes and side memory,
streams row by row, checksums, and the moves of accumulator rows. A matrix instruction issues once the earlier ones of its
group have taken effect, which gives the engine order of R252 (log 31).
-/

namespace Sys2Proof.Machine

/-! ### Tiles, planes and side memory as lists -/

/-- `n` values from key `i` of the entries of `m` at or above it; absent keys read `d`. -/
def denseFrom {α : Type} (d : α) (i : Nat) : Nat → Map α → List α
  | 0, _ => []
  | k + 1, [] => d :: denseFrom d (i + 1) k []
  | k + 1, (a, v) :: r => if a = i then v :: denseFrom d (i + 1) k r else d :: denseFrom d (i + 1) k ((a, v) :: r)

/-- `n` values from key `i` of a map whose absent keys read `d`. -/
def Map.slice {α : Type} (m : Map α) (d : α) (i n : Nat) : List α :=
  denseFrom d i n (List.filter (fun (p : Nat × α) => i ≤ p.1 && p.1 < i + n) m)

/-- A map with the values of `l` from key `i`, where an absent key reads `d`. -/
def Map.setSlice {α : Type} [DecidableEq α] (m : Map α) (d : α) (i : Nat) (l : List α) : Map α :=
  List.filter (fun (p : Nat × α) => p.1 < i) m
    ++ (List.filter (fun (e : α × Nat) => e.1 ≠ d) (l.zipIdx)).map (fun e => (i + e.2, e.1))
    ++ List.filter (fun (p : Nat × α) => i + l.length ≤ p.1) m

/-- Row `l` of tile `t`. -/
def Eng.row (e : Eng) (t l : Nat) : List W32 := Map.slice e.acc 0 (2048 * t + 64 * l) 64

/-- Write row `l` of tile `t`. -/
def Eng.setRow (e : Eng) (t l : Nat) (v : List W32) : Eng :=
  { e with acc := Map.setSlice e.acc 0 (2048 * t + 64 * l) v }

/-- The 32 rows of tile `t`. -/
def Eng.tile (e : Eng) (t : Nat) : List (List W32) := (List.range 32).map (e.row t)

/-- Write the 32 rows of tile `t`. -/
def Eng.setTile (e : Eng) (t : Nat) (v : List (List W32)) : Eng :=
  { e with acc := Map.setSlice e.acc 0 (2048 * t) v.flatten }

/-- The row checksums and the column checksums of tile `t`. -/
def Eng.rcs (e : Eng) (t : Nat) : List W32 := Map.slice e.rc 0 (32 * t) 32

def Eng.ccs (e : Eng) (t : Nat) : List W32 := Map.slice e.cc 0 (64 * t) 64

def Eng.setRcs (e : Eng) (t : Nat) (v : List W32) : Eng := { e with rc := Map.setSlice e.rc 0 (32 * t) v }

def Eng.setCcs (e : Eng) (t : Nat) (v : List W32) : Eng := { e with cc := Map.setSlice e.cc 0 (64 * t) v }

/-- Set or clear CKV of tile `t`. -/
def Eng.setCkv (e : Eng) (t : Nat) (b : Bool) : Eng :=
  { e with ckv := BitVec.ofNat 16 (buildNat 16 (fun i => if i = t then b else e.ckv.getLsbD i)) }

/-- Consecutive pieces of `k` elements, `n` of them. -/
def pieces {α : Type} (k : Nat) : Nat → List α → List (List α)
  | 0, _ => []
  | n + 1, l => l.take k :: pieces k n (l.drop k)

/-- Bytes of an element of a slot code. -/
def slotBytes (c : Nat) : Nat := slotWidth c / 8

/-- The elements of bytes in the format of a slot code. -/
def elemsOf (c : Nat) (l : List Byte) : List Nat :=
  (pieces (slotBytes c) (l.length / slotBytes c) l).map ofBytes

/-- The stored rows of a plane: K rows of 64 weights. -/
def Plane.rows (p : Plane) : List (List Nat) :=
  pieces 64 p.k (elemsOf p.bfmt (Map.slice p.bytes 0 0 (64 * p.k * slotBytes p.bfmt)))

/-- The checksum column of a plane (R253): each stored row's sum, rounded. -/
def Plane.checks (p : Plane) : List W32 :=
  p.rows.map (fun r => toF32 (FR.sum (r.map (slotValue p.bfmt))))

/-- Column `n` of a dense plane. -/
def Plane.column (rows : List (List Nat)) (n : Nat) : List (Option Nat) := rows.map (fun r => some (r.getD n 0))

/-- The metadata nibble of group `g` and column `n` (R255), from the active half of the side memory. -/
def nibbleAt (side : List Byte) (g n : Nat) : Nat :=
  let b := (side.getD (32 * g + n / 2) 0).toNat
  if n % 2 = 0 then b % 16 else b / 16

/-- Whether a nibble is valid: i0 below i1. -/
def nibbleOk (x : Nat) : Bool := x % 4 < x / 4

/-- The active half of the side memory. -/
def Eng.activeSide (e : Eng) : List Byte := Map.slice e.side 0 0 4096

/-- Whether every nibble that the active plane uses is valid (R258). -/
def Eng.nibblesOk (e : Eng) : Bool :=
  let side := e.activeSide
  (List.range (e.act.k / 2)).all (fun g => (List.range 64).all (fun n => nibbleOk (nibbleAt side g n)))

/-- Column `n` of the dense plane that sparsity metadata defines (R255); an omitted weight is none. -/
def sparseColumn (rows : List (List Nat)) (side : List Byte) (k n : Nat) : List (Option Nat) :=
  (List.range (k / 2)).flatMap (fun g =>
    let x := nibbleAt side g n
    (List.range 4).map (fun i =>
      if i = x % 4 then some ((rows.getD (2 * g) []).getD n 0)
      else if i = x / 4 then some ((rows.getD (2 * g + 1) []).getD n 0)
      else none))

/-! ### Dot products (spec 05, R125 to R131) -/

/-- K of the plane that a slot word asks for, or 0 where the combination is not accepted (R125). -/
def slotK (w : W32) : Nat :=
  let a := slotA w
  let b := slotB w
  let f8 (c : Nat) : Bool := c == 3 || c == 4
  let i8 (c : Nat) : Bool := c == 5 || c == 6
  if (a = 1 ∨ a = 2) ∧ b = a ∧ slotC w = 0 ∧ slotScale w = 0 then 128
  else if f8 a && f8 b && slotC w == 0 && slotScale w ≤ 1 then 256
  else if i8 a && i8 b && slotC w == 7 && slotScale w == 0 then 256
  else 0

/-- The product of an activation pattern and a weight: an omitted weight contributes a zero, whatever the activation
(R131). -/
def weightTerm (af bf a : Nat) (b : Option Nat) : FR :=
  match b with
  | some v => FR.mul (slotValue af a) (slotValue bf v)
  | none => .fin (a.testBit (slotWidth af - 1)) 0 0

/-- One row and column of a floating-point product: groups of 16 products, or scaled blocks of 128. `scale` gives sa × sb of
each block. -/
def dotTerms (af bf : Nat) (scale : Nat → FR) (a : List Nat) (b : List (Option Nat)) : List (List FR) :=
  let ps := List.zipWith (weightTerm af bf) a b
  if af = 3 ∨ af = 4 then
    (pieces 128 (ps.length / 128) ps).zipIdx.map (fun e => [FR.mul (scale e.2) (FR.sum e.1)])
  else pieces 16 (ps.length / 16) ps

/-- Add groups of terms to an accumulator element, each group with one rounding (R127, R129). -/
def addTerms (c : W32) (gs : List (List FR)) : W32 := gs.foldl (fun c g => toF32 (FR.sum (ofF32 c :: g))) c

/-- The integer value of an element in the format of a slot code. -/
def intOf (c v : Nat) : Int := if c = 6 then ((v % 256 : Nat) : Int) else sInt 8 v

/-- One row and column of an integer product (R130). -/
def dotInt (af bf : Nat) (c : W32) (a : List Nat) (b : List (Option Nat)) : W32 :=
  c + BitVec.ofInt 32 ((List.zipWith (fun x y => intOf af x * (y.map (intOf bf)).getD 0) a b).foldl (· + ·) 0)

/-- The row of a tile after one streamed row: `cols` are the columns of the plane. -/
def streamRow (af bf : Nat) (scale : Nat → FR) (a : List Nat) (cols : List (List (Option Nat))) (c : List W32) : List W32 :=
  List.zipWith (fun x b =>
    if isIntSlot af then dotInt af bf x a b else addTerms x (dotTerms af bf scale a b)) c cols

/-! ### Operands in memory (R251) -/

/-- Whether a record is allowed for matrix operands: ESIZE as asked, STRIDE 0 or a multiple of 16. -/
def mtxRecOk (r : W128) (esize : Nat) : Bool := recEsizeCode r == esize && recStrideField r % 16 == 0

/-- The chunks of 16 bytes of an element from chunk `j`, as places with their addresses: swizzle and base apply to each
chunk's own offset. -/
def State.mtxChunks (s : State) (gid : Nat) (g : Group) (r : W128) (sp : Space) (e j : Nat) :
    Nat → Except Formed (List (Loc × Nat)) × State
  | 0 => (.ok [], s)
  | k + 1 =>
    let a := (recBase r + swizzle (recSwz r) ((e * recStride r + 16 * j) % 2 ^ 57)) % 2 ^ 57
    match s.placeAt gid g sp 5 a 16 with
    | (.at' l a, s) =>
      (match s.mtxChunks gid g r sp e (j + 1) k with
       | (.ok ls, s) => (.ok ((l, a) :: ls), s)
       | f => f)
    | (f, s) => (.error f, s)

/-- The chunks of `n` consecutive elements of `w` bytes from index `e`; a non-strict element out of extent has none. -/
def State.mtxElems (s : State) (gid : Nat) (g : Group) (r : W128) (sp : Space) (w e : Nat) :
    Nat → Except Formed (List (Loc × Nat)) × State
  | 0 => (.ok [], s)
  | n + 1 =>
    let here : Except Formed (List (Loc × Nat)) × State :=
      if inExtent r e w then s.mtxChunks gid g r sp e 0 (w / 16)
      else (if recStrict r then .error (.cause 0x0A5 (elemAddr r e)) else .ok (List.replicate (w / 16) (.nil, 0)), s)
    match here with
    | (.error f, s) => (.error f, s)
    | (.ok l, s) =>
      match s.mtxElems gid g r sp w (e + 1) n with
      | (.ok ls, s) => (.ok (l ++ ls), s)
      | f => f

/-- A place for the access of thread `tid`, with the data of its chunks. -/
def chunkParts (tid lane call : Nat) (ls : List (Loc × Nat)) (data : List Byte) : List Part :=
  ls.zipIdx.map (fun e => { tid := tid, lane := lane, loc := e.1.1, addr := e.1.2, len := 16,
                            data := (data.drop (16 * e.2)).take 16, call := call })

/-- Parts of no bytes, by which the lanes of `m` count an operation that acts once for the fragment. -/
def State.countParts (s : State) (w : Nat) (m : Mask) : List Part :=
  (lanesOf m).filterMap (fun l => (s.laneTid w l).map (fun k =>
    { tid := k, lane := l, loc := .nil, addr := 0, len := 0, data := [], call := ((Map.find s.threads k).map (·.call)).getD 0 }))

/-! ### Engine order and ownership (R252; spec 19, R429) -/

/-- Whether an earlier matrix instruction of a group has still to take effect. -/
def State.mtxBusy (s : State) (gid : Nat) : Bool := s.flights.any (fun p => p.2.gid == gid && p.2.path == 2)
  || s.waves.any (fun p => p.2.gid == gid && p.2.frags.any (fun f => match f.st with
      | .wait wt => (match wt.instr with
        | .mstream _ => true
        | .mstreams _ => true
        | .mstreamc _ => true
        | _ => false)
      | _ => false))

/-- The engine of a group's core. -/
def State.engOf (s : State) (g : Group) : Eng := (s.core g.core).eng

/-- Change the engine of core `c`. -/
def State.updEng (s : State) (c : Nat) (f : Eng → Eng) : State := s.updCore c (fun r => { r with eng := f r.eng })

/-- A matrix instruction: it waits for the earlier ones and for the engine; tiles tagged to another domain kill the gang
with 0x12A, and, as an error of their owner, which is the same gang, with 0x142 (spec 19, R429, R457). -/
def mtxBody (body : Iss → State → State) (x : Iss) (s : State) : State :=
  if s.mtxBusy x.gid || (s.engOf x.g).owner != some x.gid then s
  else if x.g.domain ≠ s.tagOf x.g then s.killGroup x.gid { cause := 0x12A, cause2 := some 0x142 }
  else body x s

/-- A tile marked uncorrectable kills the gang of the group that reads it (spec 19, R428, R450). -/
def State.tileUe (s : State) (g : Group) (t : Nat) : Bool := (s.engOf g).uncorr.getLsbD t

def State.killUe (s : State) (g : Group) (gid t : Nat) : State :=
  s.contextError gid .own { cause := 0x142, inj := (s.engOf g).injected.getLsbD t }

/-- The tile is read: it must not be marked. -/
def reading (t : Nat) (body : Iss → State → State) (x : Iss) (s : State) : State :=
  if s.tileUe x.g t then s.killUe x.g x.gid t else body x s

/-- The lowest lane with a true guard, as lane, key and thread (spec 08, R194). -/
def State.lead (s : State) (x : Iss) : Option (Nat × Nat × Thread) :=
  (lowLane x.on).bind (fun l => (s.laneTid x.w l).bind (fun k => (s.laneThread x.w l).map (fun t => (l, k, t))))

/-- All lanes with a true guard leave as one formed access says. -/
def State.leaveAll (s : State) (x : Iss) (f : Formed) : State :=
  match f with
  | .mismatch c a => s.killGroup x.gid { cause := c, addr := a }
  | f => s.finish x none ((lanesOf x.fr.mask).map (fun l => (l, if x.on.getLsbD l then f.leave x.next else .go x.next)))

/-! ### Planes and side memory (R253 to R255) -/

/-- A load of `n` elements once for the fragment, which counts as a tile operation in each lane. -/
def onceLoad (ix : Opnd) (brec str : Nat) (sp : Space) (n : Nat) (recv : List W128) (x : Iss) (s : State) : State :=
  match s.lead x with
  | none => s.advance x
  | some (l, k, t) =>
    match s.mtxElems x.gid x.g (x.g.buf brec) sp 128 (opRead ix x.v t).toNat n with
    | (.error f, s) => s.leaveAll x f
    | (.ok ls, s) =>
      (s.launchFlight x 2 (streamMask str) (some 3) []
        (chunkParts k l t.call ls [] ++ s.countParts x.w x.on) recv {}).advance x

/-- The four weight scales of a plane load: the quad, or 1.0 where the slot has none. -/
def planeScales (w : W32) (sc : Opnd) (x : Iss) (t : Thread) : W128 :=
  let at' (i : Nat) : W32 := if slotScale w = 0 then 0x3F800000 else opNth sc i x.v t
  at' 3 ++ at' 2 ++ at' 1 ++ at' 0

/-- The bodies of `LDSTAT` and `LDSTATW`. -/
def ldstatBody (a : LdstatArgs) (sp : Space) (recCode : Nat) (x : Iss) (s : State) : State :=
  let w := s.slotWord x a.slot
  match minCode ((if slotB w = 0 ∨ slotB w = 7 then [0x04D] else [])
      ++ (if mtxRecOk (x.g.buf a.brec.val) 7 then [] else [recCode])) with
  | some c => s.faultLanes x x.on c
  | none =>
    match s.lead x with
    | none => s.advance x
    | some (_, _, t) => onceLoad a.ix a.brec.val a.str.val sp 128 [planeScales w a.sc x t] x s

def execLdstat (a : LdstatArgs) (s : State) : Host.Outcome State Fault Refusal :=
  issue (.ldstat a) (mtxBody (ldstatBody a .scr 0x050)) s

def execLdstatw (a : LdstatArgs) (s : State) : Host.Outcome State Fault Refusal :=
  issue (.ldstatw a) (mtxBody (ldstatBody a .ws 0x051)) s

def execMdld (a : MdldArgs) (s : State) : Host.Outcome State Fault Refusal :=
  issue (.mdld a) (mtxBody (fun x s =>
    if mtxRecOk (x.g.buf a.brec.val) 7 then onceLoad a.ix a.brec.val a.str.val .scr 32 [] x s
    else s.faultLanes x x.on 0x055)) s

/-- The exchange of the planes and of the halves of the side memory. -/
def Eng.swap (e : Eng) : Eng :=
  let half (i : Nat) : List Byte := Map.slice e.side 0 i 4096
  { e with act := e.shd, shd := e.act,
           side := Map.setSlice (Map.setSlice [] 0 0 (half 4096)) 0 4096 (half 0) }

def execSwappl (a : H0) (s : State) : Host.Outcome State Fault Refusal :=
  issue (.swappl a) (mtxBody (fun x s => (s.updEng x.g.core Eng.swap).advance x)) s

/-- The plane that loaded bytes make under slot word `w` (R253). -/
def planeOf (w : W32) (sb : W128) (l : List Byte) : Plane :=
  { bytes := Map.setSlice [] 0 0 l, bfmt := slotB w, k := if slotBytes (slotB w) = 2 then 128 else 256, scale := slotScale w,
    sb := [sb.setWidth 32, (sb >>> 32).setWidth 32, (sb >>> 64).setWidth 32, (sb >>> 96).setWidth 32] }

/-! ### Streams (R256 to R259) -/

/-- What the three stream instructions have in common: the activation row's elements, whether sparse, whether checksums are
kept, whether rows start from +0, and the operands. -/
structure StreamForm where
  elems : Nat
  sparse : Bool
  ck : Bool
  z : Bool
  acc : Nat
  slot : Fin 8
  brec : Nat
  ix : Opnd
  gp : Opnd
  sc : Opnd
  str : Nat
  recCode : Nat
deriving DecidableEq, Repr

/-- The form of a stream instruction. -/
def streamForm : Instr → Option StreamForm
  | .mstream a => some { elems := 2, sparse := false, ck := false, z := a.z, acc := a.acc.val, slot := a.slot,
                         brec := a.brec.val, ix := a.ix, gp := a.gp, sc := a.sc, str := a.str.val, recCode := 0x052 }
  | .mstreams a => some { elems := 4, sparse := true, ck := false, z := a.z, acc := a.acc.val, slot := a.slot,
                          brec := a.brec.val, ix := a.ix, gp := a.gp, sc := a.sc, str := a.str.val, recCode := 0x053 }
  | .mstreamc a => some { elems := 2, sparse := false, ck := true, z := false, acc := a.acc.val, slot := a.slot,
                          brec := a.brec.val, ix := a.ix, gp := a.gp, sc := a.sc, str := a.str.val, recCode := 0x054 }
  | _ => none

/-- The causes of a stream that fault every lane (spec 18, R422); a plane that was never loaded is 0x05B alone. -/
def StreamForm.codes (f : StreamForm) (w : W32) (r : W128) (e : Eng) : List Nat :=
  let k := if f.ck && slotC w != 0 then 0 else slotK w
  let l := (if k = 0 then [0x04E] else []) ++ (if mtxRecOk r 7 then [] else [f.recCode])
    ++ (if e.act.k = 0 then [0x05B]
        else (if slotB w ≠ e.act.bfmt then [0x058] else []) ++ (if k ≠ e.act.k then [0x059] else [])
          ++ (if slotScale w ≠ e.act.scale then [0x05A] else []))
  if l.isEmpty && f.sparse && !e.nibblesOk then [0x05C] else l

/-- The rows of the lanes of `ls`: chunk places, or why a lane's row cannot be read. -/
def State.streamRows (s : State) (x : Iss) (f : StreamForm) : List Nat → List (Nat × Except Formed (List (Loc × Nat))) × State
  | [] => ([], s)
  | l :: r =>
    match s.laneThread x.w l with
    | none => s.streamRows x f r
    | some t =>
      match s.mtxElems x.gid x.g (x.g.buf f.brec) .scr 128 (opRead f.ix x.v t).toNat f.elems with
      | (p, s) =>
        let q := s.streamRows x f r
        ((l, p) :: q.1, q.2)

/-- A lane's cause as a value of the wait: its code above the address. -/
def packCause (code addr : Nat) : W64 := BitVec.ofNat 64 ((code - 0x080) * 2 ^ 57 + addr % 2 ^ 57)

/-- The code and the address of a lane's cause. -/
def unpackCause (v : W64) : Nat × Nat := (0x080 + v.toNat / 2 ^ 57, v.toNat % 2 ^ 57)

/-- The issue of a stream: rows that are not done are placed, and the fragment waits; `aux` of the wait is the access (a
number of its own where there is no row to place), the done mask, and the scales of a wave-uniform pair as they are at issue
(spec 03, R62); its values the causes of lanes whose rows cannot be read. -/
def streamBody (f : StreamForm) (x : Iss) (s : State) : State :=
  match minCode (f.codes (s.slotWord x f.slot) (x.g.buf f.brec) (s.engOf x.g)) with
  | some c => s.faultLanes x x.on c
  | none =>
    match s.lead x with
    | none => s.advance x
    | some (_, _, t0) =>
      let done := (opRead f.gp x.v t0).toNat
      match s.streamRows x f ((lanesOf x.on).filter (fun l => !done.testBit l)) with
      | (rows, s) =>
        match rows.findSome? (fun e => match e.2 with | .error (.mismatch c a) => some (c, a) | _ => none) with
        | some (c, a) => s.killGroup x.gid { cause := c, addr := a }
        | none =>
          let ps := rows.flatMap (fun e => match e.2 with
            | .ok ls => (match s.laneTid x.w e.1, s.laneThread x.w e.1 with
              | some k, some t => chunkParts k e.1 t.call ls []
              | _, _ => [])
            | .error _ => [])
          let bad : Map W64 := rows.filterMap (fun e => match e.2 with
            | .error (.cause c a) => some (e.1, packCause c a)
            | _ => none)
          let key := s.nextKey
          let s := if ps.isEmpty then { s with nextKey := key + 1 }
            else s.launchFlight x 2 (streamMask f.str) none (destRegs f.gp 4) ps [] {}
          s.finish x (some { instr := x.i, on := x.on, vals := bad, aux := [key, done, (opNth f.sc 0 x.v t0).toNat, (opNth f.sc 1 x.v t0).toNat] })
            ((lanesOf x.fr.mask).map (fun l => (l, .wait)))

def execMstream (a : MstreamArgs) (s : State) : Host.Outcome State Fault Refusal :=
  issue (.mstream a) (mtxBody (fun x s => match streamForm (.mstream a) with
    | some f => (if f.z then streamBody f else reading f.acc (streamBody f)) x s
    | none => s.advance x)) s

def execMstreams (a : MstreamArgs) (s : State) : Host.Outcome State Fault Refusal :=
  issue (.mstreams a) (mtxBody (fun x s => match streamForm (.mstreams a) with
    | some f => (if f.z then streamBody f else reading f.acc (streamBody f)) x s
    | none => s.advance x)) s

def execMstreamc (a : MstreamcArgs) (s : State) : Host.Outcome State Fault Refusal :=
  issue (.mstreamc a) (mtxBody (fun x s => match streamForm (.mstreamc a) with
    | some f => reading f.acc (streamBody f) x s
    | none => s.advance x)) s

/-- A running stream: its wave and fragment, its wait, and its form. -/
structure Stream where
  w : Nat
  i : Nat
  v : Wave
  fr : Frag
  wt : Wait
  f : StreamForm
deriving DecidableEq, Repr

/-- The access and the done mask of a running stream. -/
def Stream.key (r : Stream) : Nat := r.wt.aux.headD 0

def Stream.done (r : Stream) : Nat := r.wt.aux.getD 1 0

/-- Scale `j` of a running stream in the lane of thread `t`. -/
def Stream.scale (r : Stream) (t : Thread) (j : Nat) : W32 := match r.f.sc with
  | .g k => t.reg (k.val + j)
  | _ => BitVec.ofNat 32 (r.wt.aux.getD (2 + j) 0)

/-- The stream that fragment `i` of wave `w` waits for. -/
def State.streamAt (s : State) (w i : Nat) : Option Stream :=
  (Map.find s.waves w).bind (fun v => (v.frags[i]?).bind (fun fr => match fr.st with
    | .wait wt => (streamForm wt.instr).map (fun f => { w := w, i := i, v := v, fr := fr, wt := wt, f := f })
    | _ => none))

/-- The rows a stream has still to do, lowest first. -/
def Stream.left (r : Stream) : List Nat :=
  (lanesOf r.wt.on).filter (fun l => !r.done.testBit l && !Map.has r.wt.vals l)

/-- Write the progress register of the lanes of `m` and forget the stream's access. -/
def State.streamGp (s : State) (r : Stream) (m : Mask) (v : Nat) : State :=
  s.mapLanes r.w m (fun _ t => opWrite r.f.gp (BitVec.ofNat 32 v)
    { t with pend := t.pend.filter (fun e => e.2 != r.key) })

/-- A stream has done its rows: completing lanes receive 0 and go on; lanes with causes receive the done mask, and those
with the lowest code take it (R257; spec 18, R422). -/
def State.streamEnd (s : State) (r : Stream) : State :=
  let bad := maskOf (Map.keysOf r.wt.vals) &&& r.fr.mask
  let good := r.fr.mask &&& ~~~bad
  let s := s.streamGp r (r.wt.on &&& good) 0
  let s := s.streamGp r bad r.done
  let tids := s.tidsOf r.w (r.wt.on &&& good)
  let s := { s with flights := Map.del s.flights r.key }
  let s := s.updGroup r.v.gid (fun g => { g with stopped := g.stopped.filter (fun k => !tids.contains k) })
  let code := minCode ((r.wt.vals.filter (fun e => bad.getLsbD e.1)).map (fun e => (unpackCause e.2).1))
  match code with
  | none => s.spliceFrag r.w r.i (readyFrags r.fr.hnd [(good, r.fr.pc + 8)])
  | some c =>
    let hit := r.wt.vals.filter (fun e => bad.getLsbD e.1 && (unpackCause e.2).1 == c)
    let m := maskOf (Map.keysOf hit)
    let s := s.spliceFrag r.w r.i (readyFrags r.fr.hnd [(good, r.fr.pc + 8), (bad &&& ~~~m, r.fr.pc)]
      ++ [{ r.fr with mask := m }])
    s.lateCause r.w m r.fr.hnd r.fr.pc c ((hit.head?.map (fun e => (unpackCause e.2).2)).getD 0) (encode r.wt.instr)

/-- A stream stops between rows: the done mask goes to the progress register of every lane, and the fragment stays at the
instruction (R257). -/
def State.streamStop (s : State) (r : Stream) : State :=
  let s := s.streamGp r r.wt.on r.done
  let s := { s with flights := Map.del s.flights r.key }
  let s := s.updGroup r.v.gid (fun g => { g with stopped := (g.stopped ++ s.tidsOf r.w r.wt.on).eraseDups })
  s.spliceFrag r.w r.i [{ r.fr with st := .ready }]

/-- The checksum state after a row (R259). -/
def Eng.addChecks (e : Eng) (t l af bf : Nat) (scale : Nat → FR) (a : List Nat) (cols : List (List (Option Nat)))
    (checks : List W32) : Eng :=
  let inc (b : List (Option Nat)) : FR := FR.sum ((dotTerms af bf scale a b).flatten)
  let ws := List.zipWith (fun x w => FR.mul (slotValue af x) (ofF32 w)) a checks
  let incw := FR.sum (if af = 3 ∨ af = 4 then (pieces 128 (ws.length / 128) ws).zipIdx.map (fun p =>
    FR.mul (scale p.2) (FR.sum p.1)) else ws)
  let rc := e.rcs t
  (e.setRcs t (rc.set l (toF32 (FR.sum [ofF32 (rc.getD l 0), incw])))).setCcs t
    (List.zipWith (fun c b => toF32 (FR.sum [ofF32 c, inc b])) (e.ccs t) cols)

/-- The engine after row `l` of a stream with activation bytes `bytes` and scales `sa`. -/
def Eng.doRow (e : Eng) (f : StreamForm) (w : W32) (l : Nat) (bytes : List Byte) (sa : Nat → W32) : Eng :=
  let af := slotA w
  let bf := slotB w
  let a := elemsOf af bytes
  let rows := e.act.rows
  let side := e.activeSide
  let cols := (List.range 64).map (fun n =>
    if f.sparse then sparseColumn rows side e.act.k n else Plane.column rows n)
  let scale (j : Nat) : FR :=
    if slotScale w = 0 then .fin false 1 0 else FR.mul (ofF32 (sa j)) (ofF32 (e.act.sb.getD j 0))
  let c := if f.z then List.replicate 64 0 else e.row f.acc l
  let e' := e.setRow f.acc l (streamRow af bf scale a cols c)
  if f.ck then e'.addChecks f.acc l af bf scale a cols e.act.checks else e'.setCkv f.acc false

/-- One row of the stream of fragment `i` of wave `w`, or its end. -/
def State.matrixStep (s : State) (w i : Nat) : State :=
  match s.streamAt w i with
  | none => s
  | some r =>
    match Map.find s.groups r.v.gid with
    | none => s
    | some g =>
      if !r.v.resident || (s.engOf g).owner != some r.v.gid then s
      else
        match r.left with
        | [] => s.streamEnd r
        | l :: more =>
          match Map.find s.flights r.key, s.laneThread w l with
          | some fl, some t =>
            if !s.mayPerform fl then s
            else
              let ps := fl.parts.filter (fun p => p.lane == l)
              s.consumeAll fl (s.flightErrors { fl with parts := ps } [])
               (let s := s.bring { fl with parts := ps }
                let bytes := ps.flatMap (fun p => s.readLoc (some g.core) p.loc p.len)
                let sw := lrSlot (s.recOf g) r.f.slot.val
                let s := s.updEng g.core (fun e => e.doRow r.f sw l bytes (r.scale t))
                let wt := { r.wt with aux := r.key :: (r.done ||| 2 ^ l) :: r.wt.aux.drop 2 }
                let s := s.spliceFrag w i [{ r.fr with st := .wait wt }]
                if more.isEmpty then s.streamEnd { r with wt := wt } else s)
          | _, _ => s

def execMatrixRow (wave frag : Nat) (s : State) : Host.Outcome State Fault Refusal := .next (s.matrixStep wave frag)

/-! ### Checking and correction (R260) -/

/-- The absolute value. -/
def FR.abs : FR → FR
  | .nan => .nan
  | .inf _ => .inf false
  | .fin _ m e => .fin false m e

/-- Whether a ≤ b holds; not with a NaN. -/
def FR.le (a b : FR) : Bool :=
  match a, b with
  | .nan, _ => false
  | _, .nan => false
  | .inf true, _ => true
  | _, .inf false => true
  | .inf false, _ => false
  | _, .inf true => false
  | a, b => (FR.sub a b).sign || (FR.sub a b).isZero

/-- A residue and whether it fails its comparison under tolerance `t`. -/
def residue (t : FR) (vals : List W32) (check : W32) : W32 × Bool :=
  let vs := vals.map ofF32
  let c := ofF32 check
  let r := toF32 (FR.sum (vs ++ [c.neg]))
  let negative := t.sign && !t.isZero
  (r, negative || !FR.le (FR.abs (ofF32 r)) (FR.mul t (FR.sum (vs.map FR.abs ++ [FR.abs c]))))

/-- Column `n` of a tile. -/
def tileColumn (rows : List (List W32)) (n : Nat) : List W32 := rows.map (fun r => r.getD n 0)

/-- Which of three forms of `MCKV`. -/
inductive MckvOp where | chk | fix | base
deriving DecidableEq, Repr

/-- Write the four result registers of `MCKV` in every lane with a true guard. -/
def State.mckvOut (s : State) (x : Iss) (d : Opnd) (val : Nat → List W32) : State :=
  s.mapLanes x.w x.on (fun l t => match d with
    | .g k => (val l).zipIdx.foldl (fun t e => t.setReg (k.val + e.2) e.1) t
    | _ => t)

/-- `MCKV` on the whole tile. -/
def mckvBody (op : MckvOp) (a : MckvArgs) (x : Iss) (s : State) : State :=
  let e := s.engOf x.g
  let t := a.acc.val
  let rows := e.tile t
  if op = .base then
    let f (e : Eng) : Eng :=
      ((e.setRcs t (rows.map (fun r => toF32 (FR.sum (r.map ofF32))))).setCcs t
        ((List.range 64).map (fun n => toF32 (FR.sum ((tileColumn rows n).map ofF32))))).setCkv t true
    let s := (s.updEng x.g.core f).updGroup x.gid (fun g => { g with mckrows := 0, mckcols := 0 })
    (s.mckvOut x a.d (fun _ => [0, 0, 0, 0])).advance x
  else if !e.ckv.getLsbD t then s.faultLanes x x.on 0x05D
  else
    let tol := ofF32 x.g.mcktol
    let rr := List.zipWith (residue tol) rows (e.rcs t)
    let rc := List.zipWith (residue tol) ((List.range 64).map (tileColumn rows)) (e.ccs t)
    let fr := buildNat 32 (fun l => (rr.getD l (0, false)).2)
    let fc := buildNat 64 (fun n => (rc.getD n (0, false)).2)
    let one := op = .fix ∧ popCount 32 fr = 1 ∧ popCount 64 fc = 1
    let l := (lowBit 32 fr).getD 0
    let n := (lowBit 64 fc).getD 0
    let row := rows.getD l []
    let s := if one then s.updEng x.g.core (fun e => e.setRow t l (row.set n
        (toF32 (FR.sub (ofF32 (row.getD n 0)) (ofF32 (rc.getD n (0, false)).1))))) else s
    let status : W32 := if fr = 0 ∧ fc = 0 then 0 else if one then 1 else 2
    let s := s.updGroup x.gid (fun g => { g with mckrows := BitVec.ofNat 32 fr, mckcols := BitVec.ofNat 64 fc })
    (s.mckvOut x a.d (fun i => [(rr.getD i (0, false)).1, (rc.getD i (0, false)).1, (rc.getD (i + 32) (0, false)).1,
      status])).advance x

def execMckvChk (a : MckvArgs) (s : State) : Host.Outcome State Fault Refusal :=
  issue (.mckvChk a) (mtxBody (reading a.acc.val (mckvBody .chk a))) s

def execMckvFix (a : MckvArgs) (s : State) : Host.Outcome State Fault Refusal :=
  issue (.mckvFix a) (mtxBody (reading a.acc.val (mckvBody .fix a))) s

def execMckvBase (a : MckvArgs) (s : State) : Host.Outcome State Fault Refusal :=
  issue (.mckvBase a) (mtxBody (reading a.acc.val (mckvBody .base a))) s

/-! ### Accumulator moves (R261 to R263) -/

def execAccz (a : AcczArgs) (s : State) : Host.Outcome State Fault Refusal :=
  issue (.accz a) (mtxBody (fun x s => (s.updEng x.g.core (fun e =>
    ((lanesOf x.on).foldl (fun (e : Eng) l => e.setRow a.acc.val l (List.replicate 64 0)) e).setCkv a.acc.val
      false)).advance x)) s

/-- Tile `t` zero, with zero checksums and CKV 1; a mark of `FINJ` is cleared. -/
def Eng.zeroTile (e : Eng) (t : Nat) : Eng :=
  let e := ((e.setTile t (List.replicate 32 (List.replicate 64 0))).setRcs t (List.replicate 32 0)).setCcs t
    (List.replicate 64 0)
  let clear (m : BitVec 16) : BitVec 16 := BitVec.ofNat 16 (buildNat 16 (fun i => i != t && m.getLsbD i))
  { e.setCkv t true with uncorr := clear e.uncorr, injected := clear e.injected }

def execAcczAll (a : AcczArgs) (s : State) : Host.Outcome State Fault Refusal :=
  issue (.acczAll a) (mtxBody (fun x s => (s.updEng x.g.core (fun e => e.zeroTile a.acc.val)).advance x)) s

/-- The cause of a column index (spec 18, R422). -/
def colCode (n c : Nat) : Option Nat := if c % n ≠ 0 then some 0x05E else if 64 < c + n then some 0x05F else none

/-- A lane's column index. -/
def colOf (ix : Opnd) (x : Iss) (t : Thread) : Nat := (opRead ix x.v t).toNat

/-- How the lanes of `ACCRD` and `ACCWR` leave. -/
def State.colLeave (s : State) (x : Iss) (ix : Opnd) (n : Nat) : State :=
  s.finish x none ((lanesOf x.fr.mask).map (fun l => (l,
    match (if x.on.getLsbD l then (s.laneThread x.w l).bind (fun t => colCode n (colOf ix x t)) else none) with
    | some c => .cause c 0
    | none => .go x.next)))

def execAccrd (a : AccrwArgs) (s : State) : Host.Outcome State Fault Refusal :=
  let n := nAcc a.n
  issue (.accrd a) (mtxBody (reading a.acc.val (fun x s =>
    let e := s.engOf x.g
    let s' := s.mapLanes x.w x.on (fun l t =>
      let c := colOf a.ix x t
      if (colCode n c).isSome then t
      else match a.d with
        | .g k => (((e.row a.acc.val l).drop c).take n).zipIdx.foldl (fun t p => t.setReg (k.val + p.2) p.1) t
        | _ => t)
    let ends := (lanesOf x.fr.mask).map (fun l => (l,
      match (if x.on.getLsbD l then (s.laneThread x.w l).bind (fun t => colCode n (colOf a.ix x t)) else none) with
      | some c => LaneEnd.cause c 0
      | none => .go x.next))
    s'.finish x none ends))) s

def execAccwr (a : AccrwArgs) (s : State) : Host.Outcome State Fault Refusal :=
  let n := nAcc a.n
  issue (.accwr a) (mtxBody (fun x s =>
    let ok := (lanesOf x.on).filterMap (fun l => (s.laneThread x.w l).bind (fun t =>
      if (colCode n (colOf a.ix x t)).isSome then none else some (l, t)))
    let s := if ok.isEmpty then s else s.updEng x.g.core (fun e =>
      (ok.foldl (fun (e : Eng) p =>
        let c := colOf a.ix x p.2
        let row := e.row a.acc.val p.1
        e.setRow a.acc.val p.1 (row.take c ++ (List.range n).map (fun i => opNth a.d i x.v p.2) ++ row.drop (c + n)))
        e).setCkv a.acc.val false)
    s.colLeave x a.ix n)) s

/-- The row accesses of `ACCLD` and `ACCST`, lane by lane: what each lane comes to, and the parts of those that go on. -/
def State.rowLanes (s : State) (x : Iss) (r : W128) (sp : Space) (ix : Opnd) (w n : Nat) (data : Nat → List Byte) :
    List Nat → List (Nat × Formed) × List Part × State
  | [] => ([], [], s)
  | l :: ls =>
    match s.laneTid x.w l, s.laneThread x.w l with
    | some k, some t =>
      (match s.mtxElems x.gid x.g r sp w (opRead ix x.v t).toNat n with
       | (.error f, s) =>
         let q := s.rowLanes x r sp ix w n data ls
         ((l, f) :: q.1, q.2.1, q.2.2)
       | (.ok locs, s) =>
         let q := s.rowLanes x r sp ix w n data ls
         ((l, .skip 0) :: q.1, chunkParts k l t.call locs (data l) ++ q.2.1, q.2.2))
    | _, _ => s.rowLanes x r sp ix w n data ls

/-- Launch the row accesses of an instruction. -/
def rowBody (r : W128) (sp : Space) (ix : Opnd) (str w n : Nat) (data : Nat → List Byte) (x : Iss) (s : State) : State :=
  let q := s.rowLanes x r sp ix w n data (lanesOf x.on)
  match mismatchOf q.1 with
  | some (c, a) => q.2.2.killGroup x.gid { cause := c, addr := a }
  | none => (q.2.2.launchFlight x 2 (streamMask str) (some 3) [] q.2.1 [] {}).finish x none (lanesLeave x q.1)

def execAccld (a : AccldArgs) (s : State) : Host.Outcome State Fault Refusal :=
  issue (.accld a) (mtxBody (fun x s =>
    let r := x.g.buf a.brec.val
    if !mtxRecOk r 7 then s.faultLanes x x.on 0x056
    else rowBody r (if a.scr then .scr else .virt .read) a.ix a.str.val 128 2 (fun _ => []) x s)) s

/-- Whether an OFMT is accepted with a CFMT (R126). -/
def outOk (c o : Nat) : Bool := (c == 0 && o ≤ 4) || (c == 7 && (o == 7 || o == 5 || o == 6))

/-- The bytes of a row converted to OFMT. -/
def rowBytes (w : W32) (row : List W32) : List Byte :=
  row.flatMap (fun v => toBytes (slotBytes (slotO w))
    (convert (slotC w) (slotO w) (rndOf (slotRnd w)) (slotSat w) v.toNat))

def execAccst (a : AccstArgs) (s : State) : Host.Outcome State Fault Refusal :=
  issue (.accst a) (mtxBody (reading a.acc.val (fun x s =>
    let w := s.slotWord x a.slot
    let r := x.g.buf a.brec.val
    let b := slotBytes (slotO w)
    match minCode ((if outOk (slotC w) (slotO w) then [] else [0x04F])
        ++ (if mtxRecOk r (if b = 1 then 6 else 7) then [] else [0x057])) with
    | some c => s.faultLanes x x.on c
    | none =>
      let e := s.engOf x.g
      rowBody r (if a.scr then .scr else .virt .write) a.ix a.str.val (if b = 1 then 64 else 128) (if b = 4 then 2 else 1)
        (fun l => rowBytes w (e.row a.acc.val l)) x s))) s

/-! ### Accumulator operations (R264, R265) -/

/-- An FP32 product, rounded. -/
def mulF32 (a b : W32) : W32 := toF32 (FR.mul (ofF32 a) (ofF32 b))

def execAccsclRow (a : AccsclRowArgs) (s : State) : Host.Outcome State Fault Refusal :=
  issue (.accsclRow a) (mtxBody (reading a.acc.val (fun x s =>
    if slotC (s.slotWord x a.slot) ≠ 0 then s.faultLanes x x.on 0x04F
    else
      let sc := (lanesOf x.on).filterMap (fun l => (s.laneThread x.w l).map (fun t => (l, opRead a.sc x.v t)))
      (s.updEng x.g.core (fun e => (sc.foldl (fun (e : Eng) p =>
        e.setRow a.acc.val p.1 ((e.row a.acc.val p.1).map (fun c => mulF32 c p.2))) e).setCkv a.acc.val false)).advance x)))
    s

/-- The scales of `ACCSCL.col` are read through translation; the rows are scaled when they have arrived. -/
def execAccsclCol (a : AccsclColArgs) (s : State) : Host.Outcome State Fault Refusal :=
  issue (.accsclCol a) (mtxBody (reading a.acc.val (fun x s =>
    let r := x.g.buf a.brec.val
    match minCode ((if slotC (s.slotWord x a.slot) ≠ 0 then [0x04F] else [])
        ++ (if mtxRecOk r 7 then [] else [0x057])) with
    | some c => s.faultLanes x x.on c
    | none =>
      match s.lead x with
      | none => s.advance x
      | some (l, k, t) =>
        match s.mtxElems x.gid x.g r (.virt .read) 128 (opRead a.ix x.v t).toNat 2 with
        | (.error f, s) => s.leaveAll x f
        | (.ok ls, s) =>
          (s.launchFlight x 2 (streamMask a.str.val) none [] (chunkParts k l t.call ls []) [] {}).advance x))) s

/-- The sum and the maximum of a row. -/
def rowSum (int : Bool) (row : List W32) : W32 :=
  if int then row.foldl (· + ·) 0 else toF32 (FR.sum (row.map ofF32))

def rowMax (int : Bool) (row : List W32) : W32 :=
  match row with
  | [] => 0
  | a :: r => r.foldl (fun m v => if int then (if m.toInt < v.toInt then v else m) else fmaxBits m v) a

/-- `ACCRED.sum` and `ACCRED.max`. -/
def accredBody (f : Bool → List W32 → W32) (a : AccredArgs) (x : Iss) (s : State) : State :=
  let c := slotC (s.slotWord x a.slot)
  if c ≠ 0 ∧ c ≠ 7 then s.faultLanes x x.on 0x04F
  else
    let e := s.engOf x.g
    (s.mapLanes x.w x.on (fun l t => opWrite a.d (f (c == 7) (e.row a.acc.val l)) t)).advance x

def execAccredSum (a : AccredArgs) (s : State) : Host.Outcome State Fault Refusal :=
  issue (.accredSum a) (mtxBody (reading a.acc.val (accredBody rowSum a))) s

def execAccredMax (a : AccredArgs) (s : State) : Host.Outcome State Fault Refusal :=
  issue (.accredMax a) (mtxBody (reading a.acc.val (accredBody rowMax a))) s

def execAccredTile (a : AccredTileArgs) (s : State) : Host.Outcome State Fault Refusal :=
  issue (.accredTile a) (mtxBody (reading a.acc.val (reading a.src.val (fun x s =>
    let c := slotC (s.slotWord x a.slot)
    if c ≠ 0 ∧ c ≠ 7 then s.faultLanes x x.on 0x04F
    else
      let add (p q : W32) : W32 := if c = 7 then p + q else faddBits p q
      (s.updEng x.g.core (fun e => (e.setTile a.acc.val
        (List.zipWith (List.zipWith add) (e.tile a.acc.val) (e.tile a.src.val))).setCkv a.acc.val false)).advance x))))
    s

/-! ### Completion of tile operations -/

/-- The effect of loaded bytes on the engine: a plane, side memory, or the scaling of every row. -/
def onceEffect (i : Instr) (w : W32) (recv : List W128) (l : List Byte) (e : Eng) : Eng :=
  match i with
  | .ldstat _ => { e with shd := planeOf w (recv.headD 0) l }
  | .ldstatw _ => { e with shd := planeOf w (recv.headD 0) l }
  | .mdld _ => { e with side := Map.setSlice e.side 0 4096 l }
  | .accsclCol a =>
    let sc := (pieces 4 64 l).map (fun b => BitVec.ofNat 32 (ofBytes b))
    (e.setTile a.acc.val ((e.tile a.acc.val).map (fun r => List.zipWith mulF32 r sc))).setCkv a.acc.val false
  | _ => e

/-- The slot an operation names. -/
def tileSlot : Instr → Nat
  | .ldstat a => a.slot.val
  | .ldstatw a => a.slot.val
  | _ => 0

/-- The bytes of a part; another device's or a host's are free values, or zero where the access was refused. -/
def State.tileBytes (s : State) (c : Nat) (zero : Bool) (p : Part) (i : Nat) : List Byte :=
  match p.loc with
  | .dom _ => if zero then List.replicate p.len 0 else toBytes p.len (Config.freeWord (s.freeCtr + 2 * i + 1)
      ++ Config.freeWord (s.freeCtr + 2 * i + 2)).toNat
  | .host _ => if zero then List.replicate p.len 0 else toBytes p.len (Config.freeWord (s.freeCtr + 2 * i + 1)
      ++ Config.freeWord (s.freeCtr + 2 * i + 2)).toNat
  | l => s.readLoc (some c) l p.len

/-- The free values that the bytes of a tile load took. -/
def State.tileDrew (s : State) (ps : List Part) : State :=
  if ps.any (fun p => p.loc.remote) then { s with freeCtr := s.freeCtr + 2 * ps.length + 1 } else s

/-- Whether a tile operation writes memory. -/
def isAccst : Instr → Bool
  | .accst _ => true
  | _ => false

/-- The effect of tile operation `f`; with `refused`, its remote reads deliver zero. What it stores
on other devices and hosts has been sent. A load for a group that the engine no longer serves changes nothing. -/
def State.tileLand (s : State) (f : Flight) (g : Group) (refused : Bool) : State :=
  let engine (s : State) (e : Eng → Eng) : State := if (s.engOf g).owner = some f.gid then s.updEng g.core e else s
  match f.instr with
  | .accst _ =>
    s.writeLocs (s.partyFor f) ((f.parts.filter (fun p => !p.loc.remote)).map (fun p => (p.loc, p.data)))
  | .accld a =>
    let s := s.bring f
    let bs := f.parts.zipIdx.map (fun e => (e.1.lane, s.tileBytes f.core refused e.1 e.2))
    let s := if refused then s else s.tileDrew f.parts
    engine s (fun e =>
      (((f.parts.map (·.lane)).eraseDups).foldl (fun (e : Eng) l =>
        e.setRow a.acc.val l ((pieces 4 64 ((bs.filter (fun b => b.1 == l)).flatMap Prod.snd)).map (fun b =>
          BitVec.ofNat 32 (ofBytes b)))) e).setCkv a.acc.val false)
  | i =>
    let s := s.bring f
    let l := f.parts.zipIdx.flatMap (fun e => s.tileBytes f.core refused e.1 e.2)
    let s := if refused then s else s.tileDrew f.parts
    engine s (onceEffect i (lrSlot (s.recOf g) (tileSlot i)) f.recv l)

/-- Whether an access is one of the tile operations that complete by themselves. -/
def isTileOp : Instr → Bool
  | .accsclCol _ => true
  | i => raisesOf i == some 3

/-- A tile operation completes once the accesses before it are done (spec 04, R103). -/
def State.tileDone (s : State) (key : Nat) : State :=
  match Map.find s.flights key with
  | none => s
  | some f =>
    match Map.find s.groups f.gid with
    | none => s
    | some g =>
      if !isTileOp f.instr || !s.mayPerform f || s.cutOff f then s
      else
        let s := s.sendFlight key
        s.consumeAll f (if isAccst f.instr then [] else s.flightErrors f (s.freePoison f))
         (if s.host.sent.any (fun e => isAccst f.instr && e.key == some key) then s else
          let s := s.tileLand f g false
          if raisesOf f.instr = some 3 then s.landFlight key 3
          else { s with flights := Map.del s.flights key }.reap)

def execTileOperationComplete (key : Nat) (s : State) : Host.Outcome State Fault Refusal := .next (s.tileDone key)

end Sys2Proof.Machine
end

