-- ==== Sys2Proof/Machine/Sha.lean ====
section
/-!
DEFINITION. The checks of a signed image (spec 14, R356): SHA-256, RSASSA-PKCS1-v1_5 with exponent 65,537, and the
measurement registers (R357). The numbers of an image are little-endian, its key and its signature among them (log 39).
-/

namespace Sys2Proof.Machine

/-! ### SHA-256 -/

/-- The 64 round constants, the first in the most significant word: the first 32 bits of the fraction of the cube root of
each of the first 64 primes (`test_shaConsts`). -/
def shaConsts : Nat := 0x428a2f9871374491b5c0fbcfe9b5dba53956c25b59f111f1923f82a4ab1c5ed5d807aa9812835b01243185be550c7dc372be5d7480deb1fe9bdc06a7c19bf174e49b69c1efbe47860fc19dc6240ca1cc2de92c6f4a7484aa5cb0a9dc76f988da983e5152a831c66db00327c8bf597fc7c6e00bf3d5a7914706ca63511429296727b70a852e1b21384d2c6dfc53380d13650a7354766a0abb81c2c92e92722c85a2bfe8a1a81a664bc24b8b70c76c51a3d192e819d6990624f40e3585106aa07019a4c1161e376c082748774c34b0bcb5391c0cb34ed8aa4a5b9cca4f682e6ff3748f82ee78a5636f84c878148cc7020890befffaa4506cebbef9a3f7c67178f2

/-- Round constant `i`. -/
def shaK (i : Nat) : W32 := BitVec.ofNat 32 (shaConsts >>> (32 * (63 - i)))

/-- The eight words before the first block: the fractions of the square roots of the first eight primes. -/
def shaStart : Nat := 0x6a09e667bb67ae853c6ef372a54ff53a510e527f9b05688c1f83d9ab5be0cd19

/-- The hash before the first block. -/
def shaInit : List W32 := (List.range 8).map (fun i => BitVec.ofNat 32 (shaStart >>> (32 * (7 - i))))

/-- The number of bytes read with the most significant first. -/
def ofBytesBE (l : List Byte) : Nat := l.foldl (fun n b => n * 256 + b.toNat) 0

/-- The `n` bytes of a number, most significant first. -/
def toBytesBE (n v : Nat) : List Byte := (toBytes n v).reverse

/-- The message padded to whole blocks of 64 bytes. -/
def shaPad (l : List Byte) : List Byte :=
  l ++ [0x80] ++ List.replicate ((119 - l.length % 64) % 64) 0 ++ toBytesBE 8 (8 * l.length)

/-- The message schedule: sixteen words of a block, newest first, extended by `n`. -/
def shaExtend (ws : List W32) : Nat → List W32
  | 0 => ws
  | n + 1 =>
    let x (i : Nat) : W32 := ws.getD (i - 1) 0
    let s0 := (x 15).rotateRight 7 ^^^ (x 15).rotateRight 18 ^^^ ((x 15) >>> 3)
    let s1 := (x 2).rotateRight 17 ^^^ (x 2).rotateRight 19 ^^^ ((x 2) >>> 10)
    shaExtend ((x 16 + s0 + x 7 + s1) :: ws) n

/-- One round. -/
def shaRound (h : List W32) (k w : W32) : List W32 :=
  let a := h.getD 0 0
  let b := h.getD 1 0
  let c := h.getD 2 0
  let e := h.getD 4 0
  let f := h.getD 5 0
  let g := h.getD 6 0
  let s1 := e.rotateRight 6 ^^^ e.rotateRight 11 ^^^ e.rotateRight 25
  let t1 := h.getD 7 0 + s1 + ((e &&& f) ^^^ (~~~e &&& g)) + k + w
  let s0 := a.rotateRight 2 ^^^ a.rotateRight 13 ^^^ a.rotateRight 22
  let t2 := s0 + ((a &&& b) ^^^ (a &&& c) ^^^ (b &&& c))
  [t1 + t2, a, b, c, h.getD 3 0 + t1, e, f, g]

/-- The hash after one block of 64 bytes. -/
def shaBlock (h : List W32) (blk : List Byte) : List W32 :=
  let ws := (List.range 16).map (fun i => BitVec.ofNat 32 (ofBytesBE ((blk.drop (4 * i)).take 4)))
  let sched := (shaExtend ws.reverse 48).reverse
  List.zipWith (· + ·) h (sched.zipIdx.foldl (fun h e => shaRound h (shaK e.2) e.1) h)

/-- The hash after `n` blocks. -/
def shaBlocks (h : List W32) (l : List Byte) : Nat → List W32
  | 0 => h
  | n + 1 => shaBlocks (shaBlock h (l.take 64)) (l.drop 64) n

/-- SHA-256 of bytes. -/
def sha256 (l : List Byte) : List Byte :=
  let p := shaPad l
  (shaBlocks shaInit p (p.length / 64)).flatMap (fun w => toBytesBE 4 w.toNat)

/-! ### RSA -/

/-- Square `k` times modulo `n`. -/
def sqMod (n x : Nat) : Nat → Nat
  | 0 => x
  | k + 1 => sqMod n (x * x % n) k

/-- The power 65,537 modulo `n`. -/
def pow65537 (n x : Nat) : Nat := sqMod n x 16 * x % n

/-- The encoded message of RSASSA-PKCS1-v1_5 for a SHA-256 digest and 384 bytes. -/
def pkcsEncode (digest : List Byte) : Nat :=
  ofBytesBE ([0x00, 0x01] ++ List.replicate 330 0xFF ++ [0x00]
    ++ [0x30, 0x31, 0x30, 0x0d, 0x06, 0x09, 0x60, 0x86, 0x48, 0x01, 0x65, 0x03, 0x04, 0x02, 0x01, 0x05, 0x00, 0x04, 0x20]
    ++ digest)

/-! ### Acceptance (R356) -/

def imageVer (l : List Byte) : Nat := ofBytes ((l.drop 4).take 2)
def imageKeyix (l : List Byte) : Nat := (l.getD 6 0).toNat
def imageKey (l : List Byte) : List Byte := (l.drop (l.length - 768)).take 384
def imageSig (l : List Byte) : List Byte := l.drop (l.length - 384)

/-- Whether the public key is the one its slot names and the signature verifies. -/
def Mgmt.signed (m : Mgmt) (l : List Byte) : Bool :=
  let n := ofBytes (imageKey l)
  let s := ofBytes (imageSig l)
  768 ≤ l.length && imageKeyix l ≤ 3 && sha256 (imageKey l) == Map.get m.keyhash (List.replicate 32 0) (imageKeyix l)
    && s < n && pow65537 n s == pkcsEncode (sha256 (l.take (l.length - 384)))

/-- Whether the key of an image is revoked. -/
def Mgmt.revoked (m : Mgmt) (l : List Byte) : Bool := imageKeyix l < m.keyrev

/-! ### Measurement (R357) -/

/-- The management core with register `n` extended by an image. -/
def Mgmt.extend (m : Mgmt) (n : Nat) (image : List Byte) : Mgmt :=
  { m with mr := Map.put m.mr n (sha256 (Map.get m.mr (List.replicate 32 0) n ++ sha256 image)) }

end Sys2Proof.Machine
end

