-- ==== Sys2Proof/Machine/System.lean ====
section
/-!
DEFINITION. The system block (spec 03, R78; spec 04, R84, R85; spec 14, R361; spec 19, R436, R449, R450; spec 21, R472).
`HALT` stands with the eviction it is made of.
-/

namespace Sys2Proof.Machine

/-! ### Once per fragment -/

/-- An instruction that acts once for the fragment, with the registers of its lowest lane with a true guard; a refused
operand value is a cause of every such lane (spec 18, R426). -/
def onceBody (codes : Iss → Thread → Option Nat) (act : Iss → Nat → Thread → State → State) (x : Iss) (s : State) :
    State :=
  match s.lead x with
  | none => s.advance x
  | some (l, _, t) =>
    match codes x t with
    | some c => s.faultLanes x x.on c
    | none => act x l t s

/-- A cause where a condition holds. -/
def causeIf (b : Bool) (c : Nat) : Option Nat := if b then some c else none

/-- Whether a virtual address has one of bits [63:57] set. -/
def highBits (v : W64) : Bool := decide (2 ^ 57 ≤ v.toNat)

/-! ### `SRWRP` (R78) -/

/-- Write a privileged special register, whole: the value of `srwrp.b32` is extended with zeros (log 65). -/
def State.sysPut (s : State) (n : Nat) (v : W64) : State :=
  { s with mgmt := { s.mgmt with sysregs := Map.putD s.mgmt.sysregs 0 n v } }

def execSrwrp (a : SrwrpArgs) (s : State) : Host.Outcome State Fault Refusal :=
  issue (.srwrp a) (onceBody (fun _ _ => causeIf (a.idx.val < 0x300) 0x139)
    (fun x _ t s => (s.sysPut a.idx.val (BitVec.ofNat 64 (opNat a.wide a.a x.v t))).advance x)) s

/-! ### `TLBINV` (R84, R85) -/

/-- The function and the PASID of OPA, or its domain. -/
def invFunc (v : W32) : Nat := bits v.toNat 25 20
def invPasid (v : W32) : Nat := bits v.toNat 19 0

/-- The accesses in flight, through translation, that issued in a space a form covers. A `WAITEQ` reads its place anew each
time, and is none. -/
def State.usersOf (s : State) (p : Flight → Bool) : List Nat :=
  Map.keysOf (s.flights.filter (fun e => p e.2 && !isWaiteq e.2.instr
    && e.2.parts.any (fun q => match q.loc with
      | .mem _ => true
      | .reg _ => true
      | .dom _ => true
      | .host _ => true
      | _ => false)))

/-- Drop the entries that `cover` names, and wait for every access of a space `user` that may have used one; `aux` of the
wait is their keys (log 40). -/
def invalidate (cover : TlbEntry → Bool) (user : Flight → Bool) (x : Iss) (s : State) : State :=
  let keys := s.usersOf user
  let s := { s with mmu := { s.mmu with tlb := s.mmu.tlb.filter (fun e => !cover e) } }
  if keys.isEmpty then s.advance x
  else s.finish x (some { instr := x.i, on := x.on, vals := [], aux := keys })
    ((lanesOf x.fr.mask).map (fun l => (l, .wait)))

/-- Whether an access issued in a PASID of a function. -/
def Flight.inPasid (f p : Nat) (a : Flight) : Bool := a.func == f && a.pasid == p

def execTlbinvPage (a : Ab) (s : State) : Host.Outcome State Fault Refusal :=
  issue (.tlbinvPage a) (onceBody
    (fun x t => causeIf (bits (opRead a.a x.v t).toNat 31 26 != 0 || highBits (opRead64 a.b x.v t)) 0x13A)
    (fun x _ t s =>
      let v := opRead a.a x.v t
      let va := (opRead64 a.b x.v t).toNat
      invalidate (fun e => e.func == invFunc v && e.pasid == invPasid v && e.vbase ≤ va && va < e.vbase + e.size)
        (Flight.inPasid (invFunc v) (invPasid v)) x s)) s

def execTlbinvPasid (a : Ax) (s : State) : Host.Outcome State Fault Refusal :=
  issue (.tlbinvPasid a) (onceBody (fun x t => causeIf (bits (opRead a.a x.v t).toNat 31 26 != 0) 0x13A)
    (fun x _ t s =>
      let v := opRead a.a x.v t
      invalidate (fun e => e.func == invFunc v && e.pasid == invPasid v)
        (Flight.inPasid (invFunc v) (invPasid v)) x s)) s

def execTlbinvIpa (a : Ab) (s : State) : Host.Outcome State Fault Refusal :=
  issue (.tlbinvIpa a) (onceBody
    (fun x t => causeIf (bits (opRead a.a x.v t).toNat 31 26 != 0 || invPasid (opRead a.a x.v t) != 0
      || highBits (opRead64 a.b x.v t)) 0x13A)
    (fun x _ t s =>
      let v := opRead a.a x.v t
      let ia := (opRead64 a.b x.v t).toNat
      invalidate (fun e => e.func == invFunc v && e.ibase ≤ ia && ia < e.ibase + e.isize)
        (fun g => g.func == invFunc v) x s)) s

def execTlbinvFunc (a : Ax) (s : State) : Host.Outcome State Fault Refusal :=
  issue (.tlbinvFunc a) (onceBody (fun x t => causeIf (bits (opRead a.a x.v t).toNat 31 26 != 0) 0x13A)
    (fun x _ t s =>
      let v := opRead a.a x.v t
      invalidate (fun e => e.func == invFunc v) (fun g => g.func == invFunc v) x s)) s

def execTlbinvDom (a : Ax) (s : State) : Host.Outcome State Fault Refusal :=
  issue (.tlbinvDom a) (onceBody (fun x t => causeIf (bits (opRead a.a x.v t).toNat 31 12 != 0) 0x13A)
    (fun x _ t s =>
      let d := (opRead a.a x.v t).toNat
      invalidate (fun e => e.domain == d) (fun a => a.domain == d) x s)) s

def execTlbinvAll (a : H0) (s : State) : Host.Outcome State Fault Refusal :=
  issue (.tlbinvAll a) (invalidate (fun _ => true) (fun _ => true)) s

/-- A `TLBINV`. -/
def isTlbinv : Instr → Bool
  | .tlbinvPage _ => true
  | .tlbinvPasid _ => true
  | .tlbinvIpa _ => true
  | .tlbinvFunc _ => true
  | .tlbinvDom _ => true
  | .tlbinvAll _ => true
  | _ => false

/-- Every access that had used an invalidated entry has been performed: the fragment goes on. -/
def execTlbinvComplete (wave frag : Nat) (s : State) : Host.Outcome State Fault Refusal :=
  .next (match s.frag wave frag with
    | none => s
    | some fr => match fr.st with
      | .wait wt =>
        if isTlbinv wt.instr && !wt.aux.any (Map.has s.flights) then s.releaseLanes wave frag fr fr.mask else s
      | _ => s)

/-! ### `DOMSET` (R436) -/

/-- The cause of a refused domain value: bits [31:12], domain 0, or the issuing group's own domain. -/
def domsetCode (v : W32) (own : Nat) : Option Nat :=
  causeIf (decide (2 ^ 12 ≤ v.toNat) || v == 0 || v.toNat == own) 0x13B

/-- Start the ending of a domain (R435). -/
def State.startEnding (s : State) (d : Nat) : State :=
  { s with rep := { s.rep with ending := if s.rep.ending.contains d then s.rep.ending else s.rep.ending ++ [d] } }

def execDomsetEnd (a : Ax) (s : State) : Host.Outcome State Fault Refusal :=
  issue (.domsetEnd a) (onceBody (fun x t => domsetCode (opRead a.a x.v t) x.g.domain)
    (fun x _ t s => (s.startEnding (opRead a.a x.v t).toNat).advance x)) s

def execDomsetStat (a : Ab) (s : State) : Host.Outcome State Fault Refusal :=
  issue (.domsetStat a) (onceBody (fun x t => domsetCode (opRead a.b x.v t) x.g.domain)
    (fun x _ t s =>
      let v : W32 := if s.rep.ending.contains (opRead a.b x.v t).toNat then 1 else 0
      (s.mapLanes x.w x.on (fun _ t => opWrite a.a v t)).advance x)) s

/-! ### `FINJ` (R450; spec 21, R472) -/

/-- The element index of an `.acc` operand, and its bit. -/
def accIndex (v : W32) : Nat := 2048 * bits v.toNat 3 0 + 64 * bits v.toNat 8 4 + bits v.toNat 14 9
def accBit (v : W32) : Nat := bits v.toNat 19 15

/-- Flip one bit of an element; the check code agrees with the new value. -/
def Eng.flip (e : Eng) (v : W32) : Eng :=
  { e with acc := Map.putD e.acc 0 (accIndex v) (Map.get e.acc 0 (accIndex v) ^^^ (1#32 <<< accBit v)) }

/-- `FINJ` marks a tile uncorrectable. -/
def Eng.mark (e : Eng) (t : Nat) : Eng :=
  { e with uncorr := e.uncorr ||| (1#16 <<< t), injected := e.injected ||| (1#16 <<< t) }

/-- An injection into the engine: refused outside the matrix role, and in engine order (R472). -/
def finjEng (top : Nat) (o : Opnd) (f : W32 → Eng → Eng) : Iss → State → State :=
  onceBody
    (fun x t => causeIf (decide (2 ^ top ≤ (opRead o x.v t).toNat)) 0x13C)
    (fun x _ t s =>
      if s.kindOfGroup x.g != .matrix then s.faultLanes x x.on 0x13C
      else mtxBody (fun x s => (s.updEng x.g.core (f (opRead o x.v t))).advance x) x s)

def execFinjAcc (a : Ax) (s : State) : Host.Outcome State Fault Refusal :=
  issue (.finjAcc a) (finjEng 20 a.a (fun v e => e.flip v)) s

def execFinjAccue (a : Ax) (s : State) : Host.Outcome State Fault Refusal :=
  issue (.finjAccue a) (finjEng 4 a.a (fun v e => e.mark v.toNat)) s

/-- Poison a line of 128 bytes of scratchpad. -/
def Group.poisonLine (g : Group) (u : Nat) : Group :=
  { g with
    scrPoison := if g.scrPoison.contains u then g.scrPoison else u :: g.scrPoison
    scrInjected := if g.scrInjected.contains u then g.scrInjected else u :: g.scrInjected }

/-- A scratchpad address beyond the allotment is out of range as a store's is (log 41). -/
def execFinjSpue (a : Ax) (s : State) : Host.Outcome State Fault Refusal :=
  issue (.finjSpue a) (onceBody (fun _ _ => none) (fun x _ t s =>
    match s.scrLoc x.gid x.g (opRead a.a x.v t).toNat 1 with
    | none => s.faultLanes x x.on 0x0B1
    | some (k, o) => (s.updGroup k (fun g => g.poisonLine (o / 128))).advance x)) s

/-- The address is translated as a store's; a place that is not this device's memory has no L2 line here (log 41). -/
def execFinjLineue (a : Ax) (s : State) : Host.Outcome State Fault Refusal :=
  issue (.finjLineue a) (onceBody (fun x t => causeIf (highBits (opRead64 a.a x.v t)) 0x13C) (fun x _ t s =>
    match s.placeVirt x.g .write 1 (opRead64 a.a x.v t).toNat 1 with
    | (.at' (.mem pa) ad, s) => ((s.fillL2 (dieOf x.g.core) (pa / 128) true).poisonLine pa true).leaveAll x (.at' (.mem pa) ad)
    | (f, s) => s.leaveAll x f)) s

def execFinjReplay (a : H0) (s : State) : Host.Outcome State Fault Refusal :=
  issue (.finjReplay a) (fun x s => (s.updWave x.w (fun v => { v with replay := true })).advance x) s

def execFinjSig (a : H0) (s : State) : Host.Outcome State Fault Refusal :=
  issue (.finjSig a) (fun x s =>
    (if lrPaired (s.recOf x.g) then s.updWave x.w (fun v => { v with sigFlip := true }) else s).advance x) s

/-! ### `MCLOAD` (R153, R360, R361) -/

/-- An `MCLOAD`. -/
def isMcload : Instr → Bool
  | .mcload _ => true
  | _ => false

/-- The fragment waits for the management core; `aux` is its place in the order of arrival, and the address. An address
that is no multiple of 4 KiB is a refused operand value (log 39). -/
def execMcload (a : Ab) (s : State) : Host.Outcome State Fault Refusal :=
  issue (.mcload a) (onceBody
    (fun x t => causeIf ((opRead64 a.b x.v t).toNat % 4096 != 0 || highBits (opRead64 a.b x.v t)) 0x13D)
    (fun x _ t s =>
      let k := s.nextKey
      let s := { s with nextKey := k + 1 }
      s.finish x (some { instr := x.i, on := x.on, vals := [], aux := [k, (opRead64 a.b x.v t).toNat] })
        ((lanesOf x.fr.mask).map (fun l => (l, .wait))))) s

/-- Descriptors of an image. -/
def imagePrims (l : List Byte) : List Prim :=
  (List.range ((l.getD 7 0).toNat + 1)).map (fun i =>
    let d := ofBytes ((l.drop (8 + 16 * i)).take 16)
    { entry := bits d 7 0, opcode := bits d 15 8, desc := BitVec.ofNat 128 d })

/-- Whether a descriptor is in range (log 11 for the fields of spec 10, R298). -/
def Prim.inRange (p : Prim) : Bool :=
  (p.opcode == 0 || (0xE0 ≤ p.opcode && p.opcode < 0xF0)) && bits p.desc.toNat 17 16 != 3

/-- Whether no value stands twice in a list. -/
def distinct : List Nat → Bool
  | [] => true
  | a :: r => !r.contains a && distinct r

/-- Whether LEN of an image is in range (R360). -/
def imageLenOk (n : Nat) : Bool := n % 8 == 0 && 792 ≤ n && n ≤ 2 ^ 20

/-- Whether the descriptors of an image are as R361 asks. -/
def imageFormed (l : List Byte) : Bool :=
  let ps := imagePrims l
  8 + 16 * ((l.getD 7 0).toNat + 1) ≤ l.length - 768 && ps.all Prim.inRange && distinct (ps.map (·.entry))
    && distinct ((ps.map (·.opcode)).filter (· != 0)) && Config.stopsOk (ofBytesBE (sha256 l))

/-- The status of an image that was read (R361): the checks of key and signature, of version, and of form (log 39). -/
def Mgmt.imageStatus (m : Mgmt) (l : List Byte) : Nat :=
  if !m.signed l || m.revoked l then 1
  else if imageVer l < m.svn then 2
  else if !imageFormed l then 3
  else 0

/-- Accept a microcode image: its primitives are known by its digest, and new launches bind it once no launch uses the
binding before it; a launch accepted before it, admitted or still queued, keeps that binding (R153). The image replaces the
whole binding, also what it does not name, and an image that still waits (log 64). -/
def State.acceptImage (s : State) (l : List Byte) : State :=
  let d := ofBytesBE (sha256 l)
  { s with
    launches := Map.mapv s.launches (fun _ k => s.withBinding k)
    mgmt := { (s.mgmt.extend 5 l) with
      images := Map.put s.mgmt.images d (imagePrims l), nextBinding := some d } }.settleBinding

/-- Read and judge the image at virtual address `va`. Poison in it counts as a place that cannot be read (log 79). -/
def State.loadImage (s : State) (c : Ctx) (va : Nat) : Nat × State :=
  match s.readVirt c va 8 with
  | (.error _, s) => (4, s)
  | (.ok h, s) =>
    let n := ofBytes (h.take 4)
    if !imageLenOk n then (3, s)
    else match s.readVirt c va n with
      | (.error _, s) => (4, s)
      | (.ok l, s) =>
        let st := s.mgmt.imageStatus l
        (st, if st = 0 then s.acceptImage l else s)

/-- The places in the order of arrival of the `MCLOAD`s that wait. -/
def State.mcloads (s : State) : List Nat :=
  s.waves.flatMap (fun p => p.2.frags.filterMap (fun f => match f.st with
    | .wait wt => if isMcload wt.instr then wt.aux.head? else none
    | _ => none))

/-- The management core serves the `MCLOAD` that arrived first: the status goes to gS in every lane with a true guard. -/
def execMcloadDone (wave frag : Nat) (s : State) : Host.Outcome State Fault Refusal :=
  .next (match s.frag wave frag, (Map.find s.waves wave).bind (fun v => Map.find s.groups v.gid) with
    | some fr, some g => match fr.st with
      | .wait wt => match wt.instr with
        | .mcload a =>
          if s.mcloads.any (fun k => k < wt.aux.headD 0) then s
          else
            let r := s.loadImage g.ctx (wt.aux.getD 1 0)
            (r.2.mapLanes wave wt.on (fun _ t => opWrite a.a (BitVec.ofNat 32 r.1) t)).releaseLanes wave frag fr fr.mask
        | _ => s
      | _ => s
    | _, _ => s)

/-! ### `SIGCMP` (R449) -/

def execSigcmpCmp (a : Ab) (s : State) : Host.Outcome State Fault Refusal :=
  issue (.sigcmpCmp a) (laneWise (fun x _ t =>
    { opWrite a.a (if t.sig = opRead64 a.b x.v t then 0 else 1) t with sig := 0 })) s

def execSigcmpRd (a : Ax) (s : State) : Host.Outcome State Fault Refusal :=
  issue (.sigcmpRd a) (laneWise (fun _ _ t => opWrite64 a.a t.sig t)) s

end Sys2Proof.Machine
end

