-- ==== Sys2Proof/Machine/Boot.lean ====
section
/-!
DEFINITION. The Barista core: the measured boot (spec 14, R356, R357; spec 01, R15), power and temperature (R362, R363),
and SPDM over the management port (R359).
-/

namespace Sys2Proof.Machine

/-! ### Boot (R357) -/

/-- What is wrong with a signed image, as BOOTSTAT.FAIL gives it; 0 where it is accepted (R356, R358; log 39). -/
def Mgmt.bootFail (m : Mgmt) (l : List Byte) : Nat :=
  if l.length < 776 then 4
  else if !m.signed l then 1
  else if m.revoked l then 2
  else if imageVer l < m.svn then 3
  else 0

/-- One stage: it is reached; its image is accepted and measured, or boot stops there. -/
def Mgmt.bootStage (n : Nat) (l : List Byte) (bad : Bool) (m : Mgmt) : Mgmt :=
  if m.fail ≠ 0 then m
  else
    let m := { m with stage := n }
    let e := m.bootFail l
    if e ≠ 0 then { m with fail := e }
    else if bad then { m with fail := 4 }
    else m.extend (n - 1) l

/-- The Barista firmware raises KEYREV and SVN from its own image (R356). -/
def Mgmt.raise (revto svnto : Nat) (m : Mgmt) : Mgmt :=
  if m.fail ≠ 0 then m else { m with keyrev := max m.keyrev revto, svn := max m.svn (svnto % 2 ^ 16) }

/-- The DDR-5 population obeys the rules: one or two modules of 16 to 96 GiB in each populated channel of the sixteen, and
the same in all of them (spec 01, R15). -/
def dimmsOk (ds : List (List Nat)) : Bool :=
  let used := (ds.filter (fun c => !c.isEmpty)).map (sortBy (fun (a b : Nat) => a ≤ b))
  ds.length == 16 && used.all (fun c => c.length ≤ 2 && c.all (fun g => 16 ≤ g && g ≤ 96))
    && used.all (fun c => some c == used.head?)

/-- Memory training: the tier's capacity, or DDRX where the population breaks the rules (spec 01, R15). -/
def State.trainMemory (s : State) (ds : List (List Nat)) : State :=
  if s.mgmt.fail ≠ 0 then s
  else if dimmsOk ds then { s with mem := { s.mem with ddrBytes := 2 ^ 30 * ((ds.flatMap id).foldl (· + ·) 0) } }
  else { s with mgmt := { s.mgmt with ddrx := true } }

/-- Whether a base microcode image is as R360 and R361 ask. -/
def baseFormed (l : List Byte) : Bool := l.length == ofBytes (l.take 4) && imageLenOk l.length && imageFormed l

/-- The end of boot: new launches bind the base image, function table entry 0 is filled, word 0 last, and DONE is set. -/
def State.finishBoot (s : State) (l : List Byte) (pf : List W64) : State :=
  if s.mgmt.fail ≠ 0 then s
  else
    let d := ofBytesBE (sha256 l)
    let s := { s with mgmt := { s.mgmt with images := Map.put s.mgmt.images d (imagePrims l), binding := some d } }
    let s := ([7, 6, 5, 4, 3, 2, 1, 0] : List Nat).foldl (fun (s : State) w =>
      s.setRegWord (0x420000 + 8 * w) (pf.getD w 0).toNat) s
    { s with mgmt := { s.mgmt with done := true } }

/-- The machine as power-on leaves it: reset, with the fuses as they stand. -/
def State.poweredOn (s : State) : State :=
  { State.reset with
    agenda := s.agenda
    freeCtr := s.freeCtr
    mgmt := { Mgmt.reset with keyhash := s.mgmt.keyhash, keyrev := s.mgmt.keyrev, svn := s.mgmt.svn } }

/-- A PF system software image, verified by the Barista firmware as every image is: if it is accepted, MR6 or MR7 is extended
(R357; log 43: the spec does not say which image extends which). -/
def Mgmt.pfImage (m : Mgmt) (e : Bool × List Byte) : Mgmt :=
  if m.done && m.bootFail e.2 == 0 then m.extend (if e.1 then 7 else 6) e.2 else m

/-- The five stages in order, and then the PF system software. A Barista image whose REVTO exceeds its own KEYIX is malformed (log 43). -/
def State.boot (s : State) (b : BootInputs) : State :=
  let s := s.poweredOn
  let s := { s with mgmt := ((s.mgmt.bootStage 1 b.barista (decide (imageKeyix b.barista < b.revto))).raise b.revto b.svnto
    |>.bootStage 2 b.config false).bootStage 3 b.hub false |>.bootStage 4 b.training false }
  let s := s.trainMemory b.dimms
  let s := { s with mgmt := s.mgmt.bootStage 5 b.microcode (!baseFormed b.microcode) }
  let s := s.finishBoot b.microcode b.pfEntry
  { s with mgmt := b.pf.foldl (fun m e => m.pfImage e) s.mgmt }

def execPowerOn (inputs : BootInputs) (s : State) : Host.Outcome State Fault Refusal := .next (s.boot inputs)

/-! ### Power (R362) -/

/-- A step of the throttle, and its limit of one half. -/
def throtStep : Nat := 1024
def throtMax : Nat := 32768

/-- Readings of temperature, in 1/16 degree. -/
def temp105 : Nat := 105 * 16
def temp100 : Nat := 100 * 16
def temp115 : Nat := 115 * 16

/-- The throttle of the next period: up a step above the cap; at or below it, as it stands or down a step, which the spec
leaves open (log 43); one half while the temperature rule holds. -/
def Mgmt.nextThrot (m : Mgmt) (mw : Nat) (lower : Bool) : Nat :=
  if m.hot then throtMax
  else if 1000 * m.pwrcap.toNat < mw then min throtMax (m.throt.toNat + throtStep)
  else if lower then m.throt.toNat - throtStep
  else m.throt.toNat

/-- The junction has reached 105 degrees: the throttle is one half until it falls below 100 (R363, R364). -/
def State.tooHot (s : State) (tj : Nat) : State :=
  if temp105 ≤ tj && !s.mgmt.hot then
    { s with mgmt := { s.mgmt with
        hot := true, throt := BitVec.ofNat 16 throtMax, tjmax := BitVec.ofNat 16 tj } }.count 0x17D
  else s

/-- A millisecond's readings. Power above the cap is counted (0x17C). -/
def State.powerStep (s : State) (mw tj : Nat) : State :=
  let s := s.tooHot tj
  let m := { s.mgmt with hot := s.mgmt.hot && decide (temp100 ≤ tj) }
  let t := m.nextThrot mw (Config.freeChoice s.freeCtr % 2 == 1)
  let s := if 1000 * m.pwrcap.toNat < mw then s.count 0x17C else s
  { s with
    freeCtr := s.freeCtr + 1
    mgmt := { m with throt := BitVec.ofNat 16 t, tjmax := BitVec.ofNat 16 tj, mw := BitVec.ofNat 32 mw } }

/-! ### SPDM messages -/

/-- Send a message on the management port. -/
def State.spdmSend (s : State) (m : SpdmMsg) : State := { s with mgmt := { s.mgmt with outbox := s.mgmt.outbox ++ [m] } }

/-! ### The thermal stop (R363, R364) -/

/-- A launch that the thermal stop ends: a record in the ring of its function (R364; spec 19, R440). -/
def Launch.thermalRecord (l : Launch) : ErrInfo :=
  { cause := 0x167, action := 6, func := l.func, pasid := l.pasid, domain := l.domain, lrec := l.lrec, queue := l.queue,
    etag := l.etag }

/-- The core dies' clocks stop at 115 degrees: what runs on them ends without completion, each launch with a record to its own
function, DONE is clear, and the stop is reported through the management port and to the host (0x167, 0x17F). A forked child
is part of its launch. -/
def State.stopClocks (s : State) (tj : Nat) : State :=
  if tj < temp115 || s.mgmt.stopped then s
  else
    let ls := (s.launches.map Prod.snd).filter (fun l => !l.ended && (match l.src with | .fork _ => false | _ => true))
    let s : State := { s with
      waves := [], threads := [], groups := [], gangs := [], launches := [], cores := [], flights := []
      rep := { s.rep with halting := [] }
      mgmt := { s.mgmt with stopped := true, done := false, moving := [], tjmax := BitVec.ofNat 16 tj } }
    let s := s.spdmSend { code := 0, fields := [0x167], data := [] }
    let s := ls.foldl (fun (s : State) l => s.hostReport l.thermalRecord) s
    (s.hostReport { cause := 0x167, action := 7 }).hostReport { cause := 0x17F, action := 7 }

/-- The readings of a period; at 115 degrees the clocks stop. -/
def execPowerPeriod (mw tj : Nat) (s : State) : Host.Outcome State Fault Refusal :=
  .next ((s.powerStep mw tj).stopClocks tj)

def execThermal105 (tj : Nat) (s : State) : Host.Outcome State Fault Refusal := .next ((s.tooHot tj).stopClocks tj)

def execThermalStop (tj : Nat) (s : State) : Host.Outcome State Fault Refusal := .next ((s.tooHot tj).stopClocks tj)

/-! ### The SPDM responder (R359; log 44 for the codes of SPDM 1.2) -/

/-- An ERROR with this error code. -/
def spdmError (e : Nat) : SpdmMsg := { code := 0x7F, fields := [e], data := [] }

/-- Answer a request; before stage 1 completes, with ResponseNotReady. -/
def State.spdmAnswer (s : State) (m : SpdmMsg) : State :=
  s.spdmSend (if s.mgmt.stage ≤ 1 then spdmError 0x42 else m)

/-- Version 1.2 alone. -/
def execGetVersion (s : State) : Host.Outcome State Fault Refusal :=
  .next (s.spdmAnswer { code := 0x04, fields := [0x12], data := [] })

/-- Certificates, challenges and signed measurements; no sessions and no key exchange. -/
def execGetCapabilities (s : State) : Host.Outcome State Fault Refusal :=
  .next (s.spdmAnswer { code := 0x61, fields := [0x02 + 0x04 + 0x10], data := [] })

/-- TPM_ALG_RSASSA_3072 and TPM_ALG_SHA_256. -/
def execNegotiateAlgorithms (s : State) : Host.Outcome State Fault Refusal :=
  .next (s.spdmAnswer { code := 0x63, fields := [0x04, 0x01], data := [] })

/-- The digest of the chain in slot 0. -/
def execGetDigests (s : State) : Host.Outcome State Fault Refusal :=
  .next (s.spdmAnswer { code := 0x01, fields := [0x01], data := sha256 (Config.certChain 0) })

/-- A part of the chain: its length and what remains. -/
def certAnswer (slot offset len : Nat) : SpdmMsg :=
  let rest := (Config.certChain 0).drop offset
  if slot ≠ 0 then spdmError 0x01
  else { code := 0x02, fields := [(rest.take len).length, (rest.drop len).length], data := rest.take len }

def execGetCertificate (slot offset len : Nat) (s : State) : Host.Outcome State Fault Refusal :=
  .next (s.spdmAnswer (certAnswer slot offset len))

/-- `n` times eight free bytes (log 2). -/
def State.freeBytes (s : State) (n : Nat) : List Byte × State :=
  ((List.range n).flatMap (fun i => toBytes 8 (Config.freeWord (s.freeCtr + i)).toNat), { s with freeCtr := s.freeCtr + n })

/-- A challenge: the chain's digest, a nonce and a signature of 384 bytes, both free. -/
def State.challenged (s : State) (slot : Nat) (nonce : List Byte) : State :=
  if slot ≠ 0 ∨ nonce.length ≠ 32 then s.spdmAnswer (spdmError 0x01)
  else
    let (l, s) := s.freeBytes 52
    s.spdmAnswer { code := 0x03, fields := [slot], data := sha256 (Config.certChain 0) ++ l }

def execChallenge (slot : Nat) (nonce : List Byte) (s : State) : Host.Outcome State Fault Refusal :=
  .next (s.challenged slot nonce)

/-- Measurement block index n + 1 is MRn, as a raw digest; 0xFF is all eight. -/
def Mgmt.measurements (m : Mgmt) (i : Nat) : SpdmMsg :=
  if i = 0xFF then { code := 0x60, fields := [8], data := (List.range 8).flatMap m.mrOf }
  else if 1 ≤ i ∧ i ≤ 8 then { code := 0x60, fields := [1], data := m.mrOf (i - 1) }
  else if i = 0 then { code := 0x60, fields := [8], data := [] }
  else spdmError 0x01

def execGetMeasurements (index : Nat) (s : State) : Host.Outcome State Fault Refusal :=
  .next (s.spdmAnswer (s.mgmt.measurements index))

/-- Any other request: ERROR UnsupportedRequest. -/
def execSpdmUnsupportedRequest (code : Nat) (s : State) : Host.Outcome State Fault Refusal :=
  .next (s.spdmAnswer { spdmError 0x07 with data := [BitVec.ofNat 8 code] })

end Sys2Proof.Machine
end

