-- ==== Sys2Proof/Machine/Coll.lean ====
section
/-!
DEFINITION. Collectives (spec 08, R218, R219; spec 13, R353; spec 18, R415).
-/

namespace Sys2Proof.Machine

/-! ### The set and the control word -/

/-- Word `w` of collective set `n`. -/
def State.csetWord (s : State) (n w : Nat) : Nat := (Map.get s.fab.csets 0 (n * 32 + w)).toNat

/-- Members of collective set `n`. -/
def State.csetSize (s : State) (n : Nat) : Nat := bits (s.csetWord n 0) 7 0

/-- Rank of this device in collective set `n`. -/
def State.csetRank (s : State) (n : Nat) : Nat := bits (s.csetWord n 0) 15 8

/-- Bytes of the buffer, from the control word. -/
def collBytes (c : Nat) : Nat := bits c 8 0

/-- Element type, from the control word: 0 `.b32`, 1 `.f32`, 2 `.d`. -/
def collType (c : Nat) : Nat := bits c 11 9

/-- The code of an operation (SOP). -/
def collCode : CollOp → Nat
  | .sum => 0
  | .max => 1
  | .bcast => 2
  | .min => 3

/-- The causes that the issuing member alone meets (R415). -/
def State.collCodes (s : State) (g : Group) (set c : Nat) : List Nat :=
  let n := collBytes c
  let w := s.csetWord set 0
  (if n < 8 ∨ 256 < n ∨ n % 8 ≠ 0 ∨ 2 < collType c ∨ bits c 31 12 ≠ 0 then [0x0DC] else [])
    ++ (if w.testBit 63 then [] else [0x0DD])
    ++ (if bits w 61 56 ≠ g.func ∨ bits w 55 36 ≠ g.pasid then [0x0DE] else [])

/-! ### The reduction -/

/-- The elements of a buffer, `k` bytes each. -/
def collElems (k : Nat) (l : List Byte) : List Nat := (List.range (l.length / k)).map (fun i => ofBytes ((l.drop (k * i)).take k))

/-- One combination of two elements of a type. -/
def collStep (op : CollOp) (ty a b : Nat) : Nat :=
  let w := if ty = 2 then 64 else 32
  let fa : W32 := BitVec.ofNat 32 a
  let fb : W32 := BitVec.ofNat 32 b
  match op with
  | .sum => if ty = 1 then (faddBits fa fb).toNat else (a + b) % 2 ^ w
  | .max => if ty = 1 then (fmaxBits fa fb).toNat else if sInt w a ≤ sInt w b then b else a
  | .min => if ty = 1 then (fminBits fa fb).toNat else if sInt w a ≤ sInt w b then a else b
  | .bcast => a

/-- An element of the result: a floating-point result that is a NaN is the canonical one (spec 05, R117). -/
def collEnd (op : CollOp) (ty a : Nat) : Nat :=
  if ty = 1 && op != .bcast && (FR.ofBits .f32 a).isNan then Fmt.f32.nan else a

/-- The result over the members' buffers in ascending rank. -/
def collResult (op : CollOp) (ty : Nat) : List (List Byte) → List Byte
  | [] => []
  | b :: r =>
    let k := if ty = 2 then 8 else 4
    ((r.foldl (fun acc m => List.zipWith (collStep op ty) acc (collElems k m)) (collElems k b)).map (collEnd op ty)).flatMap
      (toBytes k)

/-! ### Issue -/

/-- A `COLL`. -/
def isColl : Instr → Bool
  | .coll _ => true
  | _ => false

/-- The header a member sends: operation, N, type and the set's issue count, in the order the spec names them (log 28). -/
def collHeader (op n ty seq : Nat) : List Byte := toBytes 1 op ++ toBytes 2 n ++ toBytes 1 ty ++ toBytes 8 seq

/-- The device of rank `r` in collective set `n`: byte 8 + `r` of the entry (spec 13, R353). -/
def State.csetDev (s : State) (n r : Nat) : Nat := s.csetWord n (1 + r / 8) / 2 ^ (8 * (r % 8)) % 256

/-- Send a message about set `n` to the member of rank `r`. -/
def State.collSend (s : State) (n r : Nat) (l : List Byte) : State :=
  let d := s.csetDev n r
  s.fabTo d 0 (.coll d n l)

/-- Send a message to several members. -/
def State.collSends (s : State) (n : Nat) (l : List Byte) (rs : List Nat) : State :=
  rs.foldl (fun (s : State) r => s.collSend n r l) s

/-- The parent of rank `r` in the tree (spec 13, R353). -/
def collParent (r : Nat) : Nat := if r ≤ 17 then 0 else 1 + (r - 18) % 17

/-- The children of rank `r` among `n` members. -/
def collChildren (n r : Nat) : List Nat := (List.range n).filter (fun c => c != 0 && collParent c == r)

/-- Whether rank `c` is rank `r` or below it; the tree of 144 members has four levels. -/
def collUnder (r c : Nat) : Bool := c == r || collParent c == r || collParent (collParent c) == r || r == 0

/-- The messages a member sends to its parent: for an `.f32` sum, which rank 0 gathers, the buffers of its branch in ascending
rank, its own and those that its children sent up; else the result over its branch. A broadcast sends nothing up. -/
def collUp (op : CollOp) (ty rank : Nat) (ms : List CollMember) : List (List Byte) :=
  if op == .bcast || rank = 0 then []
  else
    let branch := (ms.filter (fun m => collUnder rank m.rank)).map (·.data)
    if op == .sum && ty == 1 then branch else [collResult op ty branch]

/-- The header is sent and the fragment waits until the result is in the buffer. -/
def execColl (a : CollArgs) (s : State) : Host.Outcome State Fault Refusal :=
  issue (.coll a) (fun x s =>
    match (lowLane x.on).bind (fun l => s.laneThread x.w l) with
    | none => s.advance x
    | some t =>
      let c := (opRead a.ctl x.v t).toNat
      let buf := (opRead a.buf x.v t).toNat
      match minCode (s.collCodes x.g a.set.val c) with
      | some code => s.faultLanes x x.on code
      | none =>
        match (s.placeAt x.gid x.g .scr 7 buf (collBytes c)).1 with
        | .mismatch code ad => s.killGroup x.gid { cause := code, addr := ad }
        | .at' loc ad =>
          let n := collBytes c
          let ps : List Part := (lanesOf x.on).filterMap (fun l => (s.laneTid x.w l).map (fun k =>
            { tid := k, lane := l, loc := loc, addr := ad, len := n, data := toBytes 4 c, call := t.call }))
          let key := s.nextKey
          let s := s.launchFlight x 4 allStreams none [] ps [] {}
          let s := if a.dom then
              s.collSends a.set.val (collHeader (collCode a.op) n (collType c) (Map.get s.fab.collCount 0 a.set.val))
                ((List.range (s.csetSize a.set.val)).filter (· != s.csetRank a.set.val))
            else s
          s.finish x (some { instr := x.i, on := x.on, vals := [], aux := [key] })
            ((lanesOf x.fr.mask).map (fun l => (l, .wait)))
        | .cause code ad => s.finish x none ((lanesOf x.fr.mask).map (fun l =>
            (l, if x.on.getLsbD l then .cause code ad else .go x.next)))
        | _ => s.advance x) s

/-! ### Completion -/

/-- The operation of function `func` that waits on set `set`, oldest first: its key, arguments and access. -/
def State.collWaiting (s : State) (func set : Nat) : Option (Nat × CollArgs × Flight) :=
  s.flights.findSome? (fun p => match p.2.instr with
    | .coll a =>
      if a.set.val = set ∧ ((Map.find s.groups p.2.gid).map (·.func)) = some func then some (p.1, a, p.2) else none
    | _ => none)

/-- The set's issue count advances. -/
def State.collNext (s : State) (set : Nat) : State :=
  { s with fab := { s.fab with collCount := Map.put s.fab.collCount set (Map.get s.fab.collCount 0 set + 1) } }

/-- The operation leaves the accesses in flight. -/
def State.collDone (s : State) (key : Nat) : State := { s with flights := Map.del s.flights key }.reap

/-- The waiting lanes take a cause, and the next operation on the set starts afresh. -/
def State.collFails (s : State) (key : Nat) (f : Flight) (set code : Nat) : State :=
  let s := (s.collNext set).collDone key
  match s.fragOn f.wave key isColl with
  | none => s
  | some (i, fr) => s.waitCause f.wave i fr code 0

/-- The cause of the headers, if one differs from rank 0's: the lowest (R415). -/
def headerCause (ms : List CollMember) : Option Nat :=
  match ms.find? (fun m => m.rank == 0) with
  | none => none
  | some z => minCode (ms.flatMap (fun m =>
      (if m.op ≠ z.op then [0x0D8] else []) ++ (if m.count ≠ z.count then [0x0D9] else [])
        ++ (if m.ty ≠ z.ty then [0x0DA] else []) ++ (if m.seq ≠ z.seq then [0x0DB] else [])))

/-- Every member has issued: a header that differs raises its cause in every member; else the result is written to the
buffer and the fragment goes on. At device scope the set holds this device's member alone (R218). -/
def State.collTry (s : State) (func set : Nat) (others : List CollMember) : State :=
  match s.collWaiting func set with
  | none => s
  | some (key, a, f) =>
    match f.parts.head? with
    | none => s
    | some p =>
      if !s.mayPerform f then s
      else
        match s.poisonAt none p.loc p.len with
        | some e => s.consume f.gid (f.callee p) e
        | none =>
          let c := ofBytes p.data
          let own : CollMember :=
            { rank := s.csetRank set, op := collCode a.op, count := p.len, ty := collType c,
              seq := Map.get s.fab.collCount 0 set, data := s.readLoc none p.loc p.len }
          let ms := if a.dom then sortBy (fun (x y : CollMember) => x.rank ≤ y.rank) (own :: others) else [own]
          if a.dom && ms.map (·.rank) != List.range (s.csetSize set) then s
          else
            match (if a.dom then headerCause ms else none) with
            | some code => s.collFails key f set code
            | none =>
              let res := (collResult a.op (collType c) (ms.map (·.data))).take p.len
              let up := collUp a.op (collType c) own.rank ms
              let s := if a.dom then
                  (up.foldl (fun (s : State) l => s.collSend set (collParent own.rank) l) s).collSends set res
                    (collChildren (s.csetSize set) own.rank)
                else s
              let s := s.writeLocs (.of func) [(p.loc, res)]
              let s := (s.collNext set).collDone key
              match s.fragOn f.wave key isColl with
              | none => s
              | some (i, fr) => s.spliceFrag f.wave i [{ fr with st := .ready, pc := fr.pc + 8 }]

def execCollComplete (func set : Nat) (others : List CollMember) (s : State) : Host.Outcome State Fault Refusal :=
  .next (s.collTry func set others)

/-- A member's header has not arrived 1 ms after the first: every member that has issued raises 0x0DF (R415). -/
def execCollHeaderTimeout (func set : Nat) (s : State) : Host.Outcome State Fault Refusal :=
  .next (match s.collWaiting func set with
    | none => s
    | some (key, a, f) => if a.dom then s.collFails key f set 0x0DF else s)

end Sys2Proof.Machine
end

