-- ==== Sys2Proof/Machine/Control.lean ====
section
/-!
DEFINITION. Branches, calls, returns, yield, traps, and words that decode to no instruction (spec 07, R184, R185, R187,
R189; spec 17, R400; spec 18, R408).
-/

namespace Sys2Proof.Machine

/-- The target of a PC-relative branch, modulo 2^57 (spec 06, R144). -/
def relTarget (pc : VA) (off : W32) : VA := pc + off.signExtend 57 * 8

/-- How a lane leaves a branch to a register target: 0x028 for bits [2:0], 0x029 for bits [63:57] (spec 18, R408). -/
def regTarget (t : W64) : LaneEnd :=
  if t.toNat % 8 ≠ 0 then .cause 0x028 0
  else if 2 ^ 57 ≤ t.toNat then .cause 0x029 0
  else .go (t.setWidth 57)

/-- A branch: each lane with a true guard changes as `f` says, if it goes on, and leaves as `f` says; the others go on
to the next instruction. -/
def branchBody (f : Nat → Thread → Thread × LaneEnd) (x : Iss) (s : State) : State :=
  let ends := (lanesOf x.fr.mask).map (fun l =>
    (l, if x.on.getLsbD l then (match s.laneThread x.w l with
        | some t => (f l t).2
        | none => .go x.next)
      else .go x.next))
  (s.mapLanes x.w x.on (fun l t => match (f l t).2 with
    | .go _ => (f l t).1
    | _ => t)).finish x none ends

def execBra (a : BraArgs) (s : State) : Host.Outcome State Fault Refusal :=
  issue (.bra a) (fun x => branchBody (fun _ t => (t, .go (relTarget x.pc a.off))) x) s

def execBrx (a : BrxArgs) (s : State) : Host.Outcome State Fault Refusal :=
  issue (.brx a) (fun x => branchBody (fun _ t => (t, regTarget (opRead64 a.t x.v t))) x) s

/-- A call with its link (R185): to a pair, or pushed on the call chain, where a chain of 8 takes 0x02A. -/
def callLane (link : Opnd) (ret : VA) (tgt : LaneEnd) (t : Thread) : Thread × LaneEnd :=
  match link with
  | .z => (match tgt with
    | .go pc => if 8 ≤ t.chain.length then (t, .cause 0x02A 0) else ({ t with chain := ret :: t.chain }, .go pc)
    | e => (t, e))
  | _ => (opWrite64 link (ret.setWidth 64) t, tgt)

def execCall (a : CallArgs) (s : State) : Host.Outcome State Fault Refusal :=
  issue (.call a) (fun x => branchBody (fun _ t => callLane a.link x.next (.go (relTarget x.pc a.off)) t) x) s

def execCallx (a : CallxArgs) (s : State) : Host.Outcome State Fault Refusal :=
  issue (.callx a) (fun x => branchBody (fun _ t => callLane a.link x.next (regTarget (opRead64 a.t x.v t)) t) x) s

/-- A return: the top entry of the chain; 0x02B where the chain is empty. -/
def retLane (t : Thread) : Thread × LaneEnd :=
  match t.chain with
  | [] => (t, .cause 0x02B 0)
  | pc :: r => ({ t with chain := r }, .go pc)

def execRet (a : H0) (s : State) : Host.Outcome State Fault Refusal :=
  issue (.ret a) (branchBody (fun _ t => retLane t)) s

/-- The run ends after it (spec 11, R310), and the wave's age becomes the current cycle, with that of the fragment where it
had one of its own (R312). -/
def execYield (a : H0) (s : State) : Host.Outcome State Fault Refusal :=
  issue (.yield a) (fun x s => (s.updWave x.w (fun v =>
    { v with age := s.tick, ages := v.ages.filter (fun e => !x.fr.mask.getLsbD e.1) })).advance x) s

/-- The user-trap cause 0x030 + IMM[3:0] in the lanes with a true guard. -/
def execTrap (a : TrapArgs) (s : State) : Host.Outcome State Fault Refusal :=
  issue (.trap a) (fun x s => s.faultLanes x x.on (0x030 + a.imm.toNat % 16)) s

/-- The breakpoint cause. -/
def execBkpt (a : TrapArgs) (s : State) : Host.Outcome State Fault Refusal :=
  issue (.bkpt a) (fun x s => s.faultLanes x x.on 0x02F) s

/-- A word that is not well formed: no part of its effect is performed, and stage 1 gives its cause. -/
def execUnassignedOpcode (w : IWord) (c : Fin 16) (s : State) : Host.Outcome State Fault Refusal :=
  issue (.unassignedOpcode w c) (fun x s => s.faultLanes x x.on c.val) s

end Sys2Proof.Machine
end

