-- ==== Sys2Proof/Machine/Remote.lean ====
section
/-!
DEFINITION. Accesses to other devices and hosts that the far side refuses or does not answer (spec 20, R463; spec 17,
R390).
-/

namespace Sys2Proof.Machine

/-- Whether a flight belongs to the matrix path. -/
def isTileFlight (i : Instr) : Bool := isTileOp i

/-- The access kind of an instruction for a refused remote access (spec 17, R390; log 24). -/
def remoteKind (i : Instr) : Nat :=
  if isTileFlight i then 5 else if isAtomic i then 2 else if raisesOf i = some 0 || isWaiteq i then 0 else 1

/-- The access of an LSU instruction ends: its remote loads deliver zero, a remote store or atomic writes nothing, neither
memory nor its destination (spec 20, R463). A `WAITEQ` reads zero:
lanes whose condition that meets go on, the others look again. -/
def State.endRemote (s : State) (key : Nat) (f : Flight) (func : Party) : State :=
  match f.instr with
  | .brld a => s.brldArrive f.wave f.gid key a.target.val (List.replicate 16 0)
  | .ldw _ => f.parts.foldl (fun (s : State) p => s.deliverPart key f.gid f.instr p (List.replicate p.len 0)) s
  | i => if raisesOf i = some 1 && !isAtomic i then s.storeParts f func else f.parts.foldl (fun (s : State) (p : Part) =>
      if p.loc.remote then
        (if (returnsTo i).isSome && !isAtomic i then s.deliverPart key f.gid i p (List.replicate p.len 0) else s)
      else if (returnsTo i).isSome then
        let q : List Byte × State := s.performPart i func p 0
        q.2.deliverPart key f.gid i p q.1
      else (s.performPart i func p 0).2) s

/-- A `WAITEQ` whose far places read zero: lanes that this satisfies go on at PC + 8, the others are looked at again. -/
def State.waiteqZero (s : State) (key : Nat) (f : Flight) (ne : Bool) : State :=
  let met (p : Part) : Bool := p.loc.remote && (List.replicate p.len 0 == p.data) != ne
  let left := f.parts.filter (fun p => !met p)
  let s := { s with flights := if left.isEmpty then Map.del s.flights key
                               else Map.put s.flights key { f with parts := left, sent := false, born := s.tick } }
  match s.fragOn f.wave key isWaiteq with
  | none => s
  | some (i, fr) => s.releaseLanes f.wave i fr (maskOf ((f.parts.filter met).map (·.lane)) &&& fr.mask)

/-- 0x16E: no answer within 1 ms. -/
def State.noAnswer (s : State) (refused : Bool) (g : Option Group) (core : Nat) : State :=
  if refused then s
  else s.hostReport { cause := 0x16E, func := (g.map (·.func)).getD 0, pasid := (g.map (·.pasid)).getD 0,
                      domain := (g.map (·.domain)).getD 0, core := core }

/-- A remote access is refused by the far side, or has no answer within 1 ms: a load writes zero, a store nothing, and
0x098 + D arises asynchronously; without an answer 0x16E is recorded too. -/
def State.flightFails (s : State) (key : Nat) (f : Flight) (refused : Bool) : State :=
  let far := f.parts.filter (fun p => p.loc.remote)
  if far.isEmpty || !s.mayPerform f || !(refused || f.born + 1750000 ≤ s.tick) then s
  else
    let g : Option Group := Map.find s.groups f.gid
    let s := s.sendFlight key
    let s := { s with host := { s.host with sent := s.host.sent.filter (fun e => e.key != some key) } }
    let s := match f.instr with
      | .waiteq a => s.waiteqZero key f a.ne
      | i =>
        let s := if isTileFlight i then (match g with | some g => s.tileLand f g true | none => s)
          else s.endRemote key f (s.partyFor f)
        match raisesOf i with
        | some c => s.landFlight key c
        | none => { s with flights := Map.del s.flights key }.reap
    let s := s.noAnswer refused g f.core
    s.raiseAsync f.gid { code := 0x098 + remoteKind f.instr, tids := (far.map (·.tid)).eraseDups,
                         addr := BitVec.ofNat 64 ((far.head?.map (·.addr)).getD 0) }

/-- The address and access kind of the first remote place of a list of elements. -/
def farPlace (ms : List Moved) : Option (Nat × Nat) :=
  let far (d : Nat) (e : Elem) : Option (Nat × Nat) := match e with
    | .places a l => if l.any Loc.remote then some (a, d) else none
    | _ => none
  ms.findSome? (fun m => far 3 m.src <|> far 4 m.dst)

/-- A copy whose present box reaches another device ends there, as at any fault (spec 20, R464; log 25). -/
def State.copyFails (s : State) (q : Copy) (refused : Bool) : State :=
  match Map.find s.groups q.gid with
  | none => s
  | some g =>
    let ms := (boxElems (recEsize q.src) (descAt q.desc 2) (descAt q.desc 3) q.next).map (fun e => (s.formMove q g e).1)
    match farPlace ms with
    | none => s
    | some (a, d) => (s.failCopy q (0x098 + d) a).noAnswer refused (some (q.group g)) g.core

/-- The access or copy with this key fails on its far side. -/
def State.remoteFails (s : State) (key : Nat) (refused : Bool) : State :=
  match Map.find s.flights key with
  | some f => s.flightFails key f refused
  | none => match s.cores.findSome? (fun c => c.2.copyq.find? (fun q => q.key == key)) with
    | some q => s.copyFails q refused
    | none => s

def execRemoteAccessTimeout (key : Nat) (refused : Bool) (s : State) : Host.Outcome State Fault Refusal :=
  .next (s.remoteFails key refused)

end Sys2Proof.Machine
end

