-- ==== Sys2Proof/Machine/Fabric.lean ====
section
/-!
DEFINITION. The Frarok fabric as the device meets it: flits (spec 13, R351), peer packets (spec 11, R319, R320), accesses
from other devices (spec 13, R352), lanes and retrains (spec 20, R469, R470). Messages stand for flits (log 43).
-/

namespace Sys2Proof.Machine

/-! ### Flits (R351) -/

/-- One bit of the CRC-32 with the IEEE 802.3 polynomial. -/
def crcBit (c : W32) : W32 := if c.getLsbD 0 then (c >>> 1) ^^^ 0xEDB88320 else c >>> 1

/-- One byte of it. -/
def crcByte (c : W32) (b : Byte) : W32 :=
  crcBit (crcBit (crcBit (crcBit (crcBit (crcBit (crcBit (crcBit (c ^^^ b.setWidth 32))))))))

/-- CRC-32 of bytes. -/
def crc32 (l : List Byte) : W32 := l.foldl crcByte 0xFFFFFFFF ^^^ 0xFFFFFFFF

/-- Whether the CRC of a flit agrees. -/
def crcOk (f : List Byte) : Bool := (crc32 (f.take 60)).toNat == ofBytes (f.drop 60)

/-- The header word of a flit and its fields. -/
def flitHead (f : List Byte) : Nat := ofBytes (f.take 4)
def flitSeq (f : List Byte) : Nat := bits (flitHead f) 11 0
def flitAck (f : List Byte) : Nat := bits (flitHead f) 23 12
def flitType (f : List Byte) : Nat := bits (flitHead f) 27 24

/-- Drop what an acknowledgement of `ack` and everything before it covers. -/
def FPort.acked (p : FPort) (ack : Nat) : FPort :=
  { p with unacked := p.unacked.filter (fun e => flitWindow ≤ (ack + 4096 - e.1) % 4096) }

/-- Send again, in SEQ order, every flit of port `p` that is not acknowledged, where it sends (spec 13, R351). -/
def State.replayAll (s : State) (p : Nat) : State :=
  let v := s.fport p
  if !v.sends then s
  else { s with fab := { s.fab with
    outbox := s.fab.outbox ++ v.unacked.map (fun e => { port := p, head := v.head e.1 e.2.2, msg := e.2.2 }) } }

/-- What waited for room in the replay buffer of port `p` is sent as far as there is room. -/
def State.sendWaiting (s : State) (p : Nat) : State :=
  let v := s.fport p
  if v.waiting.isEmpty then s
  else
    let n := flitWindow - v.unacked.length
    (v.waiting.take n).foldl (fun (s : State) e => s.fabSend p e.1 e.2) (s.setFport p { v with waiting := v.waiting.drop n })

/-- One replay of the flit that is due; the sixteenth of one SEQ starts a retrain (R470). -/
def State.flitReplay (s : State) (p : Nat) : State :=
  let v := s.fport p
  let s := (s.setFport p { v with crc := satInc v.crc, replay := satInc v.replay, tries := v.tries + 1 }).count 0x154
  if 16 ≤ v.tries + 1 then
    (s.setFport p { s.fport p with tries := 0, training := true }).hostReport { cause := 0x16B }
  else s

/-- A flit with a good CRC: its acknowledgement counts; it is delivered if its SEQ is due, and dropped otherwise. A
reserved TYPE, like an idle or a credit, delivers nothing. An idle flit that acknowledges nothing new tells of a flit that was
dropped: the sender replays from the lowest unacknowledged SEQ (spec 13, R351; log 43). -/
def State.flitTaken (s : State) (p : Nat) (f : List Byte) : State :=
  let old := s.fport p
  let v := old.acked (flitAck f)
  let stuck := flitType f = 0 && !v.unacked.isEmpty && v.unacked.length == old.unacked.length
  let s := if flitSeq f = v.recvSeq then
      let s := s.setFport p { v with recvSeq := (v.recvSeq + 1) % 4096, tries := 0 }
      if 1 ≤ flitType f ∧ flitType f ≤ 5 then { s with fab := { s.fab with inbox := s.fab.inbox ++ [(p, f)] } } else s
    else s.setFport p v
  (if stuck then s.replayAll p else s).sendWaiting p

/-- A port that is off, down or retraining takes no flit. -/
def execFlitReceive (port : Nat) (flit : List Byte) (s : State) : Host.Outcome State Fault Refusal :=
  .next (
    let v := s.fport port
    if 18 ≤ port || flit.length != 64 || !v.en || v.down || v.training then s
    else if crcOk flit then s.flitTaken port flit
    else s.flitReplay port)

/-! ### Peer packets (spec 11, R319, R320; spec 20, R465 order 1) -/

def peerDev (e : W128) : Nat := bits e.toNat 126 119
def peerFunc (e : W128) : Nat := bits e.toNat 118 113
def peerFirst (e : W128) : Nat := bits e.toNat 112 102
def peerLast (e : W128) : Nat := bits e.toNat 101 91
def peerPost (e : W128) : Bool := e.getLsbD 90
def peerSysok (e : W128) : Bool := e.getLsbD 89
def peerPmax (e : W128) : Nat := bits e.toNat 88 86
def peerPchk (e : W128) : Bool := e.getLsbD 85
def peerPasid (e : W128) : Nat := bits e.toNat 84 65

/-- The lowest-numbered valid entry for a packet. -/
def State.peerEntry (s : State) (sender f q : Nat) : Option W128 :=
  ((List.range 256).map (fun i => Map.get s.host.peers 0 i)).find? (fun e =>
    e.getLsbD 127 && peerDev e == sender && peerFunc e == f && decide (peerFirst e ≤ q) && decide (q ≤ peerLast e))

/-- Whether an entry admits a packet: POST, and the PASIDs agree where PCHK asks it. -/
def peerAdmits (e : W128) (ws : List W64) : Bool := peerPost e && (!peerPchk e || pkPasid ws == peerPasid e)

/-- The packet waits for the engine, or is refused and counted in PEERREF. -/
def State.peerArrives (s : State) (sender f q : Nat) (ws : List W64) : State :=
  let refuse := s.setFblock f { s.fblock f with peerref := satInc (s.fblock f).peerref }
  match s.peerEntry sender f q with
  | none => refuse
  | some e =>
    if peerAdmits e ws then
      let k : PeerPkt :=
        { sender := sender, func := f, queue := q, words := ws, sysok := peerSysok e, pmax := peerPmax e,
          tail := s.queueTail f q }
      { s with host := { s.host with peerq := s.host.peerq ++ [k] } }
    else refuse

def execPeerLaunchPacket (sender func q : Nat) (packet : List W64) (s : State) : Host.Outcome State Fault Refusal :=
  .next (if func < 64 && q < 2048 && packet.length == 8 then s.peerArrives sender func q packet else s)

/-! ### Accesses of other devices (R352; spec 19, R431) -/

/-- Answer a domain request about a line. -/
def State.domAnswer (s : State) (d pa : Nat) (m : FabMsg) : State := s.fabTo d (pa / 128) m

/-- Whether `n` bytes from physical address `pa` lie in HBM4 or DDR-5. -/
def State.inMemory (s : State) (pa n : Nat) : Bool := s.paKind pa == .mem && s.paKind (pa + n - 1) == .mem

/-- A read-modify-write for another device: the old bytes go back, with the mark of their unit. -/
def State.domAtomic (s : State) (d pa n : Nat) (f : List Byte → Option (List Byte)) : State :=
  let s := s.atHome pa true
  let old := s.peek pa n
  let p := s.poisoned pa n
  let s := match f old with
    | some new => s.writeLocs (.of 0) [(.mem pa, new)]
    | none => s
  s.domAnswer d pa (.resp d old p)

/-- Perform a request of device `d` at this device's memory, with the stores that were released at its place and those that the L1s
hold of it; an address outside it is refused. -/
def State.domServe (s : State) (d : Nat) (r : DomReq) : State :=
  let pa := match r with
    | .load a _ => a
    | .store a _ => a
    | .atom a _ _ _ => a
    | .atomf a _ _ => a
    | .cas a _ _ => a
  let n := match r with
    | .load _ n => n
    | .store _ l => l.length
    | .atom _ w _ _ => if w then 8 else 4
    | .atomf _ _ _ => 4
    | .cas _ _ _ => 4
  if n = 0 || !s.fab.domen || !s.inMemory pa n then s.domAnswer d pa (.refuse d)
  else
    let s := (s.pullBy (fun l => (Loc.mem pa).overlaps n l 8)).gather (.mem pa) n
    match r with
    | .load _ _ => s.domAnswer d pa (.resp d (s.peek pa n) (s.poisoned pa n))
    | .store _ l => (s.writeLocs (.of 0) [(.mem pa, l)]).domAnswer d pa (.resp d [] false)
    | .atom _ _ op v => s.domAtomic d pa n (fun old => some (toBytes n (atomNew op (8 * n) (ofBytes old) v.toNat)))
    | .atomf _ op v => s.domAtomic d pa n (fun old => some (toBytes n (atomfNew op (BitVec.ofNat 32 (ofBytes old)) v).toNat))
    | .cas _ c v => s.domAtomic d pa n (fun old => if ofBytes old = c.toNat then some (toBytes n v.toNat) else none)

def execDomainRequest (sender : Nat) (req : DomReq) (s : State) : Host.Outcome State Fault Refusal :=
  .next (if sender < 144 then s.domServe sender req else s)

/-! ### Lanes and retrains (R470) -/

/-- A lane fails: it is no longer usable, and the port retrains. -/
def State.laneFails (s : State) (p l : Nat) : State :=
  let v := s.fport p
  s.setFport p { v with failed := v.failed ||| (1#9 <<< l), training := true }

def execFrarokLaneFailure (port lane : Nat) (s : State) : Host.Outcome State Fault Refusal :=
  .next (if port < 18 && lane < 9 then s.laneFails port lane else s)

/-- The device a message goes to. -/
def FabMsg.dest : FabMsg → Nat
  | .req d _ => d
  | .resp d _ _ => d
  | .refuse d => d
  | .coll d _ _ => d

/-- A message of a port that went down goes again on the port that the line hash picks. -/
def State.sendAgain (s : State) (line : Nat) (m : FabMsg) : State := s.fabTo m.dest line m

/-- The accesses under way to device `d` are refused: no port reaches it any more. -/
def State.refuseTo (s : State) (d : Nat) : State :=
  let far (p : Part) : Bool := match p.loc with
    | .dom pa => pa / 2 ^ 44 - 1 == d
    | _ => false
  (Map.keysOf (Map.keep s.flights (fun _ f => f.sent && f.parts.any far))).foldl (fun (s : State) k => s.remoteFails k true) s

/-- The port goes down: it leaves every route mask, what it had sent without acknowledgement is sent again in SEQ order, and for
each device that it alone reached 0x16D is recorded and the accesses to it are refused. -/
def State.portDown (s : State) (p : Nat) : State :=
  let bit : BitVec 18 := 1#18 <<< p
  let lost := Map.keysOf (Map.keep s.fab.routes (fun _ m => m == bit))
  let v := s.fport p
  let s : State := { s with fab := { s.fab with routes := (Map.mapv s.fab.routes (fun _ m => m &&& ~~~bit)).filter (fun e => e.2 != 0) } }
  let s := s.setFport p { v with down := true, training := false, peer := 0xFF, unacked := [], waiting := [] }
  let s := s.hostReport { cause := 0x16A, action := 5 }
  let s := lost.foldl (fun (s : State) _ => s.hostReport { cause := 0x16D }) s
  let s := (v.unacked.map Prod.snd ++ v.waiting).foldl (fun (s : State) e => s.sendAgain e.1 e.2) s
  lost.foldl (fun (s : State) d => s.refuseTo d) s

/-- A retrain ends with these lanes failed and this far end; a port that is up replays what is not acknowledged (spec 20,
R470). -/
def State.retrained (s : State) (p : Nat) (failed : BitVec 9) (peer : BitVec 8) : State :=
  let v := { s.fport p with failed := failed }
  let s := s.setFport p { v with training := false, down := false, peer := peer, tries := 0 }
  match popCount 9 failed.toNat with
  | 0 => s.replayAll p
  | 1 => (s.spareUsed 0x168).replayAll p
  | 2 => (s.sparesGone 0x169 5).replayAll p
  | _ => s.portDown p

def execRetrainDone (port : Nat) (failed : BitVec 9) (peer : BitVec 8) (s : State) :
    Host.Outcome State Fault Refusal :=
  .next (if port < 18 && (s.fport port).training then s.retrained port failed peer else s)

end Sys2Proof.Machine
end

