-- ==== Sys2Proof/Machine/Filter.lean ====
section
/-!
DEFINITION. `FILTER` (spec 10, R285 to R287; spec 12, R334; spec 17, R389).
-/

namespace Sys2Proof.Machine

/-! ### The block (R285) -/

/-- The parameters of register +1. -/
structure TexParams where
  filt : Nat
  wrv : Nat
  wru : Nat
  lvm1 : Nat
  lh : Nat
  lw : Nat
  fmt : Nat
deriving DecidableEq, Repr

def texParams (v : Nat) : TexParams :=
  { filt := bits v 21 20, wrv := bits v 19 18, wru := bits v 17 16, lvm1 := bits v 15 12, lh := bits v 11 8,
    lw := bits v 7 4, fmt := bits v 3 0 }

/-- Width of level `k`. -/
def TexParams.width (p : TexParams) (k : Nat) : Nat := max 1 (2 ^ p.lw / 2 ^ k)

/-- Height of level `k`. -/
def TexParams.height (p : TexParams) (k : Nat) : Nat := max 1 (2 ^ p.lh / 2 ^ k)

/-- Elements before level `k`. -/
def TexParams.start (p : TexParams) (k : Nat) : Nat :=
  (List.range k).foldl (fun n j => n + p.width j * p.height j) 0

/-- Code of the record's ESIZE that a format needs (R287). -/
def texEsize (fmt : Nat) : Nat := if fmt = 2 then 3 else 2

/-- Texels that a filter reads. -/
def texCount (filt : Nat) : Nat := match filt with
  | 0 => 1
  | 1 => 4
  | _ => 8

/-! ### Set-up (R286) -/

/-- The floor of (−1)^neg · m · 2^e. -/
def frFloor : FR → Int
  | .fin s m e =>
    if 0 ≤ e then (if s then -((m * 2 ^ e.toNat : Nat) : Int) else (m * 2 ^ e.toNat : Nat))
    else if s then -((ceilDiv m (2 ^ (-e).toNat) : Nat) : Int) else (m / 2 ^ (-e).toNat : Nat)
  | _ => 0

/-- A value times 2^n. -/
def frShift (n : Int) : FR → FR
  | .fin s m e => .fin s m (e + n)
  | v => v

/-- U or V: a value that is not finite counts as 0. -/
def coordOf (v : W32) : FR := match ofF32 v with
  | .fin s m e => .fin s m e
  | _ => .fin false 0 0

/-- ρ² (R286). -/
def rhoSq (p : TexParams) (dudx dvdx dudy dvdy : W32) : FR :=
  let sq (a : W32) (n : Nat) : FR := let x := frShift n (ofF32 a); FR.mul x x
  let a := FR.add (sq dudx p.lw) (sq dvdx p.lh)
  let b := FR.add (sq dudy p.lw) (sq dvdy p.lh)
  match FR.sub a b with
  | .nan => if a.isNan || b.isNan then .nan else a
  | d => if d.sign then b else a

/-- λ in units of 1/256, from ρ²: floor(128 · log2 ρ²), clamped to 0 to LVM1; a NaN gives the free value `free` (log 2). -/
def lodUnits (lvm1 free : Nat) : FR → Nat
  | .nan => free % (256 * lvm1 + 1)
  | .inf _ => 256 * lvm1
  | .fin _ m e =>
    if m = 0 then 0
    else (max 0 (min (256 * (lvm1 : Int)) (Nat.log2 (m ^ 128) + 128 * e))).toNat

/-- λ as given: clamped to 0 to LVM1; a NaN reads as 0. -/
def lodGiven (lvm1 : Nat) (v : W32) : FR :=
  match ofF32 v with
  | .nan => .fin false 0 0
  | .inf s => if s then .fin false 0 0 else .fin false lvm1 0
  | .fin s m e => if s then .fin false 0 0 else if (lvm1 : Int) ≤ frFloor (.fin false m e) then .fin false lvm1 0 else .fin false m e

/-- The levels and the level fraction: L0, L1, FL. -/
def texLevels (filt lvm1 : Nat) (lod : FR) : Nat × Nat × Nat :=
  if filt < 2 then
    let l := (frFloor (FR.add lod (.fin false 1 (-1)))).toNat
    (l, l, 0)
  else
    let l := (frFloor lod).toNat
    (l, min (l + 1) lvm1, (frFloor (frShift 8 lod)).toNat % 256)

/-- Position of a coordinate on an axis of `n` texels: the lower texel, and the fraction in 1/256 (0 for point). -/
def texPos (filt n : Nat) (u : FR) : Int × Nat :=
  let x := FR.mul u (.fin false n 0)
  if filt = 0 then (frFloor x, 0)
  else
    let s := FR.sub x (.fin false 1 (-1))
    (frFloor s, (frFloor (frShift 8 s) % 256).toNat)

/-- A wrapped coordinate. -/
def texWrap (mode n : Nat) (i : Int) : Nat :=
  match mode with
  | 0 => (i % n).toNat
  | 1 => (max 0 (min i (n - 1))).toNat
  | _ => let m := (i % (2 * n)).toNat; if m < n then m else 2 * n - 1 - m

/-- Texel `k` in the order of R287: its level and which of L0 and L1 it is, its corner, its element after LBASE. -/
def texelOf (p : TexParams) (l0 l1 : Nat) (u v : FR) (k : Nat) : Nat :=
  let l := if k < 4 then l0 else l1
  let w := p.width l
  let h := p.height l
  let i := (texPos p.filt w u).1 + (if k % 2 = 1 then 1 else 0)
  let j := (texPos p.filt h v).1 + (if k % 4 < 2 then 0 else 1)
  p.start l + texWrap p.wrv h j * w + texWrap p.wru w i

/-- The integer weight of texel `k` (R287). -/
def texWeight (filt fu fv fl k : Nat) : Nat :=
  if filt = 0 then 2 ^ 24
  else
    (if k % 2 = 1 then fu else 256 - fu) * (if k % 4 < 2 then 256 - fv else fv)
      * (if filt = 1 then 256 else if k < 4 then 256 - fl else fl)

/-- The level of detail that the set-up finds: the exact value, and what register +8 takes. -/
def texLod (lod : Bool) (c : MacCtx) (free : Nat) : FR :=
  let p := texParams (c.nat 1)
  if lod then lodGiven p.lvm1 (c.reg 8)
  else .fin false (lodUnits p.lvm1 free (rhoSq p (c.reg 4) (c.reg 5) (c.reg 6) (c.reg 7))) (-8)

/-- The set-up step: LOD, FRAC, the levels, and colour zero. -/
def filterSetup (lod : Bool) (c : MacCtx) : Mac MOut := do
  let free ← macFree
  let p := texParams (c.nat 1)
  let x := texLod lod c (Config.freeWord free).toNat
  let l := texLevels p.filt p.lvm1 x
  let f (n : Nat) (r : Nat) : Nat := (texPos p.filt n (coordOf (c.reg r))).2
  let frac := f (p.width l.1) 2 + f (p.height l.1) 3 * 2 ^ 8 + f (p.width l.2.1) 2 * 2 ^ 16 + f (p.height l.2.1) 3 * 2 ^ 24
  return { regs := c.head (c.idata / 16 * 16) 1 0 ++ (if lod then [] else c.put 8 [toF32 x])
             ++ c.put 9 [BitVec.ofNat 32 frac, BitVec.ofNat 32 (l.2.1 * 2 ^ 12 + l.1 * 2 ^ 8 + l.2.2)]
             ++ c.put 12 [0, 0, 0, 0] }

/-! ### Texels (R287) -/

/-- Channel `i` of a texel, converted to FP32. -/
def texChannel (fmt v i : Nat) : FR :=
  let f16 (k : Nat) : FR := ofF32 (toF32 (FR.ofBits .f16 (v / 2 ^ (16 * k) % 2 ^ 16)))
  match fmt with
  | 0 => ofF32 (toF32 (frOf (channelOf 0 v i)))
  | 1 => ofF32 (toF32 (frOf (channelOf 1 v i)))
  | 2 => f16 i
  | 3 => if i < 2 then f16 i else .fin false (i - 2) 0
  | _ => if i = 0 then ofF32 (BitVec.ofNat 32 v) else .fin false (if i = 3 then 1 else 0) 0

/-- The set-up step, or the next texel. -/
def filterStep (a : FilterArgs) (c : MacCtx) : Mac MOut := do
  if c.status = 0 then filterSetup a.lod c
  else
    let p := texParams (c.nat 1)
    let k := c.idata % 16
    if texCount p.filt ≤ k then return { regs := c.head c.idata 3 0, ends := [c.lane] }
    else
      let l0 := bits (c.nat 10) 11 8
      let l1 := bits (c.nat 10) 15 12
      let e := c.nat 11 + texelOf p l0 l1 (coordOf (c.reg 2)) (coordOf (c.reg 3)) k
      if 2 ^ 32 ≤ e then macCause 0x077
      else
        let v ← macRead c (c.record 0) false e (2 ^ texEsize p.fmt)
        let fr := if k < 4 then c.nat 9 % 2 ^ 16 else c.nat 9 / 2 ^ 16
        let wt : FR := .fin false (texWeight p.filt (fr % 256) (fr / 256) (bits (c.nat 10) 7 0) k) (-24)
        let col := (List.range 4).map (fun i =>
          toF32 (FR.add (ofF32 (c.reg (12 + i))) (FR.mul wt (texChannel p.fmt v i))))
        let last := texCount p.filt ≤ k + 1
        return { regs := c.head (c.idata / 16 * 16 + (k + 1)) (if last then 3 else 1) 0 ++ c.put 12 col,
                 ends := if last then [c.lane] else [] }

/-- Whether the block names a texel beyond element 2^32 − 1 that the instruction would read, given its levels. -/
def texBeyond (c : MacCtx) (lod : Bool) : Bool :=
  let p := texParams (c.nat 1)
  let l : Nat × Nat := if c.status = 0 then
      (let x := texLevels p.filt p.lvm1 (texLod lod c 0); (x.1, x.2.1))
    else (bits (c.nat 10) 11 8, bits (c.nat 10) 15 12)
  (List.range (texCount p.filt)).any (fun k =>
    2 ^ 32 ≤ c.nat 11 + texelOf p l.1 l.2 (coordOf (c.reg 2)) (coordOf (c.reg 3)) k)

/-- The causes of a `FILTER` found at issue (R389). -/
def filterCheck (a : FilterArgs) (_ : State) (x : Iss) (t : Thread) : List Nat :=
  let op : MacOp := { sb := a.sb, recs := [a.ra], opx := .z, str := a.str.val }
  let c : MacCtx := { i := .filter a, op := op, w := x.w, lane := 0, tid := 0, t := t, gid := x.gid, g := x.g, recs := [],
                      opx := 0, ran := false, wrote := false, quad := false }
  let p := texParams (c.nat 1)
  codesWhere [
    (0x070, 4 < p.fmt),
    (0x071, p.fmt ≤ 4 && recEsizeCode (x.g.buf a.ra.val) ≠ texEsize p.fmt),
    (0x072, p.filt = 3),
    (0x073, p.wrv = 3 || p.wru = 3),
    (0x074, 14 < p.lw || 14 < p.lh),
    (0x075, 14 < p.lvm1),
    (0x076, bits (c.nat 0) 31 20 ≠ 0 || bits (c.nat 1) 31 22 ≠ 0),
    (0x077, texBeyond c a.lod)]

def execFilter (a : FilterArgs) (s : State) : Host.Outcome State Fault Refusal :=
  macIssue (.filter a) { sb := a.sb, recs := [a.ra], opx := .z, str := a.str.val } (filterCheck a) s

end Sys2Proof.Machine
end

