-- ==== Sys2Proof/Machine/HostIf.lean ====
section
/-!
DEFINITION. The host ports (spec 13, R338 to R340, R344, R346; spec 20, R461, R467, R468; spec 19, R431).
-/

namespace Sys2Proof.Machine

/-! ### Arriving frames (R339) -/

/-- Whether a frame is addressed to function `f`. -/
def State.frameFor (s : State) (fr : Frame) (f : Nat) : Bool :=
  (s.ftWord f 0).testBit 63 && bits (s.ftWord f 0) 47 0 == fr.mac
    && (!(s.ftWord f 1).testBit 15 || fr.vlan == some (bits (s.ftWord f 1) 11 0))

/-- Whether QP `j` of function `f` accepts requests: STATE 2 or 3. -/
def State.qpAccepts (s : State) (f j : Nat) : Bool := s.qpState f j == 2 || s.qpState f j == 3

/-- Whether packet `a` comes at or before packet `b`, of PSNs modulo 2^24. -/
def psnLe (a b : Nat) : Bool := (b + 2 ^ 24 - a) % 2 ^ 24 < 2 ^ 23

/-- The requests of a QP that have left and are not acknowledged. -/
def State.unackedOf (s : State) (f j : Nat) : List Sent := s.host.sent.filter (fun e => e.func == f && e.qp == j && e.out)

/-- A host has acknowledged every packet of QP `j` of function `f` up to `psn`. -/
def State.ackedTo (s : State) (f j psn : Nat) : State :=
  { s with host := { s.host with
      sent := s.host.sent.filter (fun e => !(e.func == f && e.qp == j && e.out && psnLe e.last psn))
      retries := Map.del s.host.retries (f * 4096 + j) } }

/-- Send every unacknowledged request of a QP again, one retry more (go-back-N: spec 13, R338). -/
def State.resend (s : State) (f j : Nat) : State :=
  let l := s.unackedOf f j
  let s := l.foldl (fun (s : State) e => s.emit f j e.psn e.msg) s
  { s with host := { s.host with
      sent := s.host.sent.map (fun e => if e.func == f && e.qp == j && e.out then { e with at' := s.tick } else e)
      retries := Map.put s.host.retries (f * 4096 + j) (Map.get s.host.retries 0 (f * 4096 + j) + 1) } }

/-- A host does not take packet `psn`: those before it are acknowledged. A packet out of sequence has the rest sent again; the
access of a request that is refused fails (spec 20, R463). -/
def State.nakked (s : State) (f j psn : Nat) (refused : Bool) : State :=
  let s := s.ackedTo f j (psn + 2 ^ 24 - 1)
  if !refused then (if s.qpState f j = 3 then s.resend f j else s)
  else match (s.unackedOf f j).find? (fun e => psnLe e.psn psn && psnLe psn e.last) with
    | none => s
    | some e =>
      let s : State := { s with host := { s.host with sent := s.host.sent.erase e } }
      match e.key with
      | some k => s.remoteFails k true
      | none => s

/-- A frame goes to the function whose MAC and VLAN match; other frames are dropped and counted. A request for a QP that is
none of the function's, or that does not accept it, is dropped without a response; an answer acts on the requests of its QP. -/
def State.frameArrives (s : State) (fr : Frame) : State :=
  if 4 ≤ fr.port || !s.host.portsUp.getLsbD fr.port then s
  else match (List.range 64).find? (s.frameFor fr) with
    | none => { s with host := { s.host with dropped := s.host.dropped + 1 } }
    | some f =>
      let j := fr.qpn % 4096
      if fr.qpn / 4096 = f && j < s.qpCount f && s.qpAccepts f j then
        match fr.req with
        | .ack psn => s.ackedTo f j psn
        | .nak psn refused => s.nakked f j psn refused
        | r => { s with host := { s.host with inbox := s.host.inbox ++ [{ func := f, qp := j, psn := fr.psn % 2 ^ 24, req := r }] } }
      else s

def execEthernetFrame (frame : Frame) (s : State) : Host.Outcome State Fault Refusal := .next (s.frameArrives frame)

/-! ### The requests of a QP, in packet order -/

/-- The number of a QP. -/
def qpNumber (f j : Nat) : Nat := f * 4096 + j

/-- Answer a request on QP `j` of function `f`, with the PSN of the packet that is due, or with `done` of the one before. -/
def State.respondHost (s : State) (f j : Nat) (done : Bool) (m : OutMsg) : State :=
  s.emit f j (if done then (s.recvPsn f j + 2 ^ 24 - 1) % 2 ^ 24 else s.recvPsn f j) m

/-- The remote-access-error NAK. -/
def State.nak (s : State) (f j : Nat) : State := s.respondHost f j false (.nakAccess (qpNumber f j))

/-- The oldest request of QP `j` of function `f`. -/
def State.headRequest (s : State) (f j : Nat) : Option Inbound := s.host.inbox.find? (fun r => r.func == f && r.qp == j)

def readReq : RdmaReq → Bool
  | .read _ _ _ => true
  | _ => false

/-- Whether QP `j` of function `f` waits for the packet that its last sequence NAK named. -/
def State.gap (s : State) (f j : Nat) (on : Bool) : State :=
  let l := s.host.gapped.filter (· != qpNumber f j)
  { s with host := { s.host with gapped := if on then l ++ [qpNumber f j] else l } }

/-- Request `r` against the expected receive PSN of its QP (R344; as the reliable-connected transport has it, log 67): the one
that is due is served; one before it is a duplicate, a READ answered again and any other acknowledged without effect; one after
it is refused with a sequence NAK, once until the packet that is due comes. -/
def State.inSequence (s : State) (r : Inbound) (act : Inbound → State → State) : State :=
  let due := s.recvPsn r.func r.qp
  if r.psn = due then act r (s.gap r.func r.qp false)
  else if psnLe due r.psn then
    if s.host.gapped.contains (qpNumber r.func r.qp) then s
    else (s.gap r.func r.qp true).respondHost r.func r.qp false (.nakSequence (qpNumber r.func r.qp))
  else if readReq r.req then act r s
  else s.respondHost r.func r.qp true (.ack (qpNumber r.func r.qp))

/-- Take the oldest request of a QP, if it is one that `p` names, and serve it in the order of its PSN: dropped where the QP no
longer accepts it, answered with a NAK while the function is being reset (R355; spec 19, R438). -/
def State.serveRequest (s : State) (f j : Nat) (p : RdmaReq → Bool) (act : Inbound → State → State) : State :=
  match s.headRequest f j with
  | none => s
  | some r =>
    if !p r.req then s
    else
      let s := { s with host := { s.host with inbox := s.host.inbox.erase r } }
      if s.host.frst.contains f then s.nak f j
      else if !s.qpAccepts f j then s
      else s.inSequence r act

/-- Acknowledge a WRITE of `n` bytes. -/
def State.ackWrite (s : State) (f j n : Nat) : State := (s.advanceRecv f j n).respondHost f j true (.ack (qpNumber f j))

/-! ### Memory through an rkey (R340) -/

/-- The address space an rkey names, if it may be used. The TLB of die 0 translates for it: the spec names no die for what no
core asks (log 72). -/
def State.rkeySpace (s : State) (f rkey : Nat) : Option Ctx :=
  let p := bits rkey 19 0
  let e := s.pasidEntry f p
  if bits rkey 31 20 = 0 && e.testBit 0 && e.testBit 1 then
    some { die := 0, func := f, pasid := p, domain := bits e 63 52 }
  else none

/-- The places of `n` bytes from virtual address `va`, page by page; none where a translation fails or a page cannot be
reached. -/
def State.rdmaPlaces (s : State) (c : Ctx) (k : Need) (va n : Nat) : Nat → Option (List (Loc × Nat)) × State
  | 0 => (some [], s)
  | m + 1 =>
    match s.translate c va k with
    | (.error _, s) => (none, s)
    | (.ok t, s) =>
      let len := min n (4096 - va % 4096)
      match s.reach c.func t.pa len k with
      | none => (none, s)
      | some l => match s.rdmaPlaces c k (va + len) (n - len) m with
        | (some r, s) => (some ((l, len) :: r), s)
        | (none, s) => (none, s)

/-- The places of a request's bytes. -/
def State.rdmaRange (s : State) (f rkey : Nat) (k : Need) (va n : Nat) : Option (List (Loc × Nat)) × State :=
  match s.rkeySpace f rkey with
  | none => (none, s)
  | some c =>
    if 2 ^ 57 < va + n then (none, s)
    else if n = 0 then (some [], s)
    else s.rdmaPlaces c k va n (pagesOf va n)

/-- The data of a request, cut at its places. -/
def cutData : List (Loc × Nat) → List Byte → List (Loc × List Byte)
  | [], _ => []
  | (l, n) :: r, d => (l, d.take n) :: cutData r (d.drop n)

/-- A WRITE is performed as one request, or refused with nothing written. -/
def State.hostWrites (s : State) (f j rkey va : Nat) (d : List Byte) : State :=
  match s.rdmaRange f rkey .write va d.length with
  | (none, s) => s.nak f j
  | (some ps, s) => (s.writeLocs (.of f) (cutData ps d)).ackWrite f j d.length

/-- A READ whose first packet has PSN `psn` is answered with its data; with the operational-error NAK where it would deliver
poison (spec 19, R431). The one that is due advances the expected PSN. -/
def State.hostReads (s : State) (f j psn rkey va n : Nat) : State :=
  match s.rdmaRange f rkey .read va n with
  | (none, s) => s.emit f j psn (.nakAccess (qpNumber f j))
  | (some ps, s) =>
    let s := ps.foldl (fun (s : State) p => s.gather p.1 p.2) s
    match s.anyPoison ps with
    | some p =>
      (s.hostReport { cause := p.1, inj := p.2.1, func := f, pasid := bits rkey 19 0,
                      domain := bits (s.pasidEntry f (bits rkey 19 0)) 63 52, addr := p.2.2, aphys := true })
        |>.emit f j psn (.nakOperational (qpNumber f j))
    | none =>
      let r := ps.foldl (fun (a : List Byte × State) p =>
        let b := a.2.fetchLoc (.of f) p.1 p.2
        (a.1 ++ b.1, b.2)) (([] : List Byte), if ps.any (fun p => p.1.remote) then { s with freeCtr := s.freeCtr + 1 } else s)
      (if psn = r.2.recvPsn f j then r.2.advanceRecv f j n else r.2).emit f j
        ((psn + max 1 (ceilDiv n (s.qpMtu f j)) - 1) % 2 ^ 24) (.readResp (qpNumber f j) r.1)

/-- A WRITE that names memory, or an rkey that names nothing. -/
def isMemWrite : RdmaReq → Bool
  | .write k _ _ => k < 2 ^ 31 || 0x80000100 < k
  | _ => false

def execRdmaWrite (func j : Nat) (s : State) : Host.Outcome State Fault Refusal :=
  .next (s.serveRequest func j isMemWrite (fun r s => match r.req with
    | .write k va d => s.hostWrites func j k va d
    | _ => s))

/-- A READ; a device page accepts none. -/
def execRdmaRead (func j : Nat) (s : State) : Host.Outcome State Fault Refusal :=
  .next (s.serveRequest func j readReq (fun r s => match r.req with
    | .read k va n => s.hostReads func j r.psn k va n
    | _ => s))

/-! ### Notify pages (R346; spec 20, R468) -/

/-- The interface word. -/
def State.iface (s : State) (f k : Nat) : Nat := s.peekNat (s.ftBase f 4 + 0x10000 + 8 * k) 8

def ifaceFirst (w : Nat) : Nat := bits w 10 0
def ifaceLast (w : Nat) : Nat := bits w 19 11
def ifaceOn (w : Nat) : Bool := w.testBit 31 && ifaceFirst w + ifaceLast w ≤ 2047

/-- Whether a notify word is accepted for queue `q`. -/
def State.tailOk (s : State) (f q w : Nat) : Bool :=
  let t := w % 2 ^ 32
  s.queueOn f q && w < 2 ^ 32 && (t + 2 ^ 32 - s.queueHead f q) % 2 ^ 32 ≤ 2 ^ s.queueLog f q
    && (t + 2 ^ 32 - s.queueTail f q) % 2 ^ 32 ≤ 2 ^ s.queueLog f q

/-- One notify word for queue `q`: the new tail, and a stalled ring is tried again; or a refusal, counted. -/
def State.notifyWord (s : State) (f q w : Nat) : State :=
  if s.tailOk f q w then
    let s := s.poke (s.queueAddr f q + 20) (toBytes 4 w)
    { s with host := { s.host with stalled := s.host.stalled.filter (· != f * 2048 + q) } }
  else s.queueRefused f q

/-- A notify write. -/
def State.notify (s : State) (f j k va : Nat) (d : List Byte) : State :=
  let w := s.iface f k
  if va % 8 ≠ 0 ∨ d.length % 8 ≠ 0 ∨ 4096 < va + d.length ∨ !ifaceOn w then s.nak f j
  else
    let s := (List.range (d.length / 8)).foldl (fun (s : State) i =>
      if va / 8 + i ≤ ifaceLast w then
        s.notifyWord f (ifaceFirst w + va / 8 + i) (ofBytes ((d.drop (8 * i)).take 8))
      else s) s
    s.ackWrite f j d.length

def execRdmaNotifyWrite (func j : Nat) (s : State) : Host.Outcome State Fault Refusal :=
  .next (s.serveRequest func j
    (fun r => match r with | .write k _ _ => 0x80000000 ≤ k && k < 0x80000100 | _ => false)
    (fun r s => match r.req with
      | .write k va d => s.notify func j (k - 0x80000000) va d
      | _ => s))

/-! ### The fault-response page (spec 20, R461) -/

def execRdmaFaultResponseWrite (func j : Nat) (s : State) : Host.Outcome State Fault Refusal :=
  .next (s.serveRequest func j (fun r => match r with | .write k _ _ => k == 0x80000100 | _ => false)
    (fun r s => match r.req with
      | .write _ va d =>
        if va ≠ 0 ∨ d.length ≠ 8 then s.nak func j
        else
          let s := { s with mmu := { s.mmu with resps := s.mmu.resps ++ [(func, BitVec.ofNat 64 (ofBytes d))] } }
          s.ackWrite func j 8
      | _ => s))

/-! ### Other requests, retries, links (R338; spec 20, R467) -/

def execRdmaUnsupported (func j : Nat) (s : State) : Host.Outcome State Fault Refusal :=
  .next (s.serveRequest func j (fun r => match r with | .other _ => true | _ => false)
    (fun _ s => s.respondHost func j false (.nakUnsupported (qpNumber func j))))

/-- Core cycles of the acknowledgement timeout of QP `j` of function `f`: 4.096 µs × 2^TMO, as RoCEv2 has it; none for TMO 0 (log
58). -/
def State.qpTimeout (s : State) (f j : Nat) : Option Nat :=
  let t := bits (s.peekNat (s.qpAddr f j + 40) 8) 31 24
  if t = 0 then none else some (7168 * 2 ^ t)

/-- Whether the oldest unacknowledged request of a QP has waited its timeout. -/
def State.qpLate (s : State) (f j : Nat) : Bool :=
  match s.qpTimeout f j, (s.unackedOf f j).head? with
  | some n, some e => decide (e.at' + n ≤ s.tick)
  | _, _ => false

/-- The retry count of a QP. -/
def State.qpRetry (s : State) (f j : Nat) : Nat := bits (s.peekNat (s.qpAddr f j + 40) 8) 18 16

/-- A timeout without acknowledgement: the device sends again every request from the first that is not acknowledged, one
retry more, while retries are left. -/
def State.goBack (s : State) (f j : Nat) : State :=
  if s.qpState f j = 3 ∧ s.qpLate f j ∧ Map.get s.host.retries 0 (qpNumber f j) < s.qpRetry f j then s.resend f j else s

def execQpRetransmitTimeout (func j : Nat) (s : State) : Host.Outcome State Fault Refusal := .next (s.goBack func j)

/-- A QP whose retries have run out without an acknowledgement moves to STATE 4 (0x16C); its requests have left no more. -/
def State.retryExceeded (s : State) (f j : Nat) : State :=
  if s.qpState f j = 3 ∧ s.qpRetry f j ≤ Map.get s.host.retries 0 (qpNumber f j) ∧ s.qpLate f j then
    let s := { s with host := { s.host with
      retries := Map.del s.host.retries (qpNumber f j)
      sent := s.host.sent.filterMap (fun (e : Sent) => if e.func == f && e.qp == j then
          e.key.map (fun _ => { e with out := false }) else some e) } }
    (s.setQpState f j 4).hostReport { cause := 0x16C, func := f }
  else s

def execQpRetryExceeded (func j : Nat) (s : State) : Host.Outcome State Fault Refusal :=
  .next (s.retryExceeded func j)

/-- A host port's link goes down (0x16F). -/
def execHostPortLinkDown (port : Nat) (s : State) : Host.Outcome State Fault Refusal :=
  .next (if port < 4 && s.host.portsUp.getLsbD port then
      ({ s with host := { s.host with portsUp := s.host.portsUp &&& ~~~(1#4 <<< port) } }).hostReport { cause := 0x16F }
    else s)

end Sys2Proof.Machine
end

