-- ==== Sys2Proof/Machine/Queue.lean ====
section
/-!
DEFINITION. Geometry queues (spec 10, R296, R297) and primitives bound by microcode (spec 10, R298; spec 18, R424).
-/

namespace Sys2Proof.Machine

/-! ### Geometry queues -/

/-- CAP of a queue, checked as at issue until this issue has performed a step (R424; log 32). -/
def gqCap (c : MacCtx) (h : Nat) : Mac Nat := do
  let cap := bits h 31 0
  if 2 ≤ cap ∧ cap ≤ 2 ^ 20 ∧ 2 ^ Nat.log2 cap = cap then return cap
  else throw (.cause 0x110 0 (!c.ran))

/-- The TAG of reservation `r`. -/
def gqTag (r : Nat) : Nat := r % 2 ^ 31 + 2 ^ 31

/-- First byte of the entry of reservation `r`. -/
def gqEntry (cap r : Nat) : Nat := 64 + 32 * (r % cap)

/-- IDATA with RSVD and EMPTY. -/
def gqIdata (c : MacCtx) (rsvd empty : Bool) : Nat := c.idata / 4 * 4 + b2n rsvd + b2n empty * 2

/-- Write words to consecutive elements of four bytes from byte `e` of the queue. -/
def gqWords (c : MacCtx) (e : Nat) : List Nat → Mac (List MWrite)
  | [] => return []
  | v :: r => do
    let a ← macWrite c (c.record 0) false .write e 4 v
    let b ← gqWords c (e + 4) r
    return a ++ b

/-- The release and acquire sides of a queue's TAG, at the places of the writes `ws` of four bytes (R297; spec 04, R112). -/
def gqRelease (c : MacCtx) (ws : List MWrite) : Mac Unit :=
  modify (fun s => ws.foldl (fun (s : State) w => s.recordRelease c.gid w.1) s)

def gqAcquire (ws : List MWrite) : Mac Unit :=
  modify (fun s => s.pullBy (fun l => ws.any (fun w => w.1.overlaps 4 l 8)))

/-- One step of a `GQPUSH`: close, reserve, or write the entry, whose TAG is a release side over every earlier access of
the thread. -/
def gqPushStep (close : Bool) (c : MacCtx) : Mac MOut := do
  let q := c.record 0
  let h ← macRead c q false 0 16
  let cap ← gqCap c h
  let flags := bits h 63 32
  let resv := bits h 95 64
  let head := bits h 127 96
  if close then
    let ws ← macWrite c q false .atomic 4 4 (flags ||| 1)
    return { ws := ws, regs := c.head (gqIdata c false (c.idata.testBit 1)) 3 0, ends := [c.lane] }
  else if !c.idata.testBit 0 then
    if flags.testBit 0 then macCause 0x112
    else if cap ≤ (resv + 2 ^ 32 - head) % 2 ^ 32 then macWait
    else
      let ws ← macWrite c q false .atomic 8 4 ((resv + 1) % 2 ^ 32)
      return { ws := ws, regs := c.head (gqIdata c true (c.idata.testBit 1)) 1 0 ++ c.put 7 [BitVec.ofNat 32 resv] }
  else
    let e := gqEntry cap (c.nat 7)
    let tag ← macRead c q false e 4
    let s ← get
    if tag ≠ 0 || !(s.flightsOn c.tid allPaths allStreams).isEmpty then macWait
    else
      let ws ← gqWords c (e + 4) [c.nat 1, c.nat 2, c.nat 3, c.nat 4, c.nat 5, c.nat 6]
      let wt ← gqWords c e [gqTag (c.nat 7)]
      gqRelease c wt
      return { ws := ws ++ wt, regs := c.head (gqIdata c false (c.idata.testBit 1)) 3 0, ends := [c.lane] }

/-- One step of a `GQPOP`: find the queue closed and empty, reserve, or take the entry. A TAG with bit 31 set that names
another reservation takes 0x113, also that of an earlier lap of the entry (spec 18, R424). -/
def gqPopStep (c : MacCtx) : Mac MOut := do
  let q := c.record 0
  let h ← macRead c q false 0 16
  let cap ← gqCap c h
  let resv := bits h 95 64
  let head := bits h 127 96
  if !c.idata.testBit 0 then
    if head = resv then
      if h.testBit 32 then return { regs := c.head (gqIdata c false true) 3 0, ends := [c.lane] }
      else macWait
    else
      let ws ← macWrite c q false .atomic 12 4 ((head + 1) % 2 ^ 32)
      return { ws := ws, regs := c.head (gqIdata c true (c.idata.testBit 1)) 1 0 ++ c.put 7 [BitVec.ofNat 32 head] }
  else
    let e := gqEntry cap (c.nat 7)
    let want := gqTag (c.nat 7)
    let v ← macRead c q false e 32
    let tag := bits v 31 0
    if tag = want then
      let ws ← macWrite c q false .write e 4 0
      gqAcquire ws
      return { ws := ws, ends := [c.lane],
               regs := c.head (gqIdata c false false) 3 0
                 ++ c.put 1 ((List.range 6).map (fun i => BitVec.ofNat 32 (v / 2 ^ (32 * (i + 1))))) }
    else if tag.testBit 31 then macCause 0x113
    else macWait

/-- The causes of a queue record found at issue. -/
def gqCheck (ra : Fin 16) (_ : State) (x : Iss) (_ : Thread) : List Nat :=
  codesWhere [(0x111, recEsizeCode (x.g.buf ra.val) ≠ 0)]

def execGqpush (a : BlkRecArgs) (s : State) : Host.Outcome State Fault Refusal :=
  macIssue (.gqpush a) { sb := a.sb, recs := [a.ra], opx := .z, str := a.str.val } (gqCheck a.ra) s

def execGqpushClose (a : BlkRecArgs) (s : State) : Host.Outcome State Fault Refusal :=
  macIssue (.gqpushClose a) { sb := a.sb, recs := [a.ra], opx := .z, str := a.str.val } (gqCheck a.ra) s

def execGqpop (a : BlkRecArgs) (s : State) : Host.Outcome State Fault Refusal :=
  macIssue (.gqpop a) { sb := a.sb, recs := [a.ra], opx := .z, str := a.str.val } (gqCheck a.ra) s

/-! ### Bound primitives -/

/-- Whether record `i` of a primitive holds scratchpad addresses, from its descriptor (log 11). -/
def Prim.scratch (p : Prim) (i : Nat) : Bool := p.desc.getLsbD (18 + i)

/-- Whether a primitive uses field `k` of RECA, RECB, RECC, OPX and GMOD, from its descriptor (log 11). -/
def Prim.uses (p : Prim) (k : Nat) : Bool := p.desc.getLsbD (21 + k)

/-- The fields RECA, RECB, RECC, OPX and GMOD of a word that enters a primitive. -/
def primFields : Instr → List Nat
  | .macroPrim a => [a.ra.val, a.rb.val, a.rc.val, a.x.code, a.gmod.val]
  | .bop a => [a.ra.val, a.rb.val, a.rc.val, a.x.code, a.gmod.val]
  | _ => []

/-- Whether a word has a value in a field that its primitive does not use, which must be zero (R298). -/
def Prim.misused (p : Prim) (i : Instr) : Bool := (primFields i).zipIdx.any (fun e => !p.uses e.2 && e.1 != 0)

/-- What a primitive sees of its operands: the fields, the value of OPX, the stream and the lane's thread. -/
def MacCtx.fields (c : MacCtx) : List Nat := primFields c.i ++ [c.opx.toNat, c.op.str, c.tid]

/-- One step of a bound primitive, whose microcode the spec does not give (log 11): `Config.primStep` says first what the
step reads, then what it writes, the new block, and how it ends: it goes on, completes, calls back with a reason in 0x80
to 0xFF, or meets one of the causes 0x114 to 0x117. A field outside the descriptor's use takes 0x115. -/
def primStepOf (c : MacCtx) : Mac MOut := do
  let s ← get
  match s.primOf c.g c.i with
  | none => macCauseAtIssue (match c.i with | .bop _ => 0x001 | _ => 0x023)
  | some p =>
    if p.misused c.i then macCause 0x115 else
    let image := ((s.launchOf c.g).bind (·.binding)).getD 0
    let block := (List.range p.block).map c.reg
    let ask := Config.primStep image p.entry block [] (0 :: c.fields)
    let word (l : List W32) (i : Nat) : Nat := (l.getD i 0).toNat
    let i := word ask.2 0 % 3
    let got ← (if ask.1 % 2 = 1 then macRead c (c.record i) (p.scratch i) (word ask.2 1) (2 ^ (word ask.2 2 % 8)) else pure 0)
    let r := Config.primStep image p.entry block ((List.range 32).map (fun k => BitVec.ofNat 32 (got / 2 ^ (32 * k))))
      (1 :: c.fields)
    let sel := r.1 % 8
    if 4 ≤ sel then macCause (0x114 + sel % 4)
    else
      let tail := r.2.drop p.block
      let j := word tail 1 % 3
      let ws ← (if word tail 0 % 2 = 1 then
          macWrite c (c.record j) (p.scratch j) .write (word tail 2) (2 ^ (word tail 3 % 8))
            (ofBytes ((tail.drop 5).flatMap (fun v => toBytes 4 v.toNat)))
        else pure [])
      let regs := c.put 1 ((List.range (p.block - 1)).map (fun k => r.2.getD (k + 1) 0))
      let idata := word r.2 0 / 2 ^ 16
      return { ws := ws
               regs := regs ++ (match sel with
                 | 1 => c.head idata 3 0
                 | 2 => c.head idata 2 (128 + word tail 4 % 128)
                 | _ => c.head idata 1 0)
               ends := if sel = 1 ∨ sel = 2 then [c.lane] else [] }

/-- A primitive's operands are checked as it meets them (R424). -/
def primCheck (_ : State) (_ : Iss) (_ : Thread) : List Nat := []

def execMacroPrim (a : MacroArgs) (s : State) : Host.Outcome State Fault Refusal :=
  macIssue (.macroPrim a) { sb := a.sb, recs := [a.ra, a.rb, a.rc], opx := a.x, str := a.str.val } primCheck s

def execBop (a : BopArgs) (s : State) : Host.Outcome State Fault Refusal :=
  macIssue (.bop a) { sb := a.sb, recs := [a.ra, a.rb, a.rc], opx := a.x, str := a.str.val } primCheck s

end Sys2Proof.Machine
end

