-- ==== Sys2Proof/Machine/Rays.lean ====
section
/-!
DEFINITION. `TRAVERSE` and `ANYHIT` (spec 10, R288 to R293; spec 18, R424; spec 21, R475), with exact box and triangle tests.
-/

namespace Sys2Proof.Machine

/-! ### Exact values on a ray -/

/-- A finite FP32 value in units of 2^-149; none for an infinity or NaN. -/
def f32Units (v : W32) : Option Int :=
  match ofF32 v with
  | .fin s m e => some (if s then -((m * 2 ^ (e + 149).toNat : Nat) : Int) else (m * 2 ^ (e + 149).toNat : Nat))
  | _ => none

/-- A point of the extended real line: −∞, num / den with den positive, or +∞. -/
inductive ER where
  | ninf
  | fin (num : Int) (den : Nat)
  | pinf
deriving DecidableEq, Repr

/-- Whether `a` ≤ `b`. -/
def erLe : ER → ER → Bool
  | .ninf, _ => true
  | _, .pinf => true
  | .fin a b, .fin c d => a * d ≤ c * b
  | _, _ => false

def erMax (a b : ER) : ER := if erLe a b then b else a
def erMin (a b : ER) : ER := if erLe a b then a else b

/-- num / den for any den that is not zero. -/
def erDiv (n d : Int) : ER := if d < 0 then .fin (-n) d.natAbs else .fin n d.natAbs

/-- The value of an FP32 pattern; none for NaN. -/
def erOf (v : W32) : Option ER :=
  match ofF32 v with
  | .nan => none
  | .inf s => some (if s then .ninf else .pinf)
  | .fin s m e =>
    let n : Int := if s then -(m : Int) else m
    some (if 0 ≤ e then .fin (n * 2 ^ e.toNat) 1 else .fin n (2 ^ (-e).toNat))

/-- The FP32 pattern nearest a value (RNE). -/
def erToF32 : ER → W32
  | .ninf => 0xFF800000
  | .pinf => 0x7F800000
  | .fin n d => toF32 (FR.div (.fin (decide (n < 0)) n.natAbs 0) (.fin false d 0))

/-- A ray: origin and direction in units of 2^-149, none where a component is not finite; TMIN and TMAX, none for NaN. -/
structure Ray where
  o : Option (List Int)
  d : Option (List Int)
  t0 : Option ER
  t1 : Option ER
deriving DecidableEq, Repr

/-- All values, if every one is present. -/
def allSome {α : Type} : List (Option α) → Option (List α)
  | [] => some []
  | none :: _ => none
  | some a :: r => (allSome r).map (fun l => a :: l)

/-- Component `i` of a vector. -/
def comp (l : List Int) (i : Nat) : Int := l.getD i 0

/-- The ray of a block. -/
def rayOf (c : MacCtx) : Ray :=
  { o := allSome ((List.range' 1 3).map (fun i => f32Units (c.reg i)))
    d := allSome ((List.range' 4 3).map (fun i => f32Units (c.reg i)))
    t0 := erOf (c.reg 7), t1 := erOf (c.reg 8) }

/-- The part of [t0, t1] in which one coordinate lies in [lo, hi] (R290). -/
def slab (o d : Int) (lo hi : ER) (t : Option (ER × ER)) : Option (ER × ER) :=
  match t with
  | none => none
  | some (a, b) =>
    if !erLe lo hi then none
    else if d = 0 then (if erLe lo (.fin o 1) && erLe (.fin o 1) hi then some (a, b) else none)
    else
      let hit (x : ER) : ER := match x with
        | .fin n m => erDiv (n - o * m) (d * m)
        | .ninf => if d < 0 then .pinf else .ninf
        | .pinf => if d < 0 then .ninf else .pinf
      let p := erMin (hit lo) (hit hi)
      let q := erMax (hit lo) (hit hi)
      let a := erMax a p
      let b := erMin b q
      if erLe a b then some (a, b) else none

/-- A value in units of 2^-149. -/
def erUnits (x : ER) : ER :=
  match x with
  | .fin n d => .fin (n * 2 ^ 149) d
  | y => y

/-- The exact entry `t` of the segment into a closed box given by six words; none where it misses. What a ray with an
infinite or NaN component meets is not stated: it is a free value (log 37). -/
def boxEntry (r : Ray) (ws : List W32) : Mac (Option ER) := do
  match r.o, r.d with
  | some o, some d =>
    match r.t0, r.t1, allSome (ws.map erOf) with
    | some a, some b, some q =>
      let at' (i : Nat) : ER := erUnits (q.getD i .pinf)
      let t : Option (ER × ER) := if erLe a b then some (a, b) else none
      return (slab (comp o 2) (comp d 2) (at' 2) (at' 5) (slab (comp o 1) (comp d 1) (at' 1) (at' 4)
        (slab (comp o 0) (comp d 0) (at' 0) (at' 3) t))).map Prod.fst
    | _, _, _ => return none
  | _, _ =>
    let i ← macFree
    let f := Config.freeWord i
    return (if f.getLsbD 63 then erOf (f.setWidth 32) else none)

/-- The cross product. -/
def cross (a b : List Int) : List Int :=
  [comp a 1 * comp b 2 - comp a 2 * comp b 1, comp a 2 * comp b 0 - comp a 0 * comp b 2,
   comp a 0 * comp b 1 - comp a 1 * comp b 0]

/-- The dot product. -/
def dotV (a b : List Int) : Int := comp a 0 * comp b 0 + comp a 1 * comp b 1 + comp a 2 * comp b 2

/-- The difference. -/
def subV (a b : List Int) : List Int := (List.range 3).map (fun i => comp a i - comp b i)

/-- Where a ray meets a closed triangle: exact `t`, `u`, `v`; none for a zero area, for a ray in or parallel to its plane,
and where it misses (R291). With P = O + tD, t = N·(V0 − O) / N·D, u = ((P − V0) × E2)·N / N·N and v likewise, each over
the common denominator N·D. -/
def triMeets (o d v0 v1 v2 : List Int) : Option (ER × ER × ER) :=
  let e1 := subV v1 v0
  let e2 := subV v2 v0
  let n := cross e1 e2
  let nn := dotV n n
  let den := dotV n d
  if nn = 0 ∨ den = 0 then none
  else
    let num := dotV n (subV v0 o)
    let w := (List.range 3).map (fun i => den * (comp o i - comp v0 i) + num * comp d i)
    let u := erDiv (dotV (cross w e2) n) (nn * den)
    let v := erDiv (dotV (cross e1 w) n) (nn * den)
    let sum := erDiv (dotV (cross w e2) n + dotV (cross e1 w) n) (nn * den)
    if erLe (.fin 0 1) u && erLe (.fin 0 1) v && erLe sum (.fin 1 1) then some (erDiv num den, u, v) else none

/-- The hit of a triangle of nine words, as FP32 patterns of t, u and v, kept only if TMIN ≤ t < TMAX (R291); free where
a coordinate is not finite (log 37). -/
def triHit (r : Ray) (ws : List W32) : Mac (Option (W32 × W32 × W32)) := do
  let keep (h : W32 × W32 × W32) : Bool := match erOf h.1, r.t0, r.t1 with
    | some t, some a, some b => erLe a t && erLe t b && !erLe b t
    | _, _, _ => false
  match r.o, r.d, allSome (ws.map f32Units) with
  | some o, some d, some q =>
    match r.t0, r.t1, triMeets o d (q.take 3) ((q.drop 3).take 3) (q.drop 6) with
    | some a, some b, some (t, u, v) =>
      let h := (erToF32 t, erToF32 u, erToF32 v)
      return (if erLe a t && erLe t b && keep h then some h else none)
    | _, _, _ => return none
  | _, _, _ =>
    let i ← macFree
    let j ← macFree
    let f := Config.freeWord i
    let g := Config.freeWord j
    let num (v : W32) : W32 := if f32Nan v then 0x7FC00000 else v
    let h : W32 × W32 × W32 := (f.setWidth 32, num (g.setWidth 32), num ((g >>> 32).setWidth 32))
    return (if f.getLsbD 63 && keep h then some h else none)

/-! ### The block (R289) -/

/-- CCNT and SP of the header. -/
def MacCtx.ccnt (c : MacCtx) : Nat := bits (c.nat 0) 24 20
def MacCtx.sp (c : MacCtx) : Nat := bits (c.nat 0) 19 16

/-- The header of a traversal. -/
def travHead (c : MacCtx) (ccnt sp status reason : Nat) : List (Nat × Nat × W32) :=
  c.head (c.idata / 2 ^ 9 * 2 ^ 9 + ccnt * 2 ^ 4 + sp) status reason

/-- Bits of register +29. -/
def travItem (v : Nat) : Nat := bits v 12 11
def travFirst (v : Nat) : Bool := v.testBit 10
def travOpq (v : Nat) : Bool := v.testBit 9
def travTerm (v : Nat) : Bool := v.testBit 8
def travOvf (v : Nat) : Bool := v.testBit 7

/-- Register +29 with ITEM and OVF replaced. -/
def travFlags (v item : Nat) (ovf : Bool) : Nat :=
  v / 2 ^ 13 * 2 ^ 13 + item * 2 ^ 11 + bits v 10 8 * 2 ^ 8 + b2n ovf * 2 ^ 7 + bits v 6 0

/-- Push a node: onto 12 entries it drops the lowest and sets OVF. -/
def travPush (p : List W32 × Bool) (node : W32) : List W32 × Bool :=
  if 12 ≤ p.1.length then (p.1.drop 1 ++ [node], true) else (p.1 ++ [node], p.2)

/-- The stack registers, entries above the stack unchanged. -/
def travStack (c : MacCtx) (l : List W32) : List (Nat × Nat × W32) := c.put 12 l

/-- Kind, count and opacity of a node. -/
def nodeKind (w0 : Nat) : Nat := bits w0 1 0
def nodeCount (w0 : Nat) : Nat := bits w0 7 4

/-- The causes of a node (R288, R424). -/
def nodeCodes (ws : List W32) : List Nat :=
  let w0 := (ws.getD 0 0).toNat
  let k := nodeKind w0
  let n := nodeCount w0
  let any (a m : Nat) : Bool := ((ws.drop a).take m).any (· != 0)
  codesWhere [
    (0x108, k = 3),
    (0x109, match k with
      | 0 => 4 < n
      | 1 => n = 0 || 3 < n
      | 2 => n = 0 || 4 < n
      | _ => false),
    (0x10A, bits w0 3 2 ≠ 0 || bits w0 31 9 ≠ 0
      || (match k with
          | 0 => any 1 3
          | 1 => any 31 1
          | 2 => any 29 3
          | _ => false))]

/-! ### `TRAVERSE` (R290, R291, R475) -/

/-- The first issue's step. -/
def travSetup (c : MacCtx) : MOut :=
  { regs := travHead c 0 1 1 0
      ++ c.put 9 ((List.range' 4 3).map (fun i => toF32 (FR.div (.fin false 1 0) (ofF32 (c.reg i)))))
      ++ c.put 12 [c.reg 28] ++ c.put 24 [0x7F800000, 0xFFFFFFFF, 0, 0]
      ++ c.put 29 [BitVec.ofNat 32 (c.nat 29 / 2 ^ 13 * 2 ^ 13 + bits (c.nat 29) 10 9 * 2 ^ 9)]
      ++ c.put 31 [0] }

/-- Entry `t` of each child box hit: child and entry. -/
def childHits (r : Ray) (ws : List W32) : List Nat → Mac (List (Nat × ER))
  | [] => return []
  | k :: rest => do
    let e ← boxEntry r ((ws.drop (4 + 6 * k)).take 6)
    let l ← childHits r ws rest
    return (match e with | some t => (k, t) :: l | none => l)

/-- The order in which children are pushed: farther first; on a tie the higher slot first. -/
def pushFirst (a b : Nat × ER) : Bool := if erLe a.2 b.2 && erLe b.2 a.2 then b.1 ≤ a.1 else erLe b.2 a.2

/-- A candidate: primitive, T, U, V, kind. -/
abbrev Cand := W32 × W32 × W32 × W32 × Nat

/-- What item `i` of a leaf gives: a candidate, or an opaque hit (true). -/
def leafItem (r : Ray) (ws : List W32) (opq : Bool) (i : Nat) : Mac (Option (Bool × Cand)) := do
  let w0 := (ws.getD 0 0).toNat
  if nodeKind w0 = 1 then
    let it := (ws.drop (1 + 10 * i)).take 10
    match ← triHit r (it.take 9) with
    | some (t, u, v) => return some (w0.testBit 8 || opq, it.getD 9 0, t, u, v, 0)
    | none => return none
  else
    let it := (ws.drop (1 + 7 * i)).take 7
    match ← boxEntry r (it.take 6) with
    | some t => return some (false, it.getD 6 0, erToF32 t, 0, 0, 1)
    | none => return none

/-- The 32 bytes of a candidate entry. -/
def candBytes (k : Cand) (node : W32) : Nat :=
  k.1.toNat + k.2.1.toNat * 2 ^ 32 + k.2.2.1.toNat * 2 ^ 64 + k.2.2.2.1.toNat * 2 ^ 96 + k.2.2.2.2 * 2 ^ 128
    + node.toNat * 2 ^ 160

/-- Whether the traversal has a hit: HT is no longer the +∞ of the first issue, since a hit is kept only below TMAX. -/
def travHit (c : MacCtx) : Bool := c.reg 24 != 0x7F800000

/-- One step of a traversal. -/
def traverseStep (a : TraverseArgs) (c : MacCtx) : Mac MOut := do
  if c.status = 0 then return travSetup c
  else
    let reject := !c.ran && 0 < c.ccnt
    let ccnt := if reject then 0 else c.ccnt
    let clear := if reject then c.put 31 [0] else []
    let fl := c.nat 29
    let stk := (List.range c.sp).map (fun i => c.reg (12 + i))
    if travTerm fl || (travFirst fl && travHit c) || (stk.isEmpty && !travOvf fl) then
      return { regs := clear ++ travHead c ccnt 0 (if 0 < ccnt then 2 else 3) (if 0 < ccnt then 2 else 0),
               ends := [c.lane] }
    else
      match stk.getLast? with
      | none =>
        return { regs := clear ++ travHead c ccnt 1 1 0 ++ c.put 12 [c.reg 28]
                   ++ c.put 29 [BitVec.ofNat 32 (travFlags fl (travItem fl) false)] }
      | some node =>
        let raw ← macRead c (c.record 0) false node.toNat 128
        let ws := (List.range 32).map (fun i => BitVec.ofNat 32 (raw / 2 ^ (32 * i)))
        match minCode (nodeCodes ws) with
        | some code => macCause code
        | none =>
          let w0 := (ws.getD 0 0).toNat
          let r := rayOf c
          if nodeKind w0 = 0 then
            let hits ← childHits r ws (List.range (nodeCount w0))
            let p := (sortBy pushFirst hits).foldl (fun p e => travPush p (ws.getD (28 + e.1) 0)) (stk.dropLast, travOvf fl)
            return { regs := clear ++ travHead c ccnt p.1.length 1 0 ++ travStack c p.1
                       ++ c.put 29 [BitVec.ofNat 32 (travFlags fl (travItem fl) p.2)] }
          else
            let i := travItem fl
            let got ← (if i < nodeCount w0 then leafItem r ws (travOpq fl) i else pure none)
            let done := nodeCount w0 ≤ i + 1
            let sp := if done then c.sp - 1 else c.sp
            let flags := c.put 29 [BitVec.ofNat 32 (travFlags fl (if done then 0 else i + 1) (travOvf fl))]
            match got with
            | some (true, k) =>
              return { regs := clear ++ travHead c ccnt sp 1 0 ++ flags ++ c.put 8 [k.2.1]
                         ++ c.put 24 [k.2.1, k.1, k.2.2.1, k.2.2.2.1] }
            | some (false, k) =>
              let wr ← macWrite c (c.record 1) true .write (c.nat 30 + ccnt) 32 (candBytes k node)
              let full := (if a.gather then 16 else 1) ≤ ccnt + 1
              return { ws := wr, ends := if full then [c.lane] else []
                       regs := clear ++ travHead c (ccnt + 1) sp (if full then 2 else 1) (if full then 1 else 0) ++ flags }
            | none => return { regs := clear ++ travHead c ccnt sp 1 0 ++ flags }

/-- The causes of a block and its candidate record found at issue (R424). -/
def travCodes (x : Iss) (rb : Fin 16) (h : W32) : List (Nat × Bool) :=
  [(0x10D, recEsizeCode (x.g.buf rb.val) ≠ 5),
   (0x10F, hdrStatus h ≠ 0 && (12 < bits h.toNat 19 16 || 16 < bits h.toNat 24 20))]

/-- The header of a lane's block. -/
def blockHdr (sb : Opnd) (t : Thread) : W32 := t.reg (MacOp.base { sb := sb, recs := [], opx := .z, str := 0 })

def execTraverse (a : TraverseArgs) (s : State) : Host.Outcome State Fault Refusal :=
  macIssue (.traverse a) { sb := a.sb, recs := [a.ra, a.rb], opx := .z, str := a.str.val }
    (fun _ x t => codesWhere ((0x10E, recEsizeCode (x.g.buf a.ra.val) ≠ 7) :: travCodes x a.rb (blockHdr a.sb t))) s

/-! ### `ANYHIT` (R292, R293) -/

/-- Entries handed out and entries accepted, of register +31. -/
def MacCtx.hout (c : MacCtx) : Nat := bits (c.nat 31) 15 0
def MacCtx.acc (c : MacCtx) : Nat := bits (c.nat 31) 31 16

/-- `anyhit.next`: the entry is any below CCNT not yet handed out (R293; log 2). -/
def anyhitNextStep (x : Opnd) (c : MacCtx) : Mac MOut := do
  let open' := (List.range c.ccnt).filter (fun i => !c.hout.testBit i)
  let fl := c.nat 29
  if open'.isEmpty then return { regs := c.put 29 [BitVec.ofNat 32 (fl ||| 2 ^ 6)], ends := [c.lane] }
  else
    let k ← macFree
    let i := open'.getD (Config.freeChoice k % open'.length) 0
    let v ← macRead c (c.record 0) true (c.nat 30 + i) 32
    let word (j : Nat) : W32 := BitVec.ofNat 32 (v / 2 ^ (32 * j))
    let q := match x with | .g r => [0, 1, 2, 3].map (fun j => (c.lane, r.val + j, word j)) | _ => []
    return { regs := q ++ c.put 29 [BitVec.ofNat 32 (fl / 2 ^ 7 * 2 ^ 7 + bits (word 4).toNat 1 0 * 2 ^ 4 + i)]
               ++ c.put 31 [BitVec.ofNat 32 (c.nat 31 ||| 2 ^ i)],
             ends := [c.lane] }

/-- `anyhit.acc` and, with `term`, `anyhit.term`. -/
def anyhitAccStep (term : Bool) (c : MacCtx) : Mac MOut := do
  let fl := c.nat 29
  let i := bits fl 3 0
  let v ← macRead c (c.record 0) true (c.nat 30 + i) 32
  let ws ← macWrite c (c.record 0) true .write (c.nat 30 + i) 32
    (v / 2 ^ 64 * 2 ^ 64 + c.opx.toNat * 2 ^ 32 + v % 2 ^ 32)
  return { ws := ws, ends := [c.lane]
           regs := c.put 31 [BitVec.ofNat 32 (c.nat 31 ||| 2 ^ (16 + i))]
             ++ (if term then c.put 29 [BitVec.ofNat 32 (fl ||| 2 ^ 8)] else []) }

/-- The accepted entries of a list, as 32-byte numbers. -/
def acceptedOf (c : MacCtx) : List Nat → Mac (List Nat)
  | [] => return []
  | i :: r => do
    if c.acc.testBit i then
      let v ← macRead c (c.record 0) true (c.nat 30 + i) 32
      let l ← acceptedOf c r
      return v :: l
    else acceptedOf c r

/-- The accepted entry with the least T in [TMIN, TMAX), the lowest on a tie. -/
def leastHit (t0 t1 : Option ER) (l : List Nat) : Option Nat :=
  let tOf (v : Nat) : Option ER := erOf (BitVec.ofNat 32 (v / 2 ^ 32))
  (l.filter (fun v => match tOf v, t0, t1 with
    | some t, some a, some b => erLe a t && !erLe b t
    | _, _, _ => false)).foldl (fun (m : Option Nat) v => match m with
      | none => some v
      | some u => match tOf u, tOf v with
        | some x, some y => if erLe x y then some u else some v
        | _, _ => some u) none

/-- `anyhit.commit`. -/
def anyhitCommitStep (c : MacCtx) : Mac MOut := do
  let l ← acceptedOf c (List.range c.ccnt)
  let word (v j : Nat) : W32 := BitVec.ofNat 32 (v / 2 ^ (32 * j))
  let hit := match leastHit (erOf (c.reg 7)) (erOf (c.reg 8)) l with
    | some v => c.put 24 [word v 1, word v 0, word v 2, word v 3] ++ c.put 8 [word v 1]
    | none => []
  return { regs := hit ++ travHead c 0 c.sp 1 0 ++ c.put 29 [BitVec.ofNat 32 (c.nat 29 / 2 ^ 7 * 2 ^ 7)] ++ c.put 31 [0],
           ends := [c.lane] }

/-- The causes of an `ANYHIT` found at issue; `needs` where an entry must have been handed out (R424). -/
def anyhitCheck (sb : Opnd) (rb : Fin 16) (needs : Bool) (_ : State) (x : Iss) (t : Thread) : List Nat :=
  let h := blockHdr sb t
  let fl := (t.reg (MacOp.base { sb := sb, recs := [], opx := .z, str := 0 } + 29)).toNat
  codesWhere (travCodes x rb h ++
    [(0x10B, !(hdrStatus h = 2 && (hdrReason h = 1 || hdrReason h = 2))),
     (0x10C, needs && fl.testBit 6)])

def execAnyhitNext (a : AnyhitArgs) (s : State) : Host.Outcome State Fault Refusal :=
  macIssue (.anyhitNext a) { sb := a.sb, recs := [a.rb], opx := .z, str := a.str.val } (anyhitCheck a.sb a.rb false) s

def execAnyhitAcc (a : AnyhitArgs) (s : State) : Host.Outcome State Fault Refusal :=
  macIssue (.anyhitAcc a) { sb := a.sb, recs := [a.rb], opx := a.x, str := a.str.val } (anyhitCheck a.sb a.rb true) s

def execAnyhitTerm (a : AnyhitArgs) (s : State) : Host.Outcome State Fault Refusal :=
  macIssue (.anyhitTerm a) { sb := a.sb, recs := [a.rb], opx := a.x, str := a.str.val } (anyhitCheck a.sb a.rb true) s

def execAnyhitCommit (a : AnyhitCommitArgs) (s : State) : Host.Outcome State Fault Refusal :=
  macIssue (.anyhitCommit a) { sb := a.sb, recs := [a.rb], opx := .z, str := a.str.val } (anyhitCheck a.sb a.rb false) s

end Sys2Proof.Machine
end

