-- ==== Sys2Proof/Machine/Ring.lean ====
section
/-!
DEFINITION. Stage rings (spec 08, R215 to R217; spec 18, R414).
-/

namespace Sys2Proof.Machine

/-! ### The descriptor (R215) -/

/-- A cursor of a ring descriptor: parity in bit 4, slot in bits [3:0]. -/
def cursorSlot (c : Nat) : Nat := c % 16

def cursorParity (c : Nat) : Nat := c / 16 % 2

/-- The fields of a ring descriptor. -/
structure RingDesc where
  cfree : Nat
  cwait : Nat
  pcom : Nat
  pacq : Nat
  free : Nat
  phase : Nat
  nslot : Nat
  slotb : Nat
  base : Nat
  reserved : Bool
deriving DecidableEq, Repr

/-- A ring descriptor read from its 16 bytes. -/
def ringOf (v : Nat) : RingDesc :=
  { cfree := bits v 124 120, cwait := bits v 116 112, pcom := bits v 108 104, pacq := bits v 100 96,
    free := bits v 95 80, phase := bits v 79 64, nslot := bits v 52 48, slotb := bits v 47 32, base := bits v 31 0,
    reserved := bits v 127 125 != 0 || bits v 119 117 != 0 || bits v 111 109 != 0 || bits v 103 101 != 0
      || bits v 63 53 != 0 }

/-- The 16 bytes of a ring descriptor whose reserved bits are zero. -/
def RingDesc.bytes (r : RingDesc) : List Byte :=
  toBytes 16 (r.base + r.slotb * 2 ^ 32 + r.nslot * 2 ^ 48 + r.phase * 2 ^ 64 + r.free * 2 ^ 80 + r.pacq * 2 ^ 96
    + r.pcom * 2 ^ 104 + r.cwait * 2 ^ 112 + r.cfree * 2 ^ 120)

/-- The position of a cursor, from 0 to 2 × NSLOT − 1 (R414). -/
def RingDesc.pos (r : RingDesc) (c : Nat) : Nat := r.nslot * cursorParity c + cursorSlot c

/-- How far a cursor is ahead of CFREE. -/
def RingDesc.ahead (r : RingDesc) (c : Nat) : Nat := (r.pos c + 2 * r.nslot - r.pos r.cfree) % (2 * r.nslot)

/-- Whether the cursors are in order (R414); a slot that does not exist is out of order. -/
def RingDesc.ordered (r : RingDesc) : Bool :=
  [r.cfree, r.cwait, r.pcom, r.pacq].all (fun c => cursorSlot c < r.nslot)
    && r.ahead r.cwait ≤ r.ahead r.pcom && r.ahead r.pcom ≤ r.ahead r.pacq && r.ahead r.pacq ≤ r.nslot

/-- The next value of a cursor: the parity flips after the last slot (R216). -/
def RingDesc.advance (r : RingDesc) (c : Nat) : Nat :=
  if cursorSlot c + 1 = r.nslot then (1 - cursorParity c) * 16 else cursorParity c * 16 + cursorSlot c + 1

/-- Bit `i` of a number set to `b`. -/
def setBit (n i : Nat) (b : Bool) : Nat := n - b2n (n.testBit i) * 2 ^ i + b2n b * 2 ^ i

/-! ### The four operations (R216) -/

/-- The ring operations. -/
inductive RingOp where | acq | commit | wait | free
deriving DecidableEq, Repr

/-- One operation on a well-formed descriptor: none while it must wait; else the descriptor after it and the slot's
address, for the two that deliver one. -/
def RingDesc.run (r : RingDesc) (o : RingOp) : Option (RingDesc × Option Nat) :=
  match o with
  | .acq =>
    let i := cursorSlot r.pacq
    if b2n (r.phase.testBit i) = cursorParity r.pacq && r.free.testBit i then
      some ({ r with free := setBit r.free i false, pacq := r.advance r.pacq }, some (r.base + i * r.slotb))
    else none
  | .commit =>
    some ({ r with phase := setBit r.phase (cursorSlot r.pcom) (cursorParity r.pcom == 0), pcom := r.advance r.pcom },
      none)
  | .wait =>
    let i := cursorSlot r.cwait
    if b2n (r.phase.testBit i) ≠ cursorParity r.cwait then
      some ({ r with cwait := r.advance r.cwait }, some (r.base + i * r.slotb))
    else none
  | .free =>
    some ({ r with free := setBit r.free (cursorSlot r.cfree) true, cfree := r.advance r.cfree }, none)

/-- The causes of a ring operation (R414; spec 17, R391); `fits` says whether the slots lie inside the owner's
allotment. -/
def RingDesc.codes (r : RingDesc) (o : RingOp) (paths : BitVec 5) (fits : Bool) : List Nat :=
  (if o = .commit ∧ r.pcom = r.pacq then [0x0D0] else []) ++ (if o = .free ∧ r.cfree = r.cwait then [0x0D1] else [])
    ++ (if r.nslot < 2 ∨ 16 < r.nslot then [0x0D2] else [])
    ++ (if r.slotb % 16 ≠ 0 ∨ r.slotb < 16 then [0x0D3] else []) ++ (if r.reserved then [0x0D4] else [])
    ++ (if r.ordered then [] else [0x0D5]) ++ (if paths = 0 then [0x0D6] else []) ++ (if fits then [] else [0x0D7])

/-- Whether the slots of a ring lie inside the allotment of their owner: the group that BASE names, or, where it names
none, the group that holds the descriptor (log 27). -/
def State.ringFits (s : State) (gid : Nat) (g : Group) (owner : Nat) (r : RingDesc) : Bool :=
  let k := if r.base.testBit 21 then s.scrTarget gid g r.base else if r.base < 2 ^ 22 then some owner else none
  match k.bind (Map.find s.groups) with
  | none => false
  | some t => r.base % 2 ^ 18 + r.nslot * r.slotb ≤ 4096 * t.scrPages

/-! ### The instruction -/

/-- What a ring operation comes to at the owner's scratchpad. -/
inductive RingRes where
  | cause (code addr : Nat)
  | kill (s : State)
  | wait
  | done (slot : Option Nat) (s : State)

/-- The release or acquire side of a ring operation on the descriptor at `l` (spec 04, R107, R112). -/
def State.ringSide (s : State) (gid : Nat) (o : RingOp) (paths : BitVec 5) (l : Loc) : State :=
  if !paths.getLsbD 0 then s
  else match o with
    | .commit => s.recordRelease gid l
    | .free => s.recordRelease gid l
    | .wait => s.pullBy (· == l)
    | .acq => s.pullBy (· == l)

/-- One ring operation of group `gid` on the descriptor at scratchpad address `a`, as one indivisible operation. A refused
address is one of an atomic (log 27). -/
def State.ringRun (s : State) (gid : Nat) (g : Group) (o : RingOp) (a : Nat) (paths : BitVec 5) : RingRes :=
  match (s.placeAt gid g .scr 2 a 16).1 with
  | .cause c ad => .cause c ad
  | .mismatch c ad => .kill (s.killGroup gid { cause := c, addr := ad })
  | .at' (.scr k off) _ =>
    match s.poisonAt none (.scr k off) 16 with
    | some p => .kill (s.consume gid g.callee p)
    | none =>
      let s := s.pinRange k off 16
      let r := ringOf (ofBytes (s.readLoc none (.scr k off) 16))
      match minCode (r.codes o paths (s.ringFits gid g k r)) with
      | some c => .cause c 0
      | none =>
        match r.run o with
        | none => .wait
        | some (r', slot) => .done slot ((s.ringSide gid o paths (.scr k off)).writeLocs (.of g.func) [(.scr k off, r'.bytes)])
  | _ => .wait

/-- The issue of a ring instruction: once for the fragment, with its operand from the lowest active lane (R217). -/
def ringBody (o : RingOp) (d a : Opnd) (paths : BitVec 5) (x : Iss) (s : State) : State :=
  match (lowLane x.on).bind (fun l => s.laneThread x.w l) with
  | none => s.advance x
  | some t =>
    let addr := (opRead a x.v t).toNat
    match s.ringRun x.gid x.g o addr paths with
    | .cause c ad => s.finish x none ((lanesOf x.fr.mask).map (fun l =>
        (l, if x.on.getLsbD l then .cause c ad else .go x.next)))
    | .kill s => s
    | .wait => s.finish x (some { instr := x.i, on := x.on, vals := [], aux := [addr] })
        ((lanesOf x.fr.mask).map (fun l => (l, .wait)))
    | .done slot s => (s.mapLanes x.w x.on (fun _ t => match slot with
        | some v => opWrite d (BitVec.ofNat 32 v) t
        | none => t)).advance x

def execSracq (a : RingGetArgs) (s : State) : Host.Outcome State Fault Refusal :=
  issue (.sracq a) (ringBody .acq a.d a.a a.paths) s

def execSrwait (a : RingGetArgs) (s : State) : Host.Outcome State Fault Refusal :=
  issue (.srwait a) (ringBody .wait a.d a.a a.paths) s

/-- A release side: it issues once the earlier accesses of its lanes on its paths are done (R217; log 21). -/
def execSrcommit (a : RingPutArgs) (s : State) : Host.Outcome State Fault Refusal :=
  issue (.srcommit a) (ringBody .commit .z a.a a.paths) s

def execSrfree (a : RingPutArgs) (s : State) : Host.Outcome State Fault Refusal :=
  issue (.srfree a) (ringBody .free .z a.a a.paths) s

/-- The operation, destination and paths of a waiting ring instruction. -/
def ringForm : Instr → Option (RingOp × Opnd × BitVec 5)
  | .sracq a => some (.acq, a.d, a.paths)
  | .srwait a => some (.wait, a.d, a.paths)
  | _ => none

/-- A waiting ring instruction looks at its descriptor again. -/
def State.ringTry (s : State) (w i : Nat) : State :=
  match Map.find s.waves w with
  | none => s
  | some v =>
    match v.frags[i]?, Map.find s.groups v.gid with
    | some f, some g =>
      match f.st with
      | .wait wt =>
        match ringForm wt.instr with
        | none => s
        | some (o, d, paths) =>
          match (if v.resident then s.ringRun v.gid g o (wt.aux.headD 0) paths else .wait) with
          | .cause c ad => s.waitCause w i f c ad
          | .kill s => s
          | .wait => s
          | .done slot s =>
            (s.mapLanes w f.waitOn (fun _ t => opWrite d (BitVec.ofNat 32 (slot.getD 0)) t)).spliceFrag w i
              [{ f with st := .ready, pc := f.pc + 8 }]
      | _ => s
    | _, _ => s

def execRingWaitSatisfied (wave frag : Nat) (s : State) : Host.Outcome State Fault Refusal :=
  .next (s.ringTry wave frag)

end Sys2Proof.Machine
end

