-- ==== Sys2Proof/Machine/Sorter.lean ====
section
/-!
DEFINITION. The sequencer's steps as events (spec 10, R270, R271), and the burr sorter: `HITSORT`, its buckets and the pour
ring (spec 10, R294, R295; spec 12, R335).
-/

namespace Sys2Proof.Machine

/-! ### The sequencer -/

/-- The next step of a macro-instruction in a lane. -/
def macStep (c : MacCtx) : Mac MOut :=
  match c.i with
  | .rastri a => rastriStep a c
  | .traverse a => traverseStep a c
  | .filter a => filterStep a c
  | .oblend a => oblendStep a c
  | .shadeq _ => shadeqStep c
  | .anyhitNext a => anyhitNextStep a.x c
  | .anyhitAcc _ => anyhitAccStep false c
  | .anyhitTerm _ => anyhitAccStep true c
  | .anyhitCommit _ => anyhitCommitStep c
  | .gqpush _ => gqPushStep false c
  | .gqpushClose _ => gqPushStep true c
  | .gqpop _ => gqPopStep c
  | .hizq a => hizqStep a c
  | .macroPrim _ => primStepOf c
  | .bop _ => primStepOf c
  | _ => macWait

/-- Whether the twins' records of a step differ: it writes memory, and the next record of the twin is to differ (spec 19, R448,
R450). -/
def State.stepDiffers (s : State) (c : MacCtx) (v : Wave) (r : Except MStop MOut) : Bool :=
  v.sigFlip && lrPaired (s.recOf c.g) && (match r with
    | .ok o => !o.ws.isEmpty
    | .error _ => false)

/-- One step of lane `l` of the fragment `f` of wave `w`, if it waits in a macro-instruction and the lane is at work and,
where the lanes take turns, the lowest at work. A lane of a wave that drains stops at once after the step (R271); a write whose
records differ in the twins takes 0x159 in place of the step. -/
def State.macStepLane (s : State) (w f l : Nat) : State :=
  match Map.find s.waves w with
  | none => s
  | some v =>
    match v.frags[f]?, Map.find s.groups v.gid with
    | some fr, some g =>
      match fr.st with
      | .wait wt =>
        let on := wt.on &&& fr.mask
        if (macOp wt.instr).isNone then s
        else if on = 0 then s.macSettle w f wt
        else if !v.resident || !on.getLsbD l || (laneOrder wt.instr && lowLane on != some l) then s
        else match s.macCtx w l v g wt with
          | none => s
          | some c =>
            let r : Except MStop MOut × State := (macStep c).run s
            let t := if s.stepDiffers c v r.1 then
                (r.2.updWave w (fun v => { v with sigFlip := false })).macLand f c wt (.error (.cause 0x159 0 false))
              else r.2.macLand f c wt r.1
            if v.draining then t.macStopLanes w f (BitVec.ofNat 32 (2 ^ l)) else t
      | _ => s
    | _, _ => s

/-- A `SHADEQ`, whose lanes take their items as one indivisible operation (R280). -/
def isShadeq : Instr → Bool
  | .shadeq _ => true
  | _ => false

/-- The instruction that fragment `f` of wave `w` waits in. -/
def State.waitsIn (s : State) (w f : Nat) : Option Instr :=
  (s.frag w f).bind (fun fr => match fr.st with | .wait wt => some wt.instr | _ => none)

/-- Whether local order puts nothing before the accesses of any lane at work of fragment `f` of wave `w` (spec 04, R106). -/
def State.takesNow (s : State) (w f : Nat) : Bool :=
  match s.frag w f with
  | none => false
  | some fr => match fr.st with
    | .wait wt => match macOp wt.instr with
      | some op => (s.tidsOf w (wt.on &&& fr.mask)).all (fun k => (s.localDeps k 3 (streamMask op.str) []).isEmpty)
      | none => false
    | _ => false

/-- One step of a lane; for a `SHADEQ`, one of every lane at work, once nothing is before any of them (R280). -/
def State.seqStep (s : State) (w f l : Nat) : State :=
  if ((s.waitsIn w f).map isShadeq).getD false then
    if !s.takesNow w f then s else
    (List.range 32).foldl (fun (s : State) k => if ((s.waitsIn w f).map isShadeq).getD false then s.macStepLane w f k else s) s
  else s.macStepLane w f l

def execSequencerStep (wave frag lane : Nat) (s : State) : Host.Outcome State Fault Refusal :=
  .next (s.seqStep wave frag lane)

/-- Whether an instruction has waits of its own: for a ticket or for a queue (R283, R297). -/
def macWaits : Instr → Bool
  | .oblend _ => true
  | .gqpush _ => true
  | .gqpop _ => true
  | _ => false

/-- A lane that waits for a ticket or a queue looks again, and goes on if it can. -/
def execMacroWaitSatisfied (wave frag lane : Nat) (s : State) : Host.Outcome State Fault Refusal :=
  .next (if ((s.waitsIn wave frag).map macWaits).getD false then s.macStepLane wave frag lane else s)

/-! ### Buckets (R294) -/

/-- The earliest thread of a bucket has waited 512 core cycles. -/
def State.bucketAge (s : State) (c i : Nat) : State :=
  match (s.core c).buckets[i]? with
  | none => s
  | some b =>
    match b.tids.head? with
    | none => s
    | some e => if e.2 + 512 ≤ s.tick then s.releaseBucket c i else s

def execBucketAgeRelease (core bucket : Nat) (s : State) : Host.Outcome State Fault Refusal := .next (s.bucketAge core bucket)

/-! ### `HITSORT` -/

/-- Registers +2 and the header of a thread filed from core `c`: where it came from, and STATUS 3 (R295). -/
def Thread.sorted (t : Thread) (base c : Nat) (passed : Bool) : Thread :=
  (t.setReg (base + 2) (BitVec.ofNat 32 (c % 2 ^ 9 + b2n passed * 2 ^ 9))).setReg base (hdrWith (t.reg base) 3 0)

/-- The filed lanes leave the wave, are marked sorted, and are filed in lane order. -/
def execHitsort (a : HitsortArgs) (s : State) : Host.Outcome State Fault Refusal :=
  issue (.hitsort a) (fun x s =>
    let base := MacOp.base { sb := a.sb, recs := [], opx := .z, str := 0 }
    let status (l : Nat) : Nat := ((s.laneThread x.w l).map (fun t => hdrStatus (t.reg base))).getD 0
    let filed := maskOf ((lanesOf x.on).filter (fun l => status l < 3))
    let keys := (lanesOf filed).filterMap (fun l => match s.laneTid x.w l, s.laneThread x.w l with
      | some k, some t => some (k, (t.reg (base + 1)).toNat % 2 ^ 16)
      | _, _ => none)
    let s := s.finish x none ((lanesOf x.fr.mask).map (fun l =>
      (l, if filed.getLsbD l then LaneEnd.gone
          else if x.on.getLsbD l && 4 ≤ status l then .cause 0x027 0
          else .go x.next)))
    let s := s.mapLanes x.w filed (fun _ t => { t.sorted base x.g.core false with passed := false })
    let s := (s.closeRun x.w).departWave x.w filed
    (keys.foldl (fun (s : State) k => s.fileBucket x.g.core x.gid k.1 x.next k.2 base) s).joinsLost x.w filed) s

/-! ### The pour ring (R295) -/

/-- The core at the next index of a core's cluster (spec 01, R10). -/
def nextCore (c : Nat) : Nat := c / 8 * 8 + (c % 8 + 1) % 8

/-- The group of the same gang and role on core `c` that can take one more thread, if the core has a slot for it that is not
kept for another gang (spec 11, R302). The model passes no thread into a group that is in a gate call, nor out of one; R295
names no such case (log 68). -/
def State.pourTarget (s : State) (g : Group) (c : Nat) : Option Nat :=
  if threadSlots ≤ s.slotsUsed c + (s.keptBeside g c).1 then none
  else Map.firstKey s.groups (fun k h => h.gang == g.gang && h.role == g.role && h.core == c && h.st == .resident
    && h.gates.isEmpty && decide ((s.groupTids k).length < lrThreads (s.recOf h)))

/-- Pass thread `tid` out of bucket `i` of core `c`: it joins the group on the next core and is filed there. -/
def State.pourThread (s : State) (c : Nat) (b : Bucket) (tid : Nat) : State :=
  match Map.find s.groups b.gid, Map.find s.threads tid with
  | some g, some t =>
    if t.passed || !g.gates.isEmpty then s
    else match s.pourTarget g (nextCore c) with
      | none => s
      | some k =>
        let i := (s.core c).buckets.findIdx (fun x => x.gid == b.gid && x.pc == b.pc && x.key == b.key)
        let s := s.updCore c (fun r => { r with buckets := match r.buckets[i]? with
          | some x =>
            let left := x.tids.filter (fun e => e.1 != tid)
            spliceAt r.buckets i (if left.isEmpty then [] else [{ x with tids := left }])
          | none => r.buckets })
        let s := s.updThread tid (fun t => { t.sorted b.base c true with gid := k, passed := true })
        ((s.flushGroup b.gid).fileBucket (nextCore c) k tid b.pc b.key b.base).checkGroup b.gid
  | _, _ => s

/-- A bucket that has held fewer than 16 threads for 256 core cycles passes its threads on. -/
def State.pour (s : State) (c i : Nat) : State :=
  match (s.core c).buckets[i]? with
  | none => s
  | some b =>
    match b.tids.head? with
    | none => s
    | some e =>
      if b.tids.length < 16 && decide (e.2 + 256 ≤ s.tick) then
        b.tids.foldl (fun (s : State) t => s.pourThread c b t.1) s
      else s

def execPourRingPass (core bucket : Nat) (s : State) : Host.Outcome State Fault Refusal := .next (s.pour core bucket)

end Sys2Proof.Machine
end

