-- ==== Sys2Proof/Machine/Sched.lean ====
section
/-!
DEFINITION. Time slices, pre-emption, drain, save and restore (spec 11, R302, R303, R313 to R317; spec 09, R266; spec 02,
R48), and `HALT` (spec 19, R437).
-/

namespace Sys2Proof.Machine

/-! ### Time slices (R302, R303) -/

/-- Core cycles of the time slice of a class: 0.5 ms for class 7, twice as long for each class below. -/
def sliceOf (c : Nat) : Nat := 875000 * 2 ^ (7 - c)

/-- Whether PECLASS lets work of class `cls` take the place of a gang (spec 11, R304). -/
def peAllows (pe cls : Nat) : Bool :=
  match pe with
  | 0 => true
  | 1 => 6 ≤ cls
  | _ => false

/-- The PECLASS of a gang's launch. -/
def State.peclassOf (s : State) (g : Gang) : Nat := ((Map.find s.launches g.lid).map (fun l => lrPeclass l.words)).getD 0

/-- Whether a gang of class `c` on die `d` keeps waiting gang `q` from a core. -/
def State.waitsFor (s : State) (c d pe : Nat) (q : Gang) : Bool :=
  s.wantsCore q && c ≤ s.classOf q && peAllows pe (s.classOf q) && (q.st == .waiting || q.die == d)
    && (s.placeFor q).isNone

/-- A gang that has waited one time slice of its class counts as class 7 for its next admission (R303). -/
def execWaitingWorkClass7 (gang : Nat) (s : State) : Host.Outcome State Fault Refusal :=
  .next (match Map.find s.gangs gang with
    | none => s
    | some g =>
      if s.wantsCore g && !g.class7 && g.since + sliceOf (s.classOf g) ≤ s.tick then
        s.updGang gang (fun g => { g with class7 := true })
      else s)

/-! ### Draining (R315) -/

/-- Stop the matrix streams of a wave between rows (spec 09, R257). -/
def State.streamStopAll (s : State) (w : Nat) : State :=
  match Map.find s.waves w with
  | none => s
  | some v => (List.range v.frags.length).foldl (fun (s : State) f => match s.streamAt w f with
      | some r => s.streamStop r
      | none => s) s

/-- Wave `w` drains: its macro-instructions stop at their next stopping point, its streams between rows. -/
def State.drainWave (s : State) (w : Nat) : State :=
  ((s.updWave w (fun v => { v with draining := true })).macStopAll w).streamStopAll w

/-- The waves of a gang. -/
def State.gangWaves (s : State) (gk : Nat) : List Nat :=
  match Map.find s.gangs gk with
  | none => []
  | some g => g.groups.flatMap s.groupWaves

/-- Every wave that a request on a core has chosen and that is still there. -/
def State.drainedBy (s : State) (d : Drain) : List Nat :=
  ((d.waves ++ d.whole.flatMap s.gangWaves).filter (Map.has s.waves)).eraseDups

/-- Send a request to core `c`, which keeps `keep` for a gang; a core that drains already drains once for both (R322). -/
def State.requestOn (s : State) (c : Nat) (ws whole : List Nat) (keep : Option Keep) : State :=
  let d : Drain := match (s.core c).drain with
    | some d => { d with waves := d.waves ++ ws, whole := (d.whole ++ whole).eraseDups, keeps := d.keeps ++ keep.toList }
    | none => { start := s.tick, waves := ws, whole := whole, keeps := keep.toList, move := false }
  let s := s.updCore c (fun r => { r with drain := some d })
  (s.drainedBy { d with waves := ws, whole := whole }).foldl (fun (s : State) w => s.drainWave w) s

/-- Whether a run of wave `w` is open. -/
def State.runOpen (s : State) (w : Nat) : Bool :=
  match Map.find s.waves w with
  | none => false
  | some v => (s.core v.core).slots.any (fun r => r.isOpen && r.wave == w)

/-- The waves that are on core `c`. -/
def State.wavesOn (s : State) (c : Nat) : List Nat := Map.keysOf (Map.keep s.waves (fun _ v => v.core == c && v.resident))

/-- Every wave that drains on core `c` under `d`: all of them where the core moves. -/
def State.drainingOn (s : State) (c : Nat) (d : Drain) : List Nat :=
  if d.move then (s.drainedBy d ++ s.wavesOn c).eraseDups else s.drainedBy d

/-- 256 core cycles after drain began, the runs of the victims are cut at an instruction that is not issuable. -/
def State.cutRuns (s : State) (c : Nat) : State :=
  match (s.core c).drain with
  | none => s
  | some d =>
    if d.start + 256 ≤ s.tick then
      (s.drainingOn c d).foldl (fun (s : State) w =>
        if s.runOpen w && (s.pickFrag w).isNone then s.closeRun w else s) s
    else s

def execDrainCut (core : Nat) (s : State) : Host.Outcome State Fault Refusal := .next (s.cutRuns core)

/-! ### Saving (R314; R266) -/

/-- Save group `k` whole: its waves leave the core, with their bin and bucket keys, and its engine's state. -/
def State.saveGroup (s : State) (k : Nat) : State :=
  match Map.find s.groups k with
  | none => s
  | some g =>
    if g.st != .resident && g.st != .spilled then s
    else
      let s := (s.flushGroup k).unpin k
      let c := s.core g.core
      let held := g.savedBuckets
      let s := (s.groupWaves k).foldl (fun (s : State) w => s.closeRun w) s
      let s := s.updGroup k (fun g =>
        { g with st := .saved, since := s.tick, savedBuckets := held ++ c.buckets.filter (fun b => b.gid == k)
                 savedEng := if c.eng.owner = some k then some c.eng else none })
      let s := { s with waves := Map.mapv s.waves (fun _ v =>
        if v.gid = k then { v with resident := false, draining := false } else v) }
      s.updCore g.core (fun r =>
        { r with bins := r.bins.filter (fun b => b.gid != k), filing := r.filing.filter (fun e => e.2.1 != k),
                 buckets := r.buckets.filter (fun b => b.gid != k),
                 btab := r.btab.filter (fun b => b.1 != k), eng := if r.eng.owner = some k then .init else r.eng })

/-- Save gang `gk` whole; a halt under way takes effect (spec 19, R437). -/
def State.saveGang (s : State) (gk : Nat) : State :=
  match Map.find s.gangs gk with
  | none => s
  | some g =>
    let s := g.groups.foldl (fun (s : State) k => s.saveGroup k) s
    let st : GangSt := match Map.find s.rep.halting gk with
      | some id => .halted id
      | none => .saved
    let s := { s with rep := { s.rep with halting := Map.del s.rep.halting gk } }
    s.updGang gk (fun g => { g with st := st, since := s.tick, class7 := false })

/-- Whether a gang can be saved whole: its runs are closed, its outstanding tile operations done, and none of its groups
is inside a region. -/
def State.gangQuiet (s : State) (gk : Nat) : Bool :=
  match Map.find s.gangs gk with
  | none => false
  | some g => g.st == .resident && !(s.gangWaves gk).any s.runOpen
      && !g.groups.any (fun k => s.inRegion k || s.flights.any (fun p => p.2.gid == k && p.2.path == 2))

/-- Whether one wave can be saved. -/
def State.waveQuiet (s : State) (w : Nat) : Bool :=
  !s.runOpen w && !(match Map.find s.waves w with | some v => s.inRegion v.gid | none => false)

/-- The macro-instructions and streams of the waves `ws` stop, but not inside a region, which the request waits for (spec 08,
R231; spec 10, R271). -/
def State.stopWaves (s : State) (ws : List Nat) : State :=
  ws.foldl (fun (s : State) w => match Map.find s.waves w with
    | some v => if s.inRegion v.gid then s else (s.macStopAll w).streamStopAll w
    | none => s) s

/-- What core `c` still drains: victims that are there and not saved, and what is kept for gangs that still wait. -/
def State.drainLeft (s : State) (c : Nat) (d : Drain) (ws : List Nat) : Option Drain :=
  let d := { d with
    waves := d.waves.filter (fun w => Map.has s.waves w && !ws.contains w)
    whole := d.whole.filter (fun k => match Map.find s.gangs k with
      | some g => g.st == .resident
      | none => false)
    keeps := s.keepsOn c }
  if d.waves.isEmpty && d.whole.isEmpty && d.keeps.isEmpty && !d.move then none else some d

/-- Save what has drained on core `c`; the request stands until its gang is on its cores. -/
def State.saveDrained (s : State) (c : Nat) : State :=
  match (s.core c).drain with
  | none => s
  | some d =>
    let s := s.stopWaves (s.drainedBy d)
    let ws := d.waves.filter (fun w => Map.has s.waves w && s.waveQuiet w)
    let gs := d.whole.filter s.gangQuiet
    let s := { s with waves := Map.mapv s.waves (fun k v =>
      if ws.contains k then { v with resident := false, draining := false } else v) }
    let s := ((ws.filterMap (fun w => (Map.find s.waves w).map (·.gid))).eraseDups).foldl (fun (s : State) g =>
      (s.flushGroup g).unpin g) s
    let s := gs.foldl (fun (s : State) k => s.saveGang k) s
    s.updCore c (fun r => { r with drain := s.drainLeft c d ws })

/-! ### Migration (R318; spec 01, R8, R21; spec 19, R445, R452) -/

def State.setCluster (s : State) (d n : Nat) (c : Cluster) : State :=
  { s with mgmt := { s.mgmt with clusters := Map.put s.mgmt.clusters (d * 32 + n) c } }

/-- The physical cluster of a die in a role, if any. -/
def State.clusterIn (s : State) (d : Nat) (p : ClusterRole → Bool) : Option Nat :=
  (List.range 19).find? (fun n => p (s.cluster d n).role)

/-- A cupping cluster, whether under test or passed. -/
def ClusterRole.isCupping : ClusterRole → Bool
  | .cupping _ => true
  | _ => false

/-- After a change from state `s`: 0x17B is reported when the count of healthy clusters has fallen and is below 18. -/
def State.healthReport (t s : State) (d : Nat) : State :=
  if t.healthyCount d < s.healthyCount d && t.healthyCount d < 18 then t.sparesGone 0x17B 0 else t

/-- The reserve cluster of a die, if it has a healthy one and no cupping cluster, enters rotation (0x17E). -/
def State.bringReserve (s : State) (d : Nat) : State :=
  match s.clusterIn d (· == .reserve), s.clusterIn d ClusterRole.isCupping with
  | some n, none => (s.setCluster d n { s.cluster d n with role := .cupping false }).spareUsed 0x17E
  | _, _ => s

/-- Core `c` begins to move: all its waves drain. A slice end that is under way there is served by the move (R322); a halt, and
what makes room for another gang, goes on after it. -/
def State.moveCore (s : State) (c : Nat) : State :=
  let d : Drain := match (s.core c).drain with
    | some d => { d with move := true, whole := d.whole.filter (fun k =>
        Map.has s.rep.halting k || d.keeps.any (fun q => q.whole.contains k)) }
    | none => { start := s.tick, waves := [], whole := [], keeps := [], move := true }
  let s := s.updCore c (fun r => { r with drain := some d })
  (s.wavesOn c).foldl (fun (s : State) w => s.drainWave w) s

/-- Whether everything on core `c` can be saved: runs closed, tile operations done, no group inside a region. -/
def State.coreQuiet (s : State) (c : Nat) : Bool :=
  (s.wavesOn c).all s.waveQuiet
    && !s.groups.any (fun p => p.2.core == c && p.2.st == .resident && p.2.noPre.isSome)
    && !s.flights.any (fun p => p.2.core == c && p.2.path == 2)

/-- What was on core `c` resumes on the matching core of the target, whose caches and scratchpad hold nothing yet: the waves go on,
the filing times of binned and bucketed threads begin again (spec 02, R48), and so do the time slices of the gangs there (R322). -/
def State.landCore (s : State) (c : Nat) (d : Drain) : State :=
  let goOn := (s.wavesOn c).filter (fun w => !(s.drainedBy d).contains w)
  let gangs := (s.groups.filter (fun p => p.2.core == c && p.2.st == .resident)).map (fun p => p.2.gang)
  let anew (l : List (Nat × Nat)) : List (Nat × Nat) := l.map (fun e => (e.1, s.tick))
  let s := ((s.wavesOn c).foldl (fun (s : State) w => s.closeRun w) s).emptyCore c
  let s := { s with
    waves := Map.mapv s.waves (fun k v => if goOn.contains k then { v with draining := false } else v)
    gangs := Map.mapv s.gangs (fun k g => if gangs.contains k then { g with since := s.tick } else g) }
  s.updCore c (fun r =>
    { r with bins := r.bins.map (fun b => { b with tids := anew b.tids })
             buckets := r.buckets.map (fun b => { b with tids := anew b.tids })
             drain := s.drainLeft c { d with move := false } [] })

/-- The last core has moved, or the cluster that is given up holds nothing: the target is the logical cluster, and the vacated
one becomes the cupping cluster, or the degraded reserve if it is retired (spec 19, R445, R452). -/
def State.endMove (s : State) (d : Nat) (m : Move) : State :=
  let t : State := { s with mgmt := { s.mgmt with
    moving := Map.del s.mgmt.moving d
    skips := Map.keep s.mgmt.skips (fun k _ => k / 32 != d)
    retiring := Map.upd s.mgmt.retiring d (fun l => l.filter (· != m.source)) } }
  let t := t.setCluster d m.source { t.cluster d m.source with role := if m.retire then .degraded else .cupping false }
  let t := match m.target with
    | some q => (t.setCluster d q { t.cluster d q with role := .logical m.logical }).count 0x178
    | none => t
  if m.retire then ((t.deviceReport 0x17A 5).bringReserve d).healthReport s d else t

/-- A core that moves has drained: the next one begins, or the migration ends. -/
def State.moveOn (s : State) (c : Nat) : State :=
  match (s.core c).drain, Map.find s.mgmt.moving (dieOf c) with
  | some dr, some m =>
    if !dr.move || c != clusterBase (dieOf c) m.logical + m.core then s
    else
      let s := s.stopWaves (s.drainingOn c dr)
      if !s.coreQuiet c then s
      else
        let s := s.landCore c dr
        if m.core < 7 then
          ({ s with mgmt := { s.mgmt with moving := Map.put s.mgmt.moving (dieOf c) { m with core := m.core + 1 } } }).moveCore
            (c + 1)
        else s.endMove (dieOf c) m
  | _, _ => s

/-- The migration of logical cluster `l` of die `d` from physical cluster `p` to `q` begins; without `q` the cluster is given
up, and its gangs leave it whole. -/
def State.startMove (s : State) (d l p : Nat) (q : Option Nat) : State :=
  let m : Move := { logical := l, source := p, target := q, core := 0
                    retire := ((Map.find s.mgmt.retiring d).getD []).contains p }
  let s := { s with mgmt := { s.mgmt with moving := Map.put s.mgmt.moving d m } }
  match q with
  | some q => (s.setCluster d q { s.cluster d q with role := .target }).moveCore (clusterBase d l)
  | none =>
    let gs := ((s.groups.filter (fun p => (p.2.st == .resident || p.2.st == .spilled)
      && (s.coresOf p.2).any (fun c => c / 8 == d * 17 + l))).map (fun p => p.2.gang)).eraseDups
    gs.foldl (fun (s : State) k => match (Map.find s.gangs k).bind (fun g => (g.groups.filterMap (Map.find s.groups)).head?) with
      | some r => s.requestOn r.core [] [k] none
      | none => s) s

/-- A cluster that is given up is degraded once no gang is on it. -/
def State.giveUp (s : State) (d : Nat) : State :=
  match Map.find s.mgmt.moving d with
  | some m =>
    if m.target.isNone && !s.groups.any (fun p => (p.2.st == .resident || p.2.st == .spilled)
        && (s.coresOf p.2).any (fun c => c / 8 == d * 17 + m.logical)) then s.endMove d m else s
  | none => s

def execEvictionSave (core : Nat) (s : State) : Host.Outcome State Fault Refusal :=
  .next ((match (s.core core).drain with
    | some d => if d.move then s.moveOn core else s.saveDrained core
    | none => s).giveUp (dieOf core))

/-! ### Restoring (R314) -/

/-- The evicted waves of core `c` that fit it again. -/
def State.restorable (s : State) (c : Nat) : List (Nat × Wave) :=
  s.waves.filter (fun p => !p.2.resident && p.2.core == c && (match Map.find s.groups p.2.gid with
      | some g => g.st == .resident
      | none => false)
    && s.slotsUsed c + popCount 32 (s.waveLanes p.1).toNat ≤ threadSlots
    && s.regsUsed c + s.waveRegs p.1 p.2 ≤ coreRegs)

/-- The class of a wave's gang. -/
def State.waveClass (s : State) (v : Wave) : Nat := ((Map.find s.groups v.gid).map s.groupClass).getD 0

/-- Restore one evicted wave of core `c`, the highest class first, once no request is pending there. -/
def State.restoreWave (s : State) (c : Nat) : State :=
  if (s.core c).drain.isSome then s
  else
    match (s.restorable c).foldl (fun (b : Option (Nat × Wave)) p => match b with
        | none => some p
        | some q => if s.waveClass q.2 < s.waveClass p.2 then some p else b) none with
    | none => s
    | some p =>
      let e := s.freeEntry c
      s.updWave p.1 (fun v => { v with resident := true, entry := e })

def execWaveRestore (core : Nat) (s : State) : Host.Outcome State Fault Refusal := .next (s.restoreWave core)

/-! ### The choice of victims (R313) -/

/-- Whether a group has a `COLL` in flight. -/
def State.collInFlight (s : State) (gid : Nat) : Bool := !(s.waitingAt gid isColl).isEmpty

/-- Whether a group may be a victim of a gang of class `cls`. -/
def State.mayEvict (s : State) (cls : Nat) (g : Group) : Bool :=
  g.st == .resident && g.noPre.isNone && (match Map.find s.gangs g.gang with
    | some q => s.classOf q < cls && peAllows (s.peclassOf q) cls
    | none => false)

/-- The permitted victims on core `c`, in the order they are taken: those with a `COLL` in flight last, lowest class
first, then youngest admission. -/
def State.victimsOn (s : State) (cls c : Nat) : List (Nat × Group) :=
  sortBy (fun a b => !lexLt [b2n (s.collInFlight b.1), s.groupClass b.2, s.nextKey - b.2.admSeq]
      [b2n (s.collInFlight a.1), s.groupClass a.2, s.nextKey - a.2.admSeq])
    (s.groups.filter (fun p => (s.coresOf p.2).contains c && s.mayEvict cls p.2))

/-- The waves of a victim that no request has chosen, in the order they are taken: waiting ones first, then higher wave-entry
numbers first. -/
def State.victimWaves (s : State) (gid : Nat) : List Nat :=
  let ws := (sortBy (fun a b => b.2.entry ≤ a.2.entry)
    (s.waves.filter (fun p => p.2.gid == gid && p.2.resident && !p.2.draining))).map Prod.fst
  ws.filter (fun w => !s.waveCanIssue w) ++ ws.filter s.waveCanIssue

/-- What a request asks of a core: the waves and whole gangs to evict, and what they free. -/
structure Plan where
  waves : List Nat
  whole : List Nat
  slots : Nat
  regs : Nat
deriving DecidableEq, Repr

/-- Thread slots and registers that what drains on core `c` will free. -/
def State.leaving (s : State) (c : Nat) : Nat × Nat :=
  match (s.core c).drain with
  | some d => s.heldBy c d.waves d.whole
  | none => (0, 0)

/-- Whether a plan frees what is needed on core `c`, beside what is kept there for others. -/
def State.planned (s : State) (c : Nat) (n : NeedOf) (p : Plan) : Bool :=
  let kept := (s.keepsOn c).map (·.need)
  s.slotsUsed c + n.threads + kept.foldl (fun m k => m + k.threads) 0 ≤ threadSlots + p.slots + (s.leaving c).1
    && s.regsUsed c + n.regs + kept.foldl (fun m k => m + k.regs) 0 ≤ coreRegs + p.regs + (s.leaving c).2

/-- The plan with one more wave, unless it is enough. -/
def State.planWave (s : State) (c : Nat) (n : NeedOf) (p : Plan) (w : Nat) : Plan :=
  if s.planned c n p then p
  else match Map.find s.waves w with
    | none => p
    | some v => { p with waves := p.waves ++ [w], slots := p.slots + popCount 32 (s.waveLanes w).toNat
                         regs := p.regs + s.waveRegs w v }

/-- The group that holds the matrix engine of a core. -/
def State.engineGroup (s : State) (c : Nat) : Option (Nat × Group) :=
  s.groups.find? (fun p => p.2.st == .resident && s.kindOfGroup p.2 == .matrix && (s.coresOf p.2).contains c)

/-- The plan by which core `c` can take need `n` for a gang of class `cls`, if any. -/
def State.planCore (s : State) (cls c : Nat) (n : NeedOf) : Option Plan :=
  if (((s.core c).drain.map (·.move)).getD false) || (n.mtx && (s.keepsOn c).any (fun k => k.need.mtx)) || s.throttled c
      || (n.gfx && !(s.core c).ucode)
      || s.waves.any (fun p => !p.2.resident && p.2.core == c && cls ≤ s.waveClass p.2) then none
  else
    let first : Option Plan :=
      if n.mtx && s.engineTaken c then
        match s.engineGroup c with
        | some (k, g) => if s.mayEvict cls g then
            some { waves := [], whole := [g.gang], slots := s.onCore k, regs := s.regsOf k g }
          else none
        | none => none
      else some { waves := [], whole := [], slots := 0, regs := 0 }
    first.bind (fun p =>
      let gone := p.whole ++ ((s.core c).drain.map (·.whole)).getD []
      let vs := (s.victimsOn cls c).filter (fun v => !gone.contains v.2.gang)
      let p := (vs.flatMap (fun v => s.victimWaves v.1)).foldl (s.planWave c n) p
      if s.planned c n p then some p else none)

/-- Cores and what they must take for the groups of `needs`, from index `i + k` of a cluster on; with PACK a group may
join the one before it on its core. -/
def State.needArc (s : State) (cls base i : Nat) (pack : Bool) (k : Nat) (u : Option NeedOf) :
    List NeedOf → Option (List (Nat × NeedOf))
  | [] => some (match u with | some n => [(base + (i + k) % 8, n)] | none => [])
  | n :: r =>
    let here := base + (i + k) % 8
    let both := (u.getD .none).plus n
    let share := pack && (match u with
      | some v => !(v.mtx && n.mtx) && (s.planCore cls here both).isSome
      | none => false)
    if share then s.needArc cls base i pack k (some both) r
    else
      let k' := if u.isNone then k else k + 1
      let c := base + (i + k') % 8
      if k' < 8 && (s.planCore cls c n).isSome then
        (s.needArc cls base i pack k' (some n) r).map (fun l => match u with
          | some v => (here, v) :: l
          | none => l)
      else none

/-- The first arc of a cluster whose victims can free what a gang needs, with its twin's cores. -/
def State.planCluster (s : State) (cls d c : Nat) (pack paired : Bool) (needs : List NeedOf) :
    Option (List (Nat × NeedOf)) :=
  if !s.hasCluster d c then none
  else
    ((List.range 8).findSome? (fun i => s.needArc cls (clusterBase d c) i pack 0 none needs)).bind (fun arc =>
      if !paired then some arc
      else
        ((List.range 17).find? (fun t => t != c && s.hasCluster d t
            && arc.all (fun e => (s.planCore cls (clusterBase d t + e.1 % 8) e.2).isSome))).map (fun t =>
          arc ++ arc.map (fun e => (clusterBase d t + e.1 % 8, e.2))))

/-- The clusters of `dies` in the order of placement (R307): most free thread slots first, then lower numbers, then die
0. -/
def State.clusterOrder (s : State) (dies : List Nat) : List (Nat × Nat) :=
  sortBy (fun a b => s.freeSlots b.1 b.2 ≤ s.freeSlots a.1 a.2)
    ((List.range 17).flatMap (fun c => dies.map (fun d => (d, c))))

/-- Whether a victim of a request is still to be saved. -/
def Drain.pending (d : Drain) (k : Keep) : Bool :=
  k.waves.any (fun w => d.waves.contains w) || k.whole.any (fun g => d.whole.contains g)

/-- A gang of a bounded class has been refused placement: since when (spec 11, R316). -/
def State.refusedPlace (s : State) (gk : Nat) : State :=
  match Map.find s.gangs gk with
  | some g => if s.wantsCore g && 6 ≤ s.classOf g && g.asked.isNone && (s.placeFor g).isNone then
      s.updGang gk (fun g => { g with asked := some s.tick })
    else s
  | none => s

/-- The request of gang `gk`, if it waits, cannot be placed and has none pending: the first arc that can be freed. -/
def State.request (s : State) (gk : Nat) : State :=
  match Map.find s.gangs gk with
  | none => s
  | some g =>
    if !s.wantsCore g || (s.placeFor g).isSome
        || s.cores.any (fun p => match p.2.drain with
            | some d => d.keeps.any (fun k => k.lid == g.lid && k.num == g.num && d.pending k)
            | none => false) then s
    else match Map.find s.launches g.lid with
      | none => s
      | some l =>
        let t := s.requestServed g
        let cls := t.classOf g
        let needs := if g.st = .waiting then firstNeeds l else t.laterNeeds g
        let dies := if g.st = .waiting then [0, 1] else [g.die]
        match (t.clusterOrder dies).findSome? (fun e =>
            t.planCluster cls e.1 e.2 (lrPack l.words) (lrPaired l.words) needs) with
        | none => s
        | some arc =>
          let plans := arc.filterMap (fun e => (t.planCore cls e.1 e.2).map (fun p => (e, p)))
          plans.foldl (fun (s : State) e => s.requestOn e.1.1 e.2.waves e.2.whole (some
            { lid := g.lid, num := g.num, need := e.1.2, waves := e.2.waves, whole := e.2.whole, slots := e.2.slots,
              regs := e.2.regs })) t

def execPreemptionRequest (gang : Nat) (s : State) : Host.Outcome State Fault Refusal :=
  .next ((s.refusedPlace gang).request gang)

/-- A gang that has been on its cores for a time slice, while another of its class or higher waits, is switched out whole
(R303); a core that moves serves the slice end with its move (R322). -/
def State.sliceEnds (s : State) (gk : Nat) : State :=
  match Map.find s.gangs gk with
  | none => s
  | some g =>
    let c := s.classOf g
    let core := (g.groups.filterMap (Map.find s.groups)).head?.map (·.core)
    if g.st == .resident && g.since + sliceOf c ≤ s.tick && !g.groups.any s.inRegion
        && s.gangs.any (fun p => p.1 != gk && s.waitsFor c g.die (s.peclassOf g) p.2) then
      match core with
      | some n =>
        if ((s.core n).drain.map (fun d => d.move || d.whole.contains gk)).getD false then s
        else s.requestOn n [] [gk] none
      | none => s
    else s

def execTimeSliceEnd (gang : Nat) (s : State) : Host.Outcome State Fault Refusal := .next (s.sliceEnds gang)

/-! ### `HALT` (spec 19, R437) -/

/-- The gang of the issuing fragment halts: it drains at the next instruction boundaries, and a record tells the
debugger. -/
def State.haltGang (s : State) (x : Iss) : State :=
  let id := s.rep.nextHalt % 2 ^ 16
  let l := s.launchOf x.g
  let s := s.advance x
  let s := { s with rep := { s.rep with nextHalt := id + 1, halting := Map.put s.rep.halting x.g.gang id } }
  let s := s.errRecord
    { cause := 0x02F, func := x.g.func, pasid := x.g.pasid, domain := x.g.domain, core := x.g.core,
      lrec := (l.map (·.lrec)).getD 0, gang := ((Map.find s.gangs x.g.gang).map (·.num)).getD 0,
      queue := (l.map (·.queue)).getD 0, etag := (l.map (·.etag)).getD 0, addr := id }
  let s := s.requestOn x.g.core [] [x.g.gang] none
  (s.gangWaves x.g.gang).foldl (fun (s : State) w => s.closeRun w) s

def execHalt (a : H0) (s : State) : Host.Outcome State Fault Refusal :=
  issue (.halt a) (fun x s =>
    if x.g.noPre.isSome then s.faultLanes x x.on 0x13F else s.haltGang x) s

end Sys2Proof.Machine
end

