-- ==== Sys2Proof/Machine/Spare.lean ====
section
/-!
DEFINITION. What checks find and what spares replace: uncorrectable errors (spec 19, R428), late transitions and margins
(R444, R445), rotation, test and retirement of clusters (R451 to R454; spec 11, R318), memory spares (R455), scrubbing and
seals of the weight store (R456; spec 04, R95).
-/

namespace Sys2Proof.Machine

/-- Count a cause `n` times. -/
def State.countN (s : State) (code : Nat) : Nat → State
  | 0 => s
  | n + 1 => (s.count code).countN code n

/-! ### Clusters (R451, R452) -/

/-- A cupping cluster that has passed its test. -/
def ClusterRole.passed : ClusterRole → Bool
  | .cupping p => p
  | _ => false

/-- The test of the cupping cluster ends (R454). -/
def State.cuppingDone (s : State) (d : Nat) (pass : Bool) : State :=
  match s.clusterIn d (· == .cupping false) with
  | none => s
  | some n =>
    if pass then s.setCluster d n { s.cluster d n with role := .cupping true, tested := s.tick }
    else
      let t := (s.setCluster d n { s.cluster d n with role := .failed, tested := s.tick }).deviceReport 0x15B 5
      (t.bringReserve d).healthReport s d

def execCuppingTestDone (die : Nat) (pass : Bool) (s : State) : Host.Outcome State Fault Refusal :=
  .next (if die < 2 then s.cuppingDone die pass else s)

/-! ### Rotation (R452, R453; spec 11, R318) -/

/-- Core cycles between rotation rounds: 250 ms. -/
def roundPeriod : Nat := 437500000

/-- Rounds of a die that have fallen due; die 1 runs 125 ms after die 0. -/
def State.roundsDue (s : State) (d : Nat) : Nat := (s.tick - d * 218750000) / roundPeriod

/-- The groups on logical cluster `l` of die `d` that are inside a non-pre-emptible region. -/
def State.regionsOn (s : State) (d l : Nat) : List (Nat × Group) :=
  s.groups.filter (fun p => (s.coresOf p.2).any (fun c => c / 8 == d * 17 + l) && (p.2.st == .resident || p.2.st == .spilled)
    && p.2.noPre.isSome)

/-- The fifth round ends a region: its mark is cleared, and the wave that began it raises 0x0F5 at its next
instruction. -/
def State.endRegionBy (s : State) (code : Nat) (p : Nat × Group) : State :=
  let s := match p.2.noPre with
    | some (_, w) => s.updWave w (fun v => { v with regionCause := some code })
    | none => s
  s.updGroup p.1 (fun g => { g with noPre := none })

/-- A rotation round, if one is due on die `d` and no migration is under way: the chosen cluster migrates to a cupping cluster
that has passed its test. A retired cluster that has neither a cupping nor a reserve cluster to move to is given up (spec 01,
R21); one whose cupping cluster is under test waits. No round runs on stopped clocks (spec 14, R363). -/
def State.round (s : State) (d : Nat) : State :=
  if s.mgmt.stopped || 2 ≤ d || s.roundsDue d ≤ Map.get s.mgmt.rounds 0 d || Map.has s.mgmt.moving d then s
  else
    let s := { s with mgmt := { s.mgmt with rounds := Map.put s.mgmt.rounds d (s.roundsDue d) } }
    match s.roundChoice d with
    | none => s
    | some (p, l) =>
      let q := s.clusterIn d ClusterRole.passed
      if q.isNone && !(s.isRetiring d p && (s.clusterIn d ClusterRole.isCupping).isNone) then s
      else
        let held := s.regionsOn d l
        let n := Map.get s.mgmt.skips 0 (d * 32 + p)
        if !held.isEmpty && n < 4 then
          { s with mgmt := { s.mgmt with
            skips := Map.put (Map.keep s.mgmt.skips (fun k _ => k / 32 != d)) (d * 32 + p) (n + 1) } }.count 0x179 |>.count 0x0FB
        else (held.foldl (fun (s : State) e => s.endRegionBy 0x0F5 e) s).startMove d l p q |>.giveUp d

def execRotationRound (die : Nat) (s : State) : Host.Outcome State Fault Refusal := .next (s.round die)

/-! ### Replays and margins (R444, R445) -/

/-- A late transition on an issue slot: the cycle takes 2 core cycles, and nothing else changes. -/
def execLateTransition (core slot : Nat) (s : State) : Host.Outcome State Fault Refusal :=
  .next (if slot < 4 then { (s.noteReplay core) with tick := s.tick + 1 } else s)

/-- Core cycles of a millisecond, of 24 hours, and of 10 seconds. -/
def msCycles : Nat := 1750000
def dayCycles : Nat := 151200000000000
def tenSeconds : Nat := 17500000000

/-- One cluster at the end of a window: at 64 replays its margin rises, or, at step 4, the window counts towards its
retirement; after 24 h without such a window the margin falls one step. -/
def Cluster.window (c : Cluster) (tick : Nat) : Cluster :=
  if 64 ≤ c.replays then
    if c.margin < 4 then { c with margin := c.margin + 1, replays := 0, calm := tick }
    else { c with hotWindows := tick :: c.hotWindows.filter (fun t => tick ≤ t + tenSeconds), replays := 0, calm := tick }
  else if 0 < c.margin && c.calm + dayCycles ≤ tick then
    { c with margin := c.margin - 1, hotWindows := [], replays := 0, calm := tick }
  else { c with replays := 0 }

/-- The end of a window on one cluster: causes 0x15C and 0x15D with a raised margin; a logical cluster at two hot windows
waits for the next round, to be retired. -/
def State.clusterWindow (s : State) (d n : Nat) : State :=
  let c := s.cluster d n
  let t := s.setCluster d n (c.window s.tick)
  if 64 ≤ c.replays && c.margin < 4 then (t.count 0x15C).count 0x15D
  else if 2 ≤ (c.window s.tick).hotWindows.length && 64 ≤ c.replays then
    match c.role with
    | .logical _ =>
      let l := (Map.find t.mgmt.retiring d).getD []
      if t.isRetiring d n then t
      else { t with mgmt := { t.mgmt with retiring := Map.put t.mgmt.retiring d (l ++ [n]) } }
    | _ => t
  else t

/-- The reading of a die's replay counts, once in each millisecond. -/
def State.windowEnds (s : State) (d : Nat) : State :=
  if 2 ≤ d || s.tick / msCycles ≤ Map.get s.mgmt.windows 0 d then s
  else
    let s := { s with mgmt := { s.mgmt with windows := Map.put s.mgmt.windows d (s.tick / msCycles) } }
    (List.range 19).foldl (fun (s : State) n => s.clusterWindow d n) s

def execReplayWindow (die : Nat) (s : State) : Host.Outcome State Fault Refusal := .next (s.windowEnds die)

/-- A logical cluster that a die has given up (spec 01, R21). -/
def State.lostCluster (s : State) (d : Nat) : Option Nat :=
  (List.range 17).find? (fun l => (s.clusterIn d (· == .logical l)).isNone)

/-- The test of a degraded cluster at margin step 0, every 24 h: it is healthy again when it passes, and takes the role that
its die lacks: a logical cluster, the cupping cluster, the reserve. -/
def execDegradedClusterTest (die phys : Nat) (pass : Bool) (s : State) : Host.Outcome State Fault Refusal :=
  .next (
    let c := s.cluster die phys
    if die < 2 && phys < 19 && c.role = .degraded && c.tested + dayCycles ≤ s.tick then
      (s.setCluster die phys { c with
        tested := s.tick, margin := if pass then 0 else c.margin
        role := if !pass then .degraded else match s.lostCluster die with
          | some l => .logical l
          | none => .reserve }).bringReserve die
    else s)

/-! ### The weight store (R455, R456; spec 04, R95) -/

/-- The function that owns a domain: the first whose PASID table names it. -/
def State.ownerOf (s : State) (dom : Nat) : Nat :=
  ((List.range 64).find? (fun f => (s.ftWord f 0).testBit 63 && (List.range (s.pasidCount f)).any (fun p =>
    (s.pasidEntry f p).testBit 0 && bits (s.pasidEntry f p) 63 52 == dom))).getD 0

/-- Core cycles of an hour. -/
def hourCycles : Nat := 6300000000000

/-- One more corrected error: the ticks of those at the same place within `span`, its own first. -/
def notedFix (m : Map (List Nat)) (k tick span : Nat) : List Nat :=
  tick :: (Map.get m [] k).filter (fun t => tick ≤ t + span)

/-- A bank of a die is worn: a spare begins to be brought in, or the bank is poisoned in full. A bank whose spare is being
brought in goes on so. -/
def State.spareBank (s : State) (d bank : Nat) : State :=
  let n := Map.get s.mem.wsSpares 0 d
  let k := d * 64 + bank
  let s := { s with mem := { s.mem with wsFixed := Map.del s.mem.wsFixed k } }
  if Map.has s.mem.wsCopied k then s
  else if n < 4 then
    ({ s with mem := { s.mem with wsSpares := Map.put s.mem.wsSpares d (n + 1), wsCopied := Map.put s.mem.wsCopied k 0 } }).spareUsed
      0x173
  else (List.range 65536).foldl (fun (s : State) u => s.poisonWs d (bank * 65536 + u)) (s.sparesGone 0x174 5)

/-- A refresh window copies one row of a worn bank, with its poison marks, to its spare; with the last row reads switch over,
which no program sees (R456). -/
def State.copyRow (s : State) (k : Nat) : State :=
  match Map.find s.mem.wsCopied k with
  | none => s
  | some n => { s with mem := { s.mem with
      wsCopied := if n + 1 = 16384 then Map.del s.mem.wsCopied k else Map.put s.mem.wsCopied k (n + 1) } }

/-- `n` corrected errors in a bank: 256 within an hour bring in a spare. -/
def State.bankFixed (s : State) (d bank n : Nat) : State :=
  let k := d * 64 + bank
  let s := s.countN 0x156 n
  let l := (s.tick, n) :: (Map.get s.mem.wsFixed [] k).filter (fun e => s.tick ≤ e.1 + hourCycles)
  if n = 0 then s
  else
    let s := { s with mem := { s.mem with wsFixed := Map.put s.mem.wsFixed k l } }
    if 256 ≤ l.foldl (fun n e => n + e.2) 0 then s.spareBank d bank else s

/-- An uncorrectable error in unit `u` of the store of die `d`. -/
def State.wsError (s : State) (d u : Nat) : State :=
  let dom := (s.region (u / 65536)).domain
  (s.poisonWs d u).hostReport { cause := 0x149, func := s.ownerOf dom, domain := dom, addr := u * 128 }

/-- A refresh window of a bank scrubs its next row: `fixed` errors were corrected, `bad` are the units that were not. -/
def State.refreshWindow (s : State) (d bank fixed : Nat) (bad : List Nat) : State :=
  let k := d * 64 + bank
  let s := { s with mem := { s.mem with
      wsWindow := Map.put s.mem.wsWindow k (refreshAt d bank s.tick / 7168)
      scrub := Map.putD s.mem.scrub 0 k ((Map.get s.mem.scrub 0 k + 1) % 16384) } }
  let s := (s.copyRow k).bankFixed d bank fixed
  let us := bad.filter (fun u => u / 65536 == bank)
  let s := us.foldl (fun (s : State) u => s.wsError d u) s
  if us.isEmpty then s else s.spareBank d bank

/-- Whether a bank is in a refresh window that has not scrubbed its row yet (spec 01, R16). -/
def State.inWindow (s : State) (d bank : Nat) : Bool :=
  refreshAt d bank s.tick % 7168 < 168 && Map.find s.mem.wsWindow (d * 64 + bank) != some (refreshAt d bank s.tick / 7168)

def execWsRefreshWindow (die bank fixed : Nat) (bad : List Nat) (s : State) : Host.Outcome State Fault Refusal :=
  .next (if die < 2 && bank < 64 && s.inWindow die bank then s.refreshWindow die bank fixed bad else s)

/-- A seal takes effect when every `COPYW` accepted for the region has written its token. -/
def State.sealRegion (s : State) (n : Nat) : State :=
  let r := s.region n
  if r.sealing && !s.cores.any (fun c => c.2.copyq.any (fun q => q.regions.contains n)) then
    { s with mem := { s.mem with regions := Map.put s.mem.regions n { r with isSealed := true, sealing := false } } }
  else s

def execWsSealEffect (region : Nat) (s : State) : Host.Outcome State Fault Refusal := .next (s.sealRegion region)

/-! ### HBM4, DDR-5 and L2 (R455) -/

/-- A channel fails: of a DDR-5 channel every unit is poisoned; of an HBM4 stack the one spare channel is brought in. -/
def State.channelFails (s : State) (ddr : Bool) (stack ch : Nat) : State :=
  if ddr then
    if s.mem.ddrFailed.contains ch then s
    else ({ s with mem := { s.mem with ddrFailed := s.mem.ddrFailed ++ [ch] } }).deviceReport 0x177 5
  else if Map.get s.mgmt.stackSpares 0 stack = 0 then
    { s with mgmt := { s.mgmt with stackSpares := Map.put s.mgmt.stackSpares stack 1,
                                   stackCopying := s.mgmt.stackCopying ++ [(stack, ch)] } }
  else s.sparesGone 0x172 5

/-- There are 8 stacks, and 16 DDR-5 channels; of a stack the 16 pieces of a frame reach 16 channels (spec 01, R7, R14). -/
def execMemoryChannelFailure (ddr : Bool) (stack channel : Nat) (s : State) : Host.Outcome State Fault Refusal :=
  .next (if channel < 16 && (ddr || stack < 8) then s.channelFails ddr stack channel else s)

/-- The spare channel of a stack holds what the failed one held. -/
def execHbm4ChannelCopyDone (stack : Nat) (s : State) : Host.Outcome State Fault Refusal :=
  .next (if s.mgmt.stackCopying.any (fun e => e.1 == stack) then
      ({ s with mgmt := { s.mgmt with stackCopying := s.mgmt.stackCopying.filter (fun e => e.1 != stack) } }).spareUsed 0x171
    else s)

/-- A worn L2 way: one of the slice's two spare ways is brought in; the line with the error is written back and dropped. -/
def State.spareWay (s : State) (die unit : Nat) : State :=
  let k := sliceOfUnit die unit
  let s := s.dropL2 die unit
  let n := Map.get s.mem.l2Spares 0 k
  if n < 2 then ({ s with mem := { s.mem with l2Spares := Map.put s.mem.l2Spares k (n + 1) } }).spareUsed 0x175
  else s.sparesGone 0x176 5

/-- A corrected error in an L2 way: 16 within an hour wear it out. A way is named by its number modulo 64: the spec gives no number
of ways (log 73). -/
def State.wayFixed (s : State) (die unit way : Nat) : State :=
  let k := sliceOfUnit die unit * 64 + way % 64
  let l := notedFix s.mem.l2Fixed k s.tick hourCycles
  let s := s.count 0x153
  if l.length < 16 then { s with mem := { s.mem with l2Fixed := Map.put s.mem.l2Fixed k l } }
  else ({ s with mem := { s.mem with l2Fixed := Map.del s.mem.l2Fixed k } }).spareWay die unit

/-- A worn HBM4 row: a repair row of its bank takes its place, poison marks and all; 64 repairs wear out a channel. -/
def State.spareRow (s : State) (unit : Nat) : State :=
  let c := hbmChannel unit
  let b := c * 65536 + Config.hbmBank unit % 65536
  let used := Map.get s.mem.hbmRows 0 b
  if used < Config.hbmRepairRows then
    let n := Map.get s.mem.hbmRepairs 0 c + 1
    let s := ({ s with mem := { s.mem with hbmRows := Map.put s.mem.hbmRows b (used + 1),
                                           hbmRepairs := Map.put s.mem.hbmRepairs c (if n = 64 then 0 else n) } }).spareUsed 0x170
    if n = 64 then s.channelFails false (c / 16) (c % 16) else s
  else s.sparesGone 0x172 5

/-- A corrected error of HBM4: 4 in one row within 24 h wear it out. -/
def State.rowFixed (s : State) (unit : Nat) : State :=
  let k := (hbmChannel unit * 65536 + Config.hbmBank unit % 65536) * 2 ^ 32 + Config.hbmRow unit % 2 ^ 32
  let l := notedFix s.mem.hbmFixed k s.tick dayCycles
  let s := s.count 0x155
  if l.length < 4 then { s with mem := { s.mem with hbmFixed := Map.put s.mem.hbmFixed k l } }
  else ({ s with mem := { s.mem with hbmFixed := Map.del s.mem.hbmFixed k } }).spareRow unit

/-! ### Uncorrectable errors (R428) -/

/-- The queue state of a launch is lost: its gangs are killed finally, and it ends at once (R434). -/
def State.loseLaunch (s : State) (lid : Nat) : State :=
  match Map.find s.launches lid with
  | none => s
  | some l =>
    let s := s.updLaunch lid (fun l => { l with ended := true })
    let gs := Map.keysOf (Map.keep s.gangs (fun _ g => g.lid == lid && g.st != .ended))
    let s := gs.foldl (fun (s : State) k => match Map.find s.gangs k with
      | some g => if g.st = .waiting then (s.updGang k (fun g => { g with st := .ended })).orphan k
        else s.killGang k { cause := 0x145, final := true }
      | none => s) s
    s.settleGangs.hostReport
      { cause := 0x145, action := 6, func := l.func, pasid := l.pasid, domain := l.domain, lrec := l.lrec,
        queue := l.queue, etag := l.etag }

/-- Every graphics-role gang resident on a core, a twin there among them, is killed with 0x14F, until the store is loaded
again. -/
def State.microcodeError (s : State) (core : Nat) : State :=
  let gs := s.groups.filter (fun p => (s.coresOf p.2).contains core && p.2.st == .resident && s.kindOfGroup p.2 == .graphics)
  let s := s.updCore core (fun r => { r with ucode := false })
  ((gs.map (fun p => p.2.gang)).eraseDups).foldl (fun (s : State) k => s.killGang k { cause := 0x14F, core := some core }) s

/-- Whether the context save pool holds state of a group: the group whole, spilled registers, evicted waves, or a spilled
barrier entry. -/
def State.inPool (s : State) (gid : Nat) (g : Group) : Bool :=
  g.st == .saved || g.st == .spilled || s.waves.any (fun p => p.2.gid == gid && !p.2.resident)
    || g.bars.any (fun b => !(s.core g.core).btab.contains (gid, b.1) && s.arrivedAt gid b.1 != 0)

/-- The code of a tag mismatch at a site (spec 17, R392): none where the structure has none. -/
def mismatchCode : UeSite → Option Nat
  | .regRow _ => some 0x128
  | .scratch _ _ => some 0x129
  | .acc _ _ => some 0x12A
  | .accScrub _ _ => some 0x12A
  | .plane _ => some 0x12A
  | .l2Dirty _ _ => some 0x12B
  | .l2Clean _ _ => some 0x12B
  | .tlb _ => some 0x12C
  | .copyBox _ _ => some 0x12D
  | .barrier _ _ => some 0x12E
  | .waveEntry _ => some 0x12E
  | .phaseRec _ => some 0x12F
  | .queueState _ => some 0x133
  | .wsUnit _ => some 0x134
  | _ => none

/-- A control difference of the twins of a paired gang: both enter the handler at the primary's address (spec 19, R448). -/
def State.twinDiffers (s : State) (w : Nat) : State :=
  match Map.find s.waves w, s.pickFrag w with
  | some v, some i =>
    match Map.find s.groups v.gid, v.frags[i]? with
    | some g, some f => if lrPaired (s.recOf g) then s.lateCause w f.mask f.hnd f.pc 0x15A 0 none else s
    | _, _ => s
  | _, _ => s

/-- An error that a check corrects (R443): counted, and held against the place that may wear out. -/
def State.fixedAt (s : State) : FixSite → State
  | .register => s.count 0x150
  | .datapath => s.count 0x151
  | .scratch => s.count 0x152
  | .l1 _ => s.count 0x153
  | .bridge => s.count 0x154
  | .l2 d u w => s.wayFixed d u w
  | .hbm u => s.rowFixed u
  | .ddr => s.count 0x157
  | .ws d b => if d < 2 && b < 64 then s.bankFixed d b 1 else s

/-- An error found in a tile by scrub: the tile is marked, and an asynchronous cause names the group that owns it (spec 17,
R398). -/
def State.tileScrubbed (s : State) (core tile : Nat) : State :=
  match (s.core core).eng.owner with
  | some g => if tile < 16 then
      (s.updCore core (fun c => { c with eng := { c.eng with uncorr := c.eng.uncorr ||| (1#16 <<< tile) } })).raiseAsync g
        { code := 0x142, tids := [], addr := 0 }
    else s
  | none => s

/-- The context error at a site, if one is there: its group, whose it is, and its code. -/
def State.siteError (s : State) : UeSite → Option (Nat × Met × Nat)
  | .regRow t => (Map.find s.threads t).map (fun th => (th.gid, if th.outer.isEmpty then .own else .caller, 0x140))
  | .acc c _ => (s.core c).eng.owner.map (fun g => (g, .own, 0x142))
  | .plane c => (s.core c).eng.owner.map (fun g => (g, .own, 0x142))
  | .copyBox c k => ((s.core c).copyq.find? (fun q => q.key == k)).map (fun q => (q.gid, .own, 0x146))
  | .barrier g b => (Map.find s.groups g).bind (fun r => if Map.has r.bars b then some (g, .own, 0x147) else none)
  | .waveEntry w => (Map.find s.waves w).map (fun v =>
    (v.gid, if (lanesOf (s.waveLanes w)).any (fun l => (s.laneThread w l).any (fun t => !t.outer.isEmpty)) then .caller else .own,
     if v.handler.isSome then 0x163 else 0x147))
  | .phaseRec g => (Map.find s.groups g).bind (fun r => match r.st with
    | .phase _ => some (g, .own, 0x148)
    | _ => none)
  | .saved g => (Map.find s.groups g).bind (fun r => if s.inPool g r then some (g, .own, 0x14E) else none)
  | .datapath g => (Map.find s.groups g).map (fun _ => (g, .caller, 0x140))
  | _ => none

/-- The gang that an error at a site kills, and the cause: none where it ends a service's domain. -/
def State.siteKill (s : State) (site : UeSite) : Option (Nat × Nat) :=
  (s.siteError site).bind (fun e => (Map.find s.groups e.1).bind (fun v =>
    if (s.endsService v e.2.1).isSome then none else some (v.gang, e.2.1.code v e.2.2)))

/-- A check fails at a site. -/
def State.ueAt (s : State) (site : UeSite) : State :=
  match site with
  | .scratch g u =>
    if (Map.find s.groups g).isNone then s
    else (s.updGroup g (fun r => { r with scrPoison := if r.scrPoison.contains u then r.scrPoison else u :: r.scrPoison }))
      |>.raiseAsync g { code := 0x141, tids := [], addr := BitVec.ofNat 64 (u * 128) }
  | .accScrub c t => s.tileScrubbed c t
  | .l1Dirty c u => if (s.l1Line c u).any (fun e => !e.dirty.isEmpty) then s.markL1 c u else s
  | .l2Dirty d u => ((s.spareWay d u).poisonLine (u * 128) false).fillL2 d u true
  | .l2Clean d u => (s.count 0x153).spareWay d u
  | .tlb i => ({ s with mmu := { s.mmu with tlb := s.mmu.tlb.eraseIdx i } }).count 0x153
  | .queueState l => s.loseLaunch l
  | .wsUnit u => (s.wsError (u / 2 ^ 22) (u % 2 ^ 22)).spareBank (u / 2 ^ 22) (u % 2 ^ 22 / 65536)
  | .tagged g t => (match mismatchCode t with
    | some c =>
      (match s.siteKill t with
       | some y =>
         if some y.1 = (Map.find s.groups g).map (·.gang) then s.killGroup g { cause := min c y.2, cause2 := some (max c y.2) }
         else (s.killGroup g { cause := c }).ueAt t
       | none => (s.killGroup g { cause := c }).ueAt t)
    | none => s)
  | .both a b => (match s.siteError a, s.siteKill a, s.siteKill b with
    | some e, some x, some y =>
      if x.1 = y.1 then s.killGroup e.1 { cause := min x.2 y.2, cause2 := some (max x.2 y.2) } else (s.ueAt a).ueAt b
    | _, _, _ => (s.ueAt a).ueAt b)
  | .twin w => s.twinDiffers w
  | .twinRecord w => s.updWave w (fun v => { v with sigFlip := true })
  | .bridge => (s.count 0x154).hostReport { cause := 0x16B }
  | .fixed f => s.fixedAt f
  | .hbm u => (s.poisonUnit (u * 128)).spareRow u
  | .ddr u => s.poisonUnit (u * 128)
  | .icache c => (s.updCore c (fun r => { r with icache := [] })).count 0x153
  | .ucode c => s.microcodeError c
  | site => (match s.siteError site with
    | some e => s.contextError e.1 e.2.1 { cause := e.2.2 }
    | none => s)

def execUeDetected (site : UeSite) (s : State) : Host.Outcome State Fault Refusal := .next (s.ueAt site)

/-- The Barista core reloads the sequencer microcode of a core from its last accepted image. -/
def execMicrocodeStoreReload (core : Nat) (s : State) : Host.Outcome State Fault Refusal :=
  .next (s.updCore core (fun r => { r with ucode := true }))

end Sys2Proof.Machine
end

