-- ==== Sys2Proof/Machine/Tasks.lean ====
section
/-!
DEFINITION. Tasks (spec 02, R42, R44, R45; spec 08, R221 to R227; spec 11, R482; spec 18, R416): `FORK`, `TSINIT`, `TSREL`,
`DEPINIT`, `DEPDEC` and `TQPOST`. Each performs its effect at its issue, in ascending lane order, once the earlier accesses
it releases are done (log 21).
-/

namespace Sys2Proof.Machine

/-! ### One lane after another -/

/-- What one lane comes to: it leaves the instruction, or its gang has been killed. -/
inductive LaneRes where
  | leave (e : LaneEnd)
  | killed
deriving DecidableEq, Repr

/-- Do `f` for each lane of `ls`, lowest first, until the gang is killed. -/
def State.eachLane (s : State) (w : Nat) (f : State → Nat → Thread → LaneRes × State) :
    List Nat → List (Nat × LaneEnd) → Option (List (Nat × LaneEnd)) × State
  | [], acc => (some acc, s)
  | l :: r, acc =>
    match s.laneThread w l with
    | none => s.eachLane w f r acc
    | some t =>
      match f s l t with
      | (.killed, s) => (none, s)
      | (.leave e, s) => s.eachLane w f r (acc ++ [(l, e)])

/-- A per-lane instruction whose lanes act one after another. -/
def laneByLane (f : Iss → State → Nat → Thread → LaneRes × State) (x : Iss) (s : State) : State :=
  match s.eachLane x.w (f x) (lanesOf x.on) [] with
  | (none, s) => s
  | (some ends, s) =>
    s.finish x none ((lanesOf x.fr.mask).map (fun l =>
      (l, ((ends.find? (fun e => e.1 == l)).map Prod.snd).getD (.go x.next))))

/-- A lane that goes on. -/
def LaneRes.next (x : Iss) : LaneRes := .leave (.go x.next)

/-- A lane that takes a cause. -/
def LaneRes.cause (code addr : Nat) : LaneRes := .leave (.cause code addr)

/-- A lane whose access was not placed. -/
def Formed.res (x : Iss) (f : Formed) : LaneRes := .leave (f.leave x.next)

/-- The place of `n` bytes in `k` pages: that of the first, or why one is not placed. -/
def State.placeRange (s : State) (g : Group) (nd : Need) (d a n : Nat) : Nat → Formed × State
  | 0 => (.skip a, s)
  | 1 => s.placeVirt g nd d a n
  | k + 2 =>
    match s.placeVirt g nd d a n with
    | (.at' l a, s) =>
      (match s.placeRange g nd d ((a / 4096 + 1) * 4096 % 2 ^ 57) n (k + 1) with
       | (.at' _ _, s) => (.at' l a, s)
       | r => r)
    | r => r

/-- A failed read for a lane with D = 0: it parks, takes a fatal cause, or consumes poison. -/
def State.readFails (s : State) (x : Iss) (e : ReadFail) : LaneRes × State :=
  match e with
  | .tr (.fatal c) va => (.cause c va, s)
  | .tr (.park c st lv ipa) va =>
    (match s.faultRecord (x.g.faultRec c st lv ipa va false) with
     | (some k, s) => (.leave (.park k va), s)
     | (none, s) => (.cause c va, s))
  | .poison p _ => (.killed, s.consume x.gid x.g.callee p)

/-- The low 57 bits of a 64-bit operand: an address (log 30). -/
def opAddr (o : Opnd) (v : Wave) (t : Thread) : Nat := (opRead64 o v t).toNat % 2 ^ 57

/-! ### `FORK` (R221, R416, R482) -/

/-- The launch that children forked by a group belong to. -/
def forkRoot (g : Group) (l : Launch) : Nat := match l.src with
  | .fork r => r
  | _ => g.lid

/-- The cactus-stack area of a group's launch record, as the key of its frames in use. -/
def areaKey (func pasid va : Nat) : Nat := (func * 2 ^ 20 + pasid) * 2 ^ 57 + va

/-- Create the child of a lane: its launch of one gang, which waits for admission. -/
def State.startChild (s : State) (x : Iss) (l : Launch) (ws : List W64) (b : Map W128) (va key : Nat)
    (args : List W32) : State :=
  let lid := s.nextKey
  let child : Launch :=
    { launchRec ws b [] x.g.func x.g.pasid x.g.domain va l.queue l.etag (min (lrPrio ws) l.cls) lid
        (lrSyspriv ws) (.fork (forkRoot x.g l)) with
      nextGang := 1, offered := [0] }
  let gang : Gang :=
    { lid := lid, num := 0, groups := [], die := 0, cluster := 0, st := .waiting, relaunches := 0, since := s.tick,
      asked := none, class7 := false, parent := some x.gid, fargs := args, frameArea := key, twin := none }
  let s := { s with
    nextKey := lid + 2
    launches := Map.put s.launches lid child
    gangs := Map.put s.gangs (lid + 1) gang
    mem := { s.mem with cframes := Map.put s.mem.cframes key (Map.get s.mem.cframes 0 key + 1) } }
  s.updGroup x.gid (fun g => { g with children := g.children + 1 })

/-- One lane of a `FORK`. -/
def forkLane (a : Ab) (x : Iss) (s : State) (_ : Nat) (t : Thread) : LaneRes × State :=
  match s.launchOf x.g with
  | none => (.next x, s)
  | some l =>
    let va := opAddr a.a x.v t
    let key := areaKey x.g.func x.g.pasid (lrCsarea l.words)
    match minCode ((if Map.get s.mem.cframes 0 key < lrCsbytes l.words / 128 then [] else [0x0E0])
        ++ (if va % 256 = 0 then [] else [0x0E3]) ++ (if x.g.gates.isEmpty then [] else [0x0E6])) with
    | some c => (.cause c 0, s)
    | none =>
      match s.readRecord x.g.ctx va with
      | (.error e, s) => s.readFails x e
      | (.ok (ws, b), s) =>
        if lrGroups ws ≠ 1 ∨ lrGangs ws ≠ 1 then (.cause 0x0E1 0, s)
        else if !s.recordFits x.g.func x.g.pasid x.g.domain l.sysPriv ws b then (.cause 0x0E2 0, s)
        else (.next x, (s.flushGroup x.gid).startChild x l ws b va key ((List.range 8).map (fun i => opNth a.b i x.v t)))

def execFork (a : Ab) (s : State) : Host.Outcome State Fault Refusal :=
  issue (.fork a) (laneByLane (forkLane a)) s

/-! ### Tile scoreboards (R44, R223, R224) -/

/-- Width and height of a stencil word. -/
def stencilW (w : Nat) : Nat := bits w 55 48 + 1

def stencilH (w : Nat) : Nat := bits w 63 56 + 1

/-- One lane of a `TSINIT`: the area is written, so every page of it must take a write. -/
def tsinitLane (a : Ab) (x : Iss) (s : State) (_ : Nat) (t : Thread) : LaneRes × State :=
  let va := opAddr a.a x.v t
  let w := (opRead64 a.b x.v t).toNat
  let k := popCount 48 w
  match minCode ((if k = 0 ∨ 8 < k then [0x0E8] else []) ++ (if va % 128 = 0 then [] else [0x0E9])) with
  | some c => (.cause c 0, s)
  | none =>
    let n := 128 + stencilW w * stencilH w
    match s.placeRange x.g .write 1 va n (pagesOf va n) with
    | (.at' l _, s) =>
      let b : Board := { w := stencilW w, h := stencilH w, stencil := BitVec.ofNat 64 w, retired := [] }
      (.next x, { s with mem := { s.mem with boards := Map.put s.mem.boards l.pa b } })
    | (f, s) => (f.res x, s)

def execTsinit (a : Ab) (s : State) : Host.Outcome State Fault Refusal :=
  issue (.tsinit a) (laneByLane (tsinitLane a)) s

/-- Retire the tile of gang `gk` (R44): with each retirement the launches bound to the board offer what it releases. A tile
that has retired stays so (spec 19, R433). -/
def State.retireTile (s : State) (gk : Nat) : State :=
  match Map.find s.gangs gk with
  | none => s
  | some q =>
    match Map.find s.launches q.lid with
    | none => s
    | some l =>
      match s.boardOf l with
      | none => s
      | some (pa, b) =>
        let tile := lrTile l.words q.num
        if b.retired.contains tile then s
        else
          let s := { s with mem := { s.mem with
            boards := Map.put s.mem.boards pa { b with retired := b.retired ++ [tile] } } }
          (s.launches.filter (fun e => (s.boardOf e.2).map Prod.fst == some pa)).foldl
            (fun (s : State) e => s.offerGangs e.1) s

/-- `TSREL`, once for the fragment; it is a release side (spec 04, R107). -/
def tsrelBody (x : Iss) (s : State) : State :=
  match minCode ((if x.g.tileRel then [0x0EA] else []) ++ (if lrTsen (s.recOf x.g) then [] else [0x0EB])) with
  | some c => s.faultLanes x x.on c
  | none =>
    let s := ((s.flushGroup x.gid).updGroup x.gid (fun g => { g with tileRel := true })).advance x
    let all := ((Map.find s.gangs x.g.gang).map (·.groups)).getD []
    if all.all (fun k => ((Map.find s.groups k).map (·.tileRel)).getD false) then s.retireTile x.g.gang else s

def execTsrel (a : H0) (s : State) : Host.Outcome State Fault Refusal :=
  issue (.tsrel a) tsrelBody s

/-! ### Dependence counters (R225, R226) -/

/-- What a counter that group `gid` sets holds beside its bytes. -/
def State.succOf (s : State) (g : Group) (self : Option Nat) : DepSucc :=
  let l := s.launchOf g
  { func := g.func, pasid := g.pasid, cls := (l.map (·.cls)).getD 0, queue := (l.map (·.queue)).getD 0,
    etag := (l.map (·.etag)).getD 0, lid := g.lid, self := self }

/-- Write a counter: the count, the successor's address over 256, and the number of what else the device records in it (log
26); what the counter held of an earlier successor is gone. -/
def State.writeCounter (s : State) (pa count succ : Nat) (d : DepSucc) : State :=
  let k := s.nextKey
  let old := s.counterId pa
  let s := s.pokes [(pa, toBytes 4 count ++ toBytes 4 succ ++ toBytes 8 k)]
  { s with
    nextKey := k + 1
    mem := { s.mem with depSucc := Map.put (Map.del s.mem.depSucc old) k d } }

/-- Write a counter at a place: on this device with what it holds beside its bytes; elsewhere its bytes alone, for the spec does
not say how the context reaches another device (log 43). -/
def State.putCounter (s : State) (p : Party) (l : Loc) (count succ : Nat) (d : DepSucc) : State :=
  match l with
  | .mem pa => (s.homeOf none (.mem pa) 16 true).writeCounter pa count succ d
  | l => s.writeLocs p [(l, toBytes 4 count ++ toBytes 4 succ ++ toBytes 8 0)]

/-- The counter at a place has the count 0 from the start: it fires at once. -/
def State.fireAt (s : State) (l : Loc) : State :=
  match l with
  | .mem pa => s.fireCounter pa
  | _ => s

/-- One lane of a `DEPINIT`: a count of zero enqueues the successor at once. -/
def depinitLane (a : Ab) (x : Iss) (s : State) (_ : Nat) (t : Thread) : LaneRes × State :=
  let va := opAddr a.a x.v t
  let w := (opRead64 a.b x.v t).toNat
  if va % 16 ≠ 0 then (.cause 0x0EF 0, s)
  else
    match s.placeVirt x.g .write 1 va 16 with
    | (.at' l _, s) =>
      let s := s.putCounter (s.partyOf x.g) l (w % 2 ^ 32) (w / 2 ^ 32) (s.succOf x.g none)
      (.next x, if w % 2 ^ 32 = 0 then s.fireAt l else s)
    | (f, s) => (f.res x, s)

def execDepinit (a : Ab) (s : State) : Host.Outcome State Fault Refusal :=
  issue (.depinit a) (laneByLane (depinitLane a)) s

/-- One lane of a `DEPINIT.self`; `refused` is the cause that forbids the phase end, where a count is not zero. -/
def depselfLane (a : Ab) (refused : Option Nat) (x : Iss) (s : State) (_ : Nat) (t : Thread) : LaneRes × State :=
  let va := opAddr a.a x.v t
  let w := (opRead64 a.b x.v t).toNat
  match minCode ((if w / 2 ^ 32 = 0 then [] else [0x0ED]) ++ (if va % 16 = 0 then [] else [0x0EF]) ++ refused.toList) with
  | some c => (.cause c 0, s)
  | none =>
    match s.placeVirt x.g .write 1 va 16 with
    | (.at' l _, s) =>
      let s := s.putCounter (s.partyOf x.g) l (w % 2 ^ 32) 0 (s.succOf x.g (some x.gid))
      (.leave .wait, if w % 2 ^ 32 = 0 then s.fireAt l else s)
    | (f, s) => (f.res x, s)

/-- `DEPINIT.self`: the lanes that have written their counters wait for the phase end, or, with every count zero, for those
that still have to write theirs. -/
def depselfBody (a : Ab) (x : Iss) (s : State) : State :=
  let counts : List Nat := (lanesOf x.on).filterMap (fun l => (s.laneThread x.w l).map (fun t =>
    (opRead64 a.b x.v t).toNat % 2 ^ 32))
  let nonzero := counts.any (· != 0)
  match s.eachLane x.w (depselfLane a (if nonzero then phaseRefusal x.g else none) x) (lanesOf x.on) [] with
  | (none, s) => s
  | (some ends, s) =>
    let owing := (ends.filter (fun e => e.2 != .wait)).filterMap (fun e => s.laneTid x.w e.1)
    (s.finish x (some { instr := x.i, on := x.on, vals := [], aux := b2n nonzero :: owing })
      ((lanesOf x.fr.mask).map (fun l =>
        (l, ((ends.find? (fun e => e.1 == l)).map Prod.snd).getD (.go x.next))))).checkSelf x.gid

def execDepinitSelf (a : Ab) (s : State) : Host.Outcome State Fault Refusal :=
  issue (.depinitSelf a) (depselfBody a) s

/-- One lane of a `DEPDEC`. -/
def depdecLane (a : Ax) (x : Iss) (s : State) (_ : Nat) (t : Thread) : LaneRes × State :=
  let va := opAddr a.a x.v t
  if va % 16 ≠ 0 then (.cause 0x0EF 0, s)
  else
    match s.placeVirt x.g .atomic 2 va 16 with
    | (.at' l _, s) =>
      (match s.decrementAt l with
       | (0, s) => (.cause 0x0EC 0, s)
       | (n, s) => (.next x, if n = 1 then s.flushGroup x.gid else s))
    | (f, s) => (f.res x, s)

def execDepdec (a : Ax) (s : State) : Host.Outcome State Fault Refusal :=
  issue (.depdec a) (laneByLane (depdecLane a)) s

/-! ### `TQPOST` (R227, R416) -/

/-- Put the packet `l` into queue `q` of function `f`: false where the ring slot cannot be written. -/
def State.postPacket (s : State) (f q : Nat) (l : List Byte) : Bool × State :=
  let tail := s.queueTail f q
  match s.translate (s.engineCtx f (s.queuePasid f q)) (s.queueSlot f q tail) .write with
  | (.error _, s) => (false, s.queueRefused f q)
  | (.ok t, s) =>
    match s.reach f t.pa 64 .write with
    | none => (false, s.queueRefused f q)
    | some p =>
      let s := s.writeLocs (.of f) [(p, l)]
      let s := s.poke (s.queueAddr f q + 20) (toBytes 4 ((tail + 1) % 2 ^ 32))
      (true, { s with host := { s.host with stalled := s.host.stalled.filter (· != f * 2048 + q) } })

/-- One lane of a `TQPOST`. -/
def tqpostLane (a : Ab) (x : Iss) (s : State) (_ : Nat) (t : Thread) : LaneRes × State :=
  let va := opAddr a.a x.v t
  let qn := (opRead a.b x.v t).toNat
  let q := qn % 2 ^ 11
  let full := !s.queueOn x.g.func q || 2 ^ s.queueLog x.g.func q ≤ s.queueFill x.g.func q
  match minCode ((if full && qn / 2 ^ 11 = 0 then [0x0F0] else []) ++ (if va % 64 = 0 then [] else [0x0F2])
      ++ (if qn / 2 ^ 11 = 0 then [] else [0x0F3])) with
  | some c => (.cause c 0, s)
  | none =>
    match s.readVirt x.g.ctx va 64 with
    | (.error e, s) => s.readFails x e
    | (.ok l, s) =>
      if bits (ofBytes l) 35 16 ≠ x.g.pasid ∧ !s.privOf x.g then (.cause 0x0F1 0, s)
      else match s.postPacket x.g.func q l with
        | (true, s) => (.next x, s)
        | (false, s) => (.cause 0x0F0 0, s)

def execTqpost (a : Ab) (s : State) : Host.Outcome State Fault Refusal :=
  issue (.tqpost a) (laneByLane (tqpostLane a)) s

end Sys2Proof.Machine
end

