-- ==== Sys2Proof/Machine/Dispatch.lean ====
section
/-!
DEFINITION. The meaning of each instruction and event: one arm for each constructor of `Instr`.
-/

namespace Sys2Proof.Machine

def exec (i : Instr) (s : State) : Host.Outcome State Fault Refusal :=
  match i with
  | .nop a => Sys2Proof.Machine.execNop a s
  | .mov a => Sys2Proof.Machine.execMov a s
  | .movi a => Sys2Proof.Machine.execMovi a s
  | .movhi a => Sys2Proof.Machine.execMovhi a s
  | .iadd a => Sys2Proof.Machine.execIadd a s
  | .iaddi a => Sys2Proof.Machine.execIaddi a s
  | .iaddc a => Sys2Proof.Machine.execIaddc a s
  | .isub a => Sys2Proof.Machine.execIsub a s
  | .isubb a => Sys2Proof.Machine.execIsubb a s
  | .imul a => Sys2Proof.Machine.execImul a s
  | .imulhs a => Sys2Proof.Machine.execImulhs a s
  | .imulhu a => Sys2Proof.Machine.execImulhu a s
  | .imulws a => Sys2Proof.Machine.execImulws a s
  | .imulwu a => Sys2Proof.Machine.execImulwu a s
  | .imad a => Sys2Proof.Machine.execImad a s
  | .lea a => Sys2Proof.Machine.execLea a s
  | .idivs a => Sys2Proof.Machine.execIdivs a s
  | .idivu a => Sys2Proof.Machine.execIdivu a s
  | .imins a => Sys2Proof.Machine.execImins a s
  | .iminu a => Sys2Proof.Machine.execIminu a s
  | .imaxs a => Sys2Proof.Machine.execImaxs a s
  | .imaxu a => Sys2Proof.Machine.execImaxu a s
  | .iabs a => Sys2Proof.Machine.execIabs a s
  | .and a => Sys2Proof.Machine.execAnd a s
  | .andi a => Sys2Proof.Machine.execAndi a s
  | .or a => Sys2Proof.Machine.execOr a s
  | .ori a => Sys2Proof.Machine.execOri a s
  | .xor a => Sys2Proof.Machine.execXor a s
  | .xori a => Sys2Proof.Machine.execXori a s
  | .andn a => Sys2Proof.Machine.execAndn a s
  | .lop3 a => Sys2Proof.Machine.execLop3 a s
  | .shl a => Sys2Proof.Machine.execShl a s
  | .shr a => Sys2Proof.Machine.execShr a s
  | .sar a => Sys2Proof.Machine.execSar a s
  | .shli a => Sys2Proof.Machine.execShli a s
  | .shri a => Sys2Proof.Machine.execShri a s
  | .sari a => Sys2Proof.Machine.execSari a s
  | .rotl a => Sys2Proof.Machine.execRotl a s
  | .popc a => Sys2Proof.Machine.execPopc a s
  | .clz a => Sys2Proof.Machine.execClz a s
  | .brev a => Sys2Proof.Machine.execBrev a s
  | .bfxs a => Sys2Proof.Machine.execBfxs a s
  | .bfxu a => Sys2Proof.Machine.execBfxu a s
  | .bfi a => Sys2Proof.Machine.execBfi a s
  | .prmt a => Sys2Proof.Machine.execPrmt a s
  | .sel a => Sys2Proof.Machine.execSel a s
  | .icmps a => Sys2Proof.Machine.execIcmps a s
  | .icmpu a => Sys2Proof.Machine.execIcmpu a s
  | .plop a => Sys2Proof.Machine.execPlop a s
  | .kballot a => Sys2Proof.Machine.execKballot a s
  | .kpopc a => Sys2Proof.Machine.execKpopc a s
  | .kfind a => Sys2Proof.Machine.execKfind a s
  | .klop a => Sys2Proof.Machine.execKlop a s
  | .kset a => Sys2Proof.Machine.execKset a s
  | .wmov a => Sys2Proof.Machine.execWmov a s
  | .shfl a => Sys2Proof.Machine.execShfl a s
  | .srrd a => Sys2Proof.Machine.execSrrd a s
  | .srwr a => Sys2Proof.Machine.execSrwr a s
  | .bra a => Sys2Proof.Machine.execBra a s
  | .brx a => Sys2Proof.Machine.execBrx a s
  | .call a => Sys2Proof.Machine.execCall a s
  | .callx a => Sys2Proof.Machine.execCallx a s
  | .ret a => Sys2Proof.Machine.execRet a s
  | .reform a => Sys2Proof.Machine.execReform a s
  | .yield a => Sys2Proof.Machine.execYield a s
  | .exit a => Sys2Proof.Machine.execExit a s
  | .trap a => Sys2Proof.Machine.execTrap a s
  | .bkpt a => Sys2Proof.Machine.execBkpt a s
  | .unassignedOpcode word code => Sys2Proof.Machine.execUnassignedOpcode word code s
  | .ld a => Sys2Proof.Machine.execLd a s
  | .st a => Sys2Proof.Machine.execSt a s
  | .lds a => Sys2Proof.Machine.execLds a s
  | .sts a => Sys2Proof.Machine.execSts a s
  | .ldw a => Sys2Proof.Machine.execLdw a s
  | .ldws a => Sys2Proof.Machine.execLdws a s
  | .atom a => Sys2Proof.Machine.execAtom a s
  | .atoms a => Sys2Proof.Machine.execAtoms a s
  | .atomf a => Sys2Proof.Machine.execAtomf a s
  | .cas a => Sys2Proof.Machine.execCas a s
  | .cass a => Sys2Proof.Machine.execCass a s
  | .acq a => Sys2Proof.Machine.execAcq a s
  | .rel a => Sys2Proof.Machine.execRel a s
  | .brld a => Sys2Proof.Machine.execBrld a s
  | .brset a => Sys2Proof.Machine.execBrset a s
  | .fence a => Sys2Proof.Machine.execFence a s
  | .fencex a => Sys2Proof.Machine.execFencex a s
  | .bar a => Sys2Proof.Machine.execBar a s
  | .barx a => Sys2Proof.Machine.execBarx a s
  | .waitc a => Sys2Proof.Machine.execWaitc a s
  | .waitcSatisfied wave frag => Sys2Proof.Machine.execWaitcSatisfied wave frag s
  | .waiteq a => Sys2Proof.Machine.execWaiteq a s
  | .waiteqSatisfied wave frag => Sys2Proof.Machine.execWaiteqSatisfied wave frag s
  | .copy a => Sys2Proof.Machine.execCopy a s
  | .copyw a => Sys2Proof.Machine.execCopyw a s
  | .copyBox core => Sys2Proof.Machine.execCopyBox core s
  | .pref a => Sys2Proof.Machine.execPref a s
  | .sracq a => Sys2Proof.Machine.execSracq a s
  | .srcommit a => Sys2Proof.Machine.execSrcommit a s
  | .srwait a => Sys2Proof.Machine.execSrwait a s
  | .srfree a => Sys2Proof.Machine.execSrfree a s
  | .ringWaitSatisfied wave frag => Sys2Proof.Machine.execRingWaitSatisfied wave frag s
  | .coll a => Sys2Proof.Machine.execColl a s
  | .collComplete func set others => Sys2Proof.Machine.execCollComplete func set others s
  | .collHeaderTimeout func set => Sys2Proof.Machine.execCollHeaderTimeout func set s
  | .allot a => Sys2Proof.Machine.execAllot a s
  | .allotGrant gid => Sys2Proof.Machine.execAllotGrant gid s
  | .allotSpill core => Sys2Proof.Machine.execAllotSpill core s
  | .allotrel a => Sys2Proof.Machine.execAllotrel a s
  | .fork a => Sys2Proof.Machine.execFork a s
  | .sync a => Sys2Proof.Machine.execSync a s
  | .phend a => Sys2Proof.Machine.execPhend a s
  | .tsinit a => Sys2Proof.Machine.execTsinit a s
  | .tsrel a => Sys2Proof.Machine.execTsrel a s
  | .depinit a => Sys2Proof.Machine.execDepinit a s
  | .depinitSelf a => Sys2Proof.Machine.execDepinitSelf a s
  | .depdec a => Sys2Proof.Machine.execDepdec a s
  | .tqpost a => Sys2Proof.Machine.execTqpost a s
  | .gcall a => Sys2Proof.Machine.execGcall a s
  | .gateFrameFree gid => Sys2Proof.Machine.execGateFrameFree gid s
  | .gret a => Sys2Proof.Machine.execGret a s
  | .nopre a => Sys2Proof.Machine.execNopre a s
  | .preon a => Sys2Proof.Machine.execPreon a s
  | .regionLimitExpiry gid => Sys2Proof.Machine.execRegionLimitExpiry gid s
  | .fadd a => Sys2Proof.Machine.execFadd a s
  | .fsub a => Sys2Proof.Machine.execFsub a s
  | .fmul a => Sys2Proof.Machine.execFmul a s
  | .ffma a => Sys2Proof.Machine.execFfma a s
  | .fmin a => Sys2Proof.Machine.execFmin a s
  | .fmax a => Sys2Proof.Machine.execFmax a s
  | .fcmp a => Sys2Proof.Machine.execFcmp a s
  | .frcp a => Sys2Proof.Machine.execFrcp a s
  | .frsq a => Sys2Proof.Machine.execFrsq a s
  | .fsqrt a => Sys2Proof.Machine.execFsqrt a s
  | .fdiv a => Sys2Proof.Machine.execFdiv a s
  | .fexp2 a => Sys2Proof.Machine.execFexp2 a s
  | .flog2 a => Sys2Proof.Machine.execFlog2 a s
  | .fsin a => Sys2Proof.Machine.execFsin a s
  | .fcos a => Sys2Proof.Machine.execFcos a s
  | .fclass a => Sys2Proof.Machine.execFclass a s
  | .frnd a => Sys2Proof.Machine.execFrnd a s
  | .fldexp a => Sys2Proof.Machine.execFldexp a s
  | .cvtf a => Sys2Proof.Machine.execCvtf a s
  | .cvtfi a => Sys2Proof.Machine.execCvtfi a s
  | .cvtif a => Sys2Proof.Machine.execCvtif a s
  | .pack2 a => Sys2Proof.Machine.execPack2 a s
  | .unpk2 a => Sys2Proof.Machine.execUnpk2 a s
  | .hadd2 a => Sys2Proof.Machine.execHadd2 a s
  | .hmul2 a => Sys2Proof.Machine.execHmul2 a s
  | .hfma2 a => Sys2Proof.Machine.execHfma2 a s
  | .idp4 a => Sys2Proof.Machine.execIdp4 a s
  | .wred a => Sys2Proof.Machine.execWred a s
  | .derivx a => Sys2Proof.Machine.execDerivx a s
  | .derivy a => Sys2Proof.Machine.execDerivy a s
  | .interp a => Sys2Proof.Machine.execInterp a s
  | .ldstat a => Sys2Proof.Machine.execLdstat a s
  | .ldstatw a => Sys2Proof.Machine.execLdstatw a s
  | .swappl a => Sys2Proof.Machine.execSwappl a s
  | .mstream a => Sys2Proof.Machine.execMstream a s
  | .mstreams a => Sys2Proof.Machine.execMstreams a s
  | .mstreamc a => Sys2Proof.Machine.execMstreamc a s
  | .matrixRow wave frag => Sys2Proof.Machine.execMatrixRow wave frag s
  | .mckvChk a => Sys2Proof.Machine.execMckvChk a s
  | .mckvFix a => Sys2Proof.Machine.execMckvFix a s
  | .mckvBase a => Sys2Proof.Machine.execMckvBase a s
  | .accz a => Sys2Proof.Machine.execAccz a s
  | .acczAll a => Sys2Proof.Machine.execAcczAll a s
  | .accrd a => Sys2Proof.Machine.execAccrd a s
  | .accwr a => Sys2Proof.Machine.execAccwr a s
  | .accld a => Sys2Proof.Machine.execAccld a s
  | .accst a => Sys2Proof.Machine.execAccst a s
  | .accsclRow a => Sys2Proof.Machine.execAccsclRow a s
  | .accsclCol a => Sys2Proof.Machine.execAccsclCol a s
  | .accredSum a => Sys2Proof.Machine.execAccredSum a s
  | .accredMax a => Sys2Proof.Machine.execAccredMax a s
  | .accredTile a => Sys2Proof.Machine.execAccredTile a s
  | .mdld a => Sys2Proof.Machine.execMdld a s
  | .rastri a => Sys2Proof.Machine.execRastri a s
  | .traverse a => Sys2Proof.Machine.execTraverse a s
  | .filter a => Sys2Proof.Machine.execFilter a s
  | .oblend a => Sys2Proof.Machine.execOblend a s
  | .shadeq a => Sys2Proof.Machine.execShadeq a s
  | .hitsort a => Sys2Proof.Machine.execHitsort a s
  | .anyhitNext a => Sys2Proof.Machine.execAnyhitNext a s
  | .anyhitAcc a => Sys2Proof.Machine.execAnyhitAcc a s
  | .anyhitTerm a => Sys2Proof.Machine.execAnyhitTerm a s
  | .anyhitCommit a => Sys2Proof.Machine.execAnyhitCommit a s
  | .gqpush a => Sys2Proof.Machine.execGqpush a s
  | .gqpushClose a => Sys2Proof.Machine.execGqpushClose a s
  | .gqpop a => Sys2Proof.Machine.execGqpop a s
  | .hizq a => Sys2Proof.Machine.execHizq a s
  | .macroPrim a => Sys2Proof.Machine.execMacroPrim a s
  | .bop a => Sys2Proof.Machine.execBop a s
  | .sequencerStep wave frag lane => Sys2Proof.Machine.execSequencerStep wave frag lane s
  | .macroWaitSatisfied wave frag lane => Sys2Proof.Machine.execMacroWaitSatisfied wave frag lane s
  | .bucketAgeRelease core bucket => Sys2Proof.Machine.execBucketAgeRelease core bucket s
  | .pourRingPass core bucket => Sys2Proof.Machine.execPourRingPass core bucket s
  | .eretRetry a => Sys2Proof.Machine.execEretRetry a s
  | .eretSkip a => Sys2Proof.Machine.execEretSkip a s
  | .eretExit a => Sys2Proof.Machine.execEretExit a s
  | .eretExitall a => Sys2Proof.Machine.execEretExitall a s
  | .srwrp a => Sys2Proof.Machine.execSrwrp a s
  | .tlbinvPage a => Sys2Proof.Machine.execTlbinvPage a s
  | .tlbinvPasid a => Sys2Proof.Machine.execTlbinvPasid a s
  | .tlbinvIpa a => Sys2Proof.Machine.execTlbinvIpa a s
  | .tlbinvFunc a => Sys2Proof.Machine.execTlbinvFunc a s
  | .tlbinvDom a => Sys2Proof.Machine.execTlbinvDom a s
  | .tlbinvAll a => Sys2Proof.Machine.execTlbinvAll a s
  | .tlbinvComplete wave frag => Sys2Proof.Machine.execTlbinvComplete wave frag s
  | .domsetEnd a => Sys2Proof.Machine.execDomsetEnd a s
  | .domsetStat a => Sys2Proof.Machine.execDomsetStat a s
  | .finjAcc a => Sys2Proof.Machine.execFinjAcc a s
  | .finjAccue a => Sys2Proof.Machine.execFinjAccue a s
  | .finjSpue a => Sys2Proof.Machine.execFinjSpue a s
  | .finjLineue a => Sys2Proof.Machine.execFinjLineue a s
  | .finjReplay a => Sys2Proof.Machine.execFinjReplay a s
  | .finjSig a => Sys2Proof.Machine.execFinjSig a s
  | .mcload a => Sys2Proof.Machine.execMcload a s
  | .mcloadDone wave frag => Sys2Proof.Machine.execMcloadDone wave frag s
  | .sigcmpCmp a => Sys2Proof.Machine.execSigcmpCmp a s
  | .sigcmpRd a => Sys2Proof.Machine.execSigcmpRd a s
  | .halt a => Sys2Proof.Machine.execHalt a s
  | .asyncCauseEntry wave => Sys2Proof.Machine.execAsyncCauseEntry wave s
  | .memoryResponse key remote mark => Sys2Proof.Machine.execMemoryResponse key remote mark s
  | .binAgeRelease core bin => Sys2Proof.Machine.execBinAgeRelease core bin s
  | .packetAccept src => Sys2Proof.Machine.execPacketAccept src s
  | .gangAdmission gang => Sys2Proof.Machine.execGangAdmission gang s
  | .phaseAdmission gang => Sys2Proof.Machine.execPhaseAdmission gang s
  | .admissionThrottle core => Sys2Proof.Machine.execAdmissionThrottle core s
  | .timeSliceEnd gang => Sys2Proof.Machine.execTimeSliceEnd gang s
  | .preemptionRequest gang => Sys2Proof.Machine.execPreemptionRequest gang s
  | .drainCut core => Sys2Proof.Machine.execDrainCut core s
  | .evictionSave core => Sys2Proof.Machine.execEvictionSave core s
  | .waveRestore core => Sys2Proof.Machine.execWaveRestore core s
  | .launchCompletion lid => Sys2Proof.Machine.execLaunchCompletion lid s
  | .rotationRound die => Sys2Proof.Machine.execRotationRound die s
  | .cuppingTestDone die pass => Sys2Proof.Machine.execCuppingTestDone die pass s
  | .replayWindow die => Sys2Proof.Machine.execReplayWindow die s
  | .lateTransition core slot => Sys2Proof.Machine.execLateTransition core slot s
  | .ueDetected site => Sys2Proof.Machine.execUeDetected site s
  | .wsRefreshWindow die bank fixed bad => Sys2Proof.Machine.execWsRefreshWindow die bank fixed bad s
  | .wsSealEffect region => Sys2Proof.Machine.execWsSealEffect region s
  | .sweeperVisit block => Sys2Proof.Machine.execSweeperVisit block s
  | .faultResponse func => Sys2Proof.Machine.execFaultResponse func s
  | .faultTmoExpiry func fid => Sys2Proof.Machine.execFaultTmoExpiry func fid s
  | .remoteAccessTimeout key refused => Sys2Proof.Machine.execRemoteAccessTimeout key refused s
  | .ethernetFrame frame => Sys2Proof.Machine.execEthernetFrame frame s
  | .rdmaWrite func j => Sys2Proof.Machine.execRdmaWrite func j s
  | .rdmaRead func j => Sys2Proof.Machine.execRdmaRead func j s
  | .rdmaNotifyWrite func j => Sys2Proof.Machine.execRdmaNotifyWrite func j s
  | .rdmaFaultResponseWrite func j => Sys2Proof.Machine.execRdmaFaultResponseWrite func j s
  | .rdmaUnsupported func j => Sys2Proof.Machine.execRdmaUnsupported func j s
  | .qpRetryExceeded func j => Sys2Proof.Machine.execQpRetryExceeded func j s
  | .hostPortLinkDown port => Sys2Proof.Machine.execHostPortLinkDown port s
  | .flitReceive port flit => Sys2Proof.Machine.execFlitReceive port flit s
  | .peerLaunchPacket sender func q packet => Sys2Proof.Machine.execPeerLaunchPacket sender func q packet s
  | .domainRequest sender req => Sys2Proof.Machine.execDomainRequest sender req s
  | .frarokLaneFailure port lane => Sys2Proof.Machine.execFrarokLaneFailure port lane s
  | .retrainDone port failed peer => Sys2Proof.Machine.execRetrainDone port failed peer s
  | .powerOn inputs => Sys2Proof.Machine.execPowerOn inputs s
  | .powerPeriod mw tj => Sys2Proof.Machine.execPowerPeriod mw tj s
  | .thermal105 tj => Sys2Proof.Machine.execThermal105 tj s
  | .thermalStop tj => Sys2Proof.Machine.execThermalStop tj s
  | .getVersion => Sys2Proof.Machine.execGetVersion s
  | .getCapabilities => Sys2Proof.Machine.execGetCapabilities s
  | .negotiateAlgorithms => Sys2Proof.Machine.execNegotiateAlgorithms s
  | .getDigests => Sys2Proof.Machine.execGetDigests s
  | .getCertificate slot offset len => Sys2Proof.Machine.execGetCertificate slot offset len s
  | .challenge slot nonce => Sys2Proof.Machine.execChallenge slot nonce s
  | .getMeasurements index => Sys2Proof.Machine.execGetMeasurements index s
  | .spdmUnsupportedRequest code => Sys2Proof.Machine.execSpdmUnsupportedRequest code s
  | .functionTableWrite func word v => Sys2Proof.Machine.execFunctionTableWrite func word v s
  | .frst func => Sys2Proof.Machine.execFrst func s
  | .regionSealWrite region v => Sys2Proof.Machine.execRegionSealWrite region v s
  | .domend v => Sys2Proof.Machine.execDomend v s
  | .haltrel v => Sys2Proof.Machine.execHaltrel v s
  | .fswCtlWrite block v => Sys2Proof.Machine.execFswCtlWrite block v s
  | .fswStatClear block v => Sys2Proof.Machine.execFswStatClear block v s
  | .fqctlWrite func v => Sys2Proof.Machine.execFqctlWrite func v s
  | .fqrespWrite func v => Sys2Proof.Machine.execFqrespWrite func v s
  | .fqstatClear func v => Sys2Proof.Machine.execFqstatClear func v s
  | .counterClear addr => Sys2Proof.Machine.execCounterClear addr s
  | .fpctlRetrain port => Sys2Proof.Machine.execFpctlRetrain port s
  | .pwrcapWrite v => Sys2Proof.Machine.execPwrcapWrite v s
  | .mrreadWrite v => Sys2Proof.Machine.execMrreadWrite v s
  | .queueEntryWrite func q word v => Sys2Proof.Machine.execQueueEntryWrite func q word v s
  | .registerWrite addr v => Sys2Proof.Machine.execRegisterWrite addr v s
  | .waitingWorkClass7 gang => Sys2Proof.Machine.execWaitingWorkClass7 gang s
  | .qpRetransmitTimeout func j => Sys2Proof.Machine.execQpRetransmitTimeout func j s
  | .tileOperationComplete key => Sys2Proof.Machine.execTileOperationComplete key s
  | .storePerformed key => Sys2Proof.Machine.execStorePerformed key s
  | .microcodeStoreReload core => Sys2Proof.Machine.execMicrocodeStoreReload core s
  | .degradedClusterTest die phys pass => Sys2Proof.Machine.execDegradedClusterTest die phys pass s
  | .hbm4ChannelCopyDone stack => Sys2Proof.Machine.execHbm4ChannelCopyDone stack s
  | .memoryChannelFailure ddr stack channel => Sys2Proof.Machine.execMemoryChannelFailure ddr stack channel s
  | .domainEndingDone => Sys2Proof.Machine.execDomainEndingDone s
  | .functionResetDone func => Sys2Proof.Machine.execFunctionResetDone func s

end Sys2Proof.Machine
end

