-- ==== Sys2Proof/Machine/Choose.lean ====
section
/-!
DEFINITION. What the next step performs (log 1): the scheduled acts first; else, by turns, the issue of a fragment (spec 11,
R309, R312) and an internal event whose condition holds; else a cycle passes. What comes from outside the device (frames,
flits, requests, readings, test results, the PF software's register writes) is never chosen here: it stands in the agenda.
-/

namespace Sys2Proof.Machine

/-! ### Internal events -/

/-- The meaning of an event: what `exec` answers for it. -/
abbrev Event := State → Host.Outcome State Fault Refusal

/-- The events that may end or carry on the wait of fragment `f` of wave `w`. -/
def waitEvents (w f : Nat) (fr : Frag) : List Event :=
  match fr.st with
  | .wait wt =>
    match wt.instr with
    | .waitc _ => [execWaitcSatisfied w f]
    | .waiteq _ => [execWaiteqSatisfied w f]
    | .sracq _ => [execRingWaitSatisfied w f]
    | .srwait _ => [execRingWaitSatisfied w f]
    | .mcload _ => [execMcloadDone w f]
    | .tlbinvPage _ => [execTlbinvComplete w f]
    | .tlbinvIpa _ => [execTlbinvComplete w f]
    | .tlbinvPasid _ => [execTlbinvComplete w f]
    | .tlbinvFunc _ => [execTlbinvComplete w f]
    | .tlbinvDom _ => [execTlbinvComplete w f]
    | .tlbinvAll _ => [execTlbinvComplete w f]
    | .mstream _ => [execMatrixRow w f]
    | .mstreams _ => [execMatrixRow w f]
    | .mstreamc _ => [execMatrixRow w f]
    | i => if 0xD0 ≤ opcodeOf i && opcodeOf i < 0xF0 then
        (lanesOf fr.mask).flatMap (fun l => [execSequencerStep w f l, execMacroWaitSatisfied w f l])
      else []
  | _ => []

/-- Whether an access waits for more from another device or a host than a host's acknowledgements. -/
def Flight.awaits (f : Flight) : Bool :=
  f.parts.any (fun p => match p.loc with
    | .dom _ => true
    | .host _ => fetches f.instr || !f.sent
    | _ => false)

/-- The events that perform an access in flight; one that reaches another device or a host waits for an answer from outside, or
for 1 ms to pass (spec 20, R463). -/
def flightEvents (k : Nat) (f : Flight) : List Event :=
  (if f.awaits then [] else match raisesOf f.instr with
    | some 0 => [execMemoryResponse k [] none]
    | some 1 => [execStorePerformed k]
    | _ => [execTileOperationComplete k])
  ++ (if f.parts.any (fun p => p.loc.remote) then [execRemoteAccessTimeout k false] else [])

/-- The events of the accesses in flight; one that no port can carry is refused. -/
def State.flightEvents (s : State) : List Event :=
  s.flights.flatMap (fun p => (if s.cutOff p.2 then [execRemoteAccessTimeout p.1 true] else []) ++ Machine.flightEvents p.1 p.2)

/-- Events of waves. -/
def State.waveEvents (s : State) : List Event :=
  s.waves.flatMap (fun p => execAsyncCauseEntry p.1 :: p.2.frags.zipIdx.flatMap (fun e => waitEvents p.1 e.2 e.1))

/-- Events of groups and their collectives. -/
def State.groupEvents (s : State) : List Event :=
  s.groups.flatMap (fun p => [execAllotGrant p.1, execGateFrameFree p.1, execRegionLimitExpiry p.1])
    ++ s.flights.filterMap (fun p => match p.2.instr with
      | .coll a => (Map.find s.groups p.2.gid).map (fun g => execCollComplete g.func a.set.val [])
      | _ => none)

/-- Events of one core. -/
def coreEvents (c : Nat) (r : Core) : List Event :=
  [execCopyBox c, execAllotSpill c, execDrainCut c, execEvictionSave c, execWaveRestore c, execAdmissionThrottle c]
    ++ (List.range r.bins.length).map (fun b => execBinAgeRelease c b)
    ++ (List.range r.buckets.length).flatMap (fun b => [execBucketAgeRelease c b, execPourRingPass c b])
    ++ (if r.ucode then [] else [execMicrocodeStoreReload c])

/-- Events of gangs and launches. -/
def State.gangEvents (s : State) : List Event :=
  s.gangs.flatMap (fun p => [execGangAdmission p.1, execPhaseAdmission p.1, execPreemptionRequest p.1, execTimeSliceEnd p.1,
      execWaitingWorkClass7 p.1])
    ++ s.launches.map (fun p => execLaunchCompletion p.1)

/-- The queues of a function that hold packets, among those whose entry's first byte, which holds EN, is not zero. -/
def State.queueEvents (s : State) (f : Nat) : List Event :=
  if (s.ftWord f 0).testBit 63 then
    let qs := s.mem.cells.filterMap (fun c =>
      let o := c.1 - s.ftBase f 4
      if s.ftBase f 4 ≤ c.1 && o < 65536 && o % 32 == 0 then some (o / 32) else none)
    (qs.filter (fun q => s.queueOn f q && s.queueHead f q != s.queueTail f q)).map (fun q => execPacketAccept (.queue f q))
  else []

/-- Packets, and the host's requests. -/
def State.hostEvents (s : State) : List Event :=
  (if s.host.peerq.isEmpty then [] else [execPacketAccept .peer])
    ++ (List.range 64).flatMap s.queueEvents
    ++ s.host.inbox.map (fun r => match r.req with
      | .read _ _ _ => execRdmaRead r.func r.qp
      | .other _ | .ack _ | .nak _ _ => execRdmaUnsupported r.func r.qp
      | .write k _ _ => if k = 0x80000100 then execRdmaFaultResponseWrite r.func r.qp
          else if 0x80000000 ≤ k ∧ k < 0x80000100 then execRdmaNotifyWrite r.func r.qp
          else execRdmaWrite r.func r.qp)
    ++ s.host.sent.flatMap (fun e => [execQpRetransmitTimeout e.func e.qp, execQpRetryExceeded e.func e.qp])

/-- Events of translation, tiers, resets and the management core. -/
def State.deviceEvents (s : State) : List Event :=
  s.mmu.resps.map (fun p => execFaultResponse p.1)
    ++ s.mmu.recs.filterMap (fun p => p.2.fid.map (fun k => execFaultTmoExpiry p.2.func k))
    ++ [execSweeperVisit 0, execSweeperVisit 1]
    ++ s.mem.regions.filterMap (fun p => if p.2.sealing then some (execWsSealEffect p.1) else none)
    ++ (if s.rep.ending.isEmpty then [] else [execDomainEndingDone])
    ++ s.host.frst.map (fun f => execFunctionResetDone f)
    ++ s.mgmt.stackCopying.map (fun p => execHbm4ChannelCopyDone p.1)
    ++ [execRotationRound 0, execRotationRound 1, execReplayWindow 0, execReplayWindow 1]

/-- Every internal event that may be due. -/
def State.internalEvents (s : State) : List Event :=
  s.waveEvents ++ s.flightEvents ++ s.groupEvents ++ s.cores.flatMap (fun p => coreEvents p.1 p.2) ++ s.gangEvents
    ++ s.hostEvents ++ s.deviceEvents

/-- The state after an event whose condition holds, which changes the state; none otherwise. -/
def State.after? (s : State) (e : Event) : Option State :=
  match e s with
  | .next t => if t = s then none else some t
  | _ => none

/-- The state after the first internal event that is due, beginning at one that turns with the clock. -/
def State.dueEvent (s : State) : Option State :=
  let l := s.internalEvents
  let k := s.tick / 2 % max 1 l.length
  (l.drop k ++ l.take k).findSome? s.after?

/-! ### Performing acts -/

/-- Whether an instruction is one that only a fragment issues. -/
def isIssued (i : Instr) : Bool := (encode i).isSome

/-- The issue of fragment `f` of wave `w`, where that is what its slot issues now: fetch, decode, execute. Any other issue
that was scheduled does nothing (spec 11, R309, R312). -/
def State.performIssue (s : State) (w f : Nat) : Host.Outcome State Fault Refusal :=
  if s.chosen w f then
    match s.prepare w f with
    | .ended t => .next t
    | .run i t => match exec i t with
      | .next u => .next (match t.issuer i with
        | some x => u.ranOn x
        | none => u)
      | .fault e => .fault e
      | .refused e => .refused e
  else .next s

/-- Cycles pass, in each of which full bins release a wave; a group has at most 32 waves. -/
def State.idle (s : State) (n : Nat) : State :=
  { (List.range (min n 32)).foldl (fun (s : State) _ => s.cycle) s with tick := s.tick + n }

/-- Perform a scheduled act. -/
def State.perform (s : State) (a : Act) : Host.Outcome State Fault Refusal :=
  match a with
  | .issue w f => s.performIssue w f
  | .event i => if isIssued i then .next s else exec i s
  | .idle n => .next (s.idle n)

/-! ### The choice -/

/-- The fragment that issues: the candidates in turn. -/
def State.issueChoice (s : State) : Option (Nat × Nat) :=
  let cs := s.candidates
  cs[s.tick / 2 % max 1 cs.length]?

/-- Where nothing is scheduled: in even cycles the issue of a fragment goes first, in odd ones an event that is due. -/
def State.performDefault (s : State) : Host.Outcome State Fault Refusal :=
  if s.tick % 2 = 0 then
    match s.issueChoice with
    | some (w, f) => s.performIssue w f
    | none => .next (s.dueEvent.getD (s.idle 1))
  else
    match s.dueEvent with
    | some t => .next t
    | none => match s.issueChoice with
      | some (w, f) => s.performIssue w f
      | none => .next (s.idle 1)

/-- One step: the act at the head of the agenda, which leaves it, or the default choice; then the clock moves on. -/
def State.stepOnce (s : State) : Host.Outcome State Fault Refusal :=
  match (match s.agenda with
    | a :: r => ({ s with agenda := r } : State).perform a
    | [] => s.performDefault) with
  | .next t => .next t.sendReady.cycle
  | .fault e => .fault e
  | .refused e => .refused e

end Sys2Proof.Machine
end

