-- ==== Sys2Proof/Machine/Place.lean ====
section
/-!
DEFINITION. An instruction word laid out where the next step fetches (log 45): in the place of the fragment that would issue
next, or, where none would, in a launch of one thread that stands ready to issue it.
-/

namespace Sys2Proof.Machine

/-! ### Where the next step fetches -/

/-- The fragment that the next step would issue, if any. -/
def State.nextFetch (s : State) : Option (Nat × Nat) :=
  match s.agenda.head? with
  | some (.issue w f) => some (w, f)
  | _ => none

/-- The physical address fragment `f` of wave `w` fetches from, if it may issue and its page allows it. -/
def State.fetchPa (s : State) (w f : Nat) : Option Nat :=
  match Map.find s.waves w with
  | none => none
  | some v =>
    match v.frags[f]?, Map.find s.groups v.gid with
    | some fr, some g =>
      if s.eligible w v fr && (s.pendingEntry w).isNone then
        match s.tlbHit g.ctx fr.pc.toNat .fetch with
        | some t => if t.nc then none else some (t.pbase + (fr.pc.toNat - t.vbase))
        | none => none
      else none
    | _, _ => none

/-! ### A launch of one thread -/

/-- The address of the word, virtual and physical. -/
def placePc : Nat := 0x1000

/-- The code of the role that may issue an opcode (spec 02, R34). -/
def placeKind (op : Nat) : Nat :=
  if op = 0x5D ∨ op = 0x5E ∨ op = 0x5F then 0
  else if 0xB0 ≤ op ∧ op < 0xD0 then 1
  else if 0xD0 ≤ op ∧ op < 0xF0 then 3
  else 2

/-- A record of one thread in one group: NPOK, one scratchpad page, 256 registers, and slots of 32-bit formats. -/
def placeRecord (op : Nat) : List W64 :=
  [BitVec.ofNat 64 (2 ^ 49 + 2 ^ 38 + 2 ^ 35 + 2 ^ 22), 0, 0, 0, 0,
   BitVec.ofNat 64 (placePc / 8 * 2 ^ 10 + placeKind op * 2 ^ 8 + 31 * 8), 0, 0, 0,
   0x7700000077000000, 0x7700000077000000, 0x7700000077000000, 0x7700000077000000]

/-- The handler mode that an `ERET` is executed in. -/
def placeHandler (op : Nat) : Option HMode :=
  if op = 0xF0 then
    some { fault := 1, held := 0, epc := BitVec.ofNat 57 placePc, rest := [], async := false, code := 0 }
  else none

/-- The TLB entry of the pages the thread runs in: the first 2 MiB. -/
def placeTlb : TlbEntry :=
  { die := 0, func := 0, pasid := 0, domain := 0, vbase := 0, pbase := 0, size := 0x200000, ibase := 0, isize := 0x200000,
    leaf1 := 0, leaf2 := 0, r := true, w := true, x := true, nc := false, aSet := true, dSet := true }

/-- The launch, its gang, its group, its wave and its thread; the wave stands ready at the word. -/
def State.placeLaunch (s : State) (op : Nat) : State :=
  let k := s.nextKey
  let pc : VA := BitVec.ofNat 57 placePc
  let l : Launch := { (launchRec (placeRecord op) [] [] 0 0 0 0 0 0 0 k (decide (0xF0 ≤ op))
    (if op = 0xF5 then .mgmt else .queue)) with bound := true, nextGang := 1 }
  let g : Gang :=
    { lid := k, num := 0, groups := [k + 2], die := 0, cluster := 0, st := .resident, relaunches := 0, since := s.tick,
      asked := none, class7 := false, parent := none, fargs := [], frameArea := 0, twin := none }
  let v : Wave :=
    { gid := k + 2, core := 0, slot := 0, wr := [], kr := [],
      frags := [{ mask := 1, pc := pc, st := .ready, hnd := (placeHandler op).isSome }], hr := .init,
      handler := placeHandler op, asyncs := [], ovf := false, heldCauses := [], age := s.tick, ages := [], entry := 0, resident := true,
      replay := false, sigFlip := false, regionCause := none, draining := false }
  let t : Thread := { firstThread l g (k + 2) 0 0 pc with place := some (k + 3, 0) }
  let gr : Group := { firstGroup l k (k + 1) g 0 0 k s.tick with full := true }
  let s : State := { s with
    nextKey := k + 5
    launches := Map.put s.launches k l
    gangs := Map.put s.gangs (k + 1) g
    groups := Map.put s.groups (k + 2) gr
    waves := Map.put s.waves (k + 3) v
    threads := Map.put s.threads (k + 4) t
    mmu := { s.mmu with tlb := placeTlb :: s.mmu.tlb } }
  if placeKind op = 1 then s.takeEngine 0 (k + 2) .init else s

/-- The state with a word where the next step fetches it. -/
def State.placeWord (s : State) (nbits w : Nat) : State :=
  let b := toBytes 8 (w % 2 ^ nbits)
  match s.nextFetch.bind (fun p => s.fetchPa p.1 p.2) with
  | some pa => s.poke pa b
  | none =>
    let k := s.nextKey
    let s := (s.placeLaunch (w % 2 ^ nbits / 2 ^ 56)).poke placePc b
    { s with agenda := .issue (k + 3) 0 :: s.agenda }

end Sys2Proof.Machine
end

