-- ==== Sys2Proof/Safety.lean ====
section
/-!
DEFINITION. What counts as a safe run, and the terms that claims about single steps use: when an instruction issues with its
own effect, what a per-lane instruction leaves, when a wave enters its handler, and what stays as it was.
-/

namespace Sys2Proof.Machine

/-! ### Runs -/

/-- The machine takes `n` steps from `s` without a fault or a refusal. -/
def State.runsFor (s : State) : Nat → Prop
  | 0 => True
  | n + 1 => ∃ t, step s = .next t ∧ t.runsFor n

/-- A run from `s` is safe: the machine never stops. -/
def State.Safe (s : State) : Prop := ∀ n, s.runsFor n

/-! ### The issue of an instruction (spec 06, R136; spec 11, R311; spec 18, R406) -/

/-- The fragment `x` issues `i` with `i`'s own effect: it may issue, the scoreboard does not hold it, no injected replay is
pending, some lane has a true guard, the word meets no cause of stage 1, no cause of an ended region waits, the wave-uniform
registers and masks it reads are valid where that matters, no write signature differs, and no earlier access has to be
performed before it. -/
structure Issues (i : Instr) (s : State) (x : Iss) : Prop where
  issuer : s.issuer i = some x
  free : s.stalled x = false
  plain : x.v.replay = false
  lanes : x.on ≠ 0
  clear : s.stage1 x.g x.fr.hnd i = []
  noCause : x.v.regionCause = none
  valid : (strictReads i && (usesOf i).any (Use.invalid x.v)) = false
  agrees : s.sigDiffers x = false
  early : s.waitsBefore x.w x.v x.fr.mask x.on i = false

/-- `exec` answers the state `t` for `i` in `s`. -/
def Gives (i : Instr) (s t : State) : Prop := exec i s = .next t

/-! ### Lanes -/

/-- Thread `t` stands in a lane of wave `x.w` with a true guard. -/
def Iss.active (x : Iss) (t : Thread) : Prop := ∃ l, t.place = some (x.w, l) ∧ x.on.getLsbD l = true

/-- `p` holds of every active thread and its lane, both as the lanes of the wave find it and as the machine lists it. -/
def EachActive (s : State) (x : Iss) (p : Nat → Thread → Prop) : Prop :=
  (∀ l u, x.on.getLsbD l = true → s.laneThread x.w l = some u → p l u)
    ∧ ∀ e ∈ s.threads, ∀ l, e.2.place = some (x.w, l) → x.on.getLsbD l = true → p l e.2

/-- What an instruction that acts on each lane alone leaves: `f` of every active thread and its lane, every other thread as
it was, the issuing fragment at the next instruction, every other wave as it was, and nothing else changed. -/
structure LaneResult (s t : State) (x : Iss) (f : Nat → Thread → Thread) : Prop where
  acts : ∀ k u l, Map.find s.threads k = some u → u.place = some (x.w, l) → x.on.getLsbD l = true →
    Map.find t.threads k = some (f l u)
  keeps : ∀ k u, Map.find s.threads k = some u → ¬ x.active u → Map.find t.threads k = some u
  moves : Map.find t.waves x.w = some { x.v with frags := x.v.frags.set x.f { x.fr with pc := x.fr.pc + 8 } }
  others : ∀ w, w ≠ x.w → Map.find t.waves w = Map.find s.waves w
  frame : t = { s with threads := t.threads, waves := t.waves }

/-- Wherever `i` issues with its own effect it answers a next state, which is `f` of each active thread (`LaneResult`). -/
def ActsAs (i : Instr) (f : Iss → Nat → Thread → Thread) : Prop :=
  ∀ s x, Issues i s x → ∃ t, Gives i s t ∧ LaneResult s t x (f x)

/-- The issuing fragment stands, ready, at the next instruction. -/
def GoneOn (x : Iss) (t : State) : Prop := t.frag x.w x.f = some { x.fr with pc := x.fr.pc + 8 }

/-- Every byte of HBM4, DDR-5 and the weight store reads as before. -/
def SameMemory (s t : State) : Prop :=
  (∀ a, cellAt t.mem.cells a = cellAt s.mem.cells a) ∧ ∀ a, cellAt t.mem.ws a = cellAt s.mem.ws a

/-- Core `c` reads every byte of HBM4 and DDR-5 in `t` as in `s`. -/
def SameView (c : Nat) (s t : State) : Prop := ∀ a, t.byteAt (some c) a = s.byteAt (some c) a

/-- A line of an L1 holds bytes of its own unit, in order, and is whole only with all of them. -/
def Line.ok (e : Line) : Prop :=
  Map.wf e.dirty = true ∧ (∀ b ∈ e.dirty, b.1 / 128 = e.unit)
    ∧ (e.whole = true → e.dirty.map Prod.fst = List.range' (e.unit * 128) 128)

/-- Every L1 holds each unit once, in a line that is right. -/
def LinesOk (s : State) : Prop := ∀ c, ((s.core c).l1.map (·.unit)).Nodup ∧ ∀ e ∈ (s.core c).l1, e.ok

/-- The physical scratchpads hold every page that `n` bytes at a place touch, and no more pages than they have: no page moves. -/
def PagesHeld (s : State) (l : Loc) (n : Nat) : Prop :=
  ∀ k o i, l = .scr k o → o / 4096 ≤ i → i ≤ (o + max 1 n - 1) / 4096 → ∃ g, Map.find s.groups k = some g
    ∧ (k, i) ∈ (s.core g.core).pages ∧ Map.find g.scrOut i = none ∧ (s.core g.core).pages.length ≤ physPages

/-- `t` is `s` but for what the caches hold, and for the stores that have left L1s for memory. -/
def CachesOnly (s t : State) : Prop :=
  t = { s with cores := t.cores, host := { s.host with stalled := t.host.stalled }, mem := { s.mem with
      cells := t.mem.cells, l1Poison := t.mem.l1Poison, l2 := t.mem.l2, poison := t.mem.poison, l2Poison := t.mem.l2Poison,
      injected := t.mem.injected, rels := t.mem.rels } }
  ∧ ∀ c, t.core c = { s.core c with l1 := (t.core c).l1, pages := (t.core c).pages }

/-- The stores of group `g` have left the L1s between `s` and `t` (spec 04, R110): no line is dirty on its behalf any longer, and a
byte that one of them held, and no other L1 did, stands in memory. -/
def Flushed (s t : State) (g : Nat) : Prop :=
  (∀ c, ∀ e ∈ (t.core c).l1, e.gid = g → e.dirty = [])
    ∧ ∀ c e a b, e ∈ (s.core c).l1 → e.gid = g → Map.find e.dirty a = some b →
        (∀ d, d ≠ c → ∀ o ∈ (s.core d).l1, Map.find o.dirty a = none) → cellAt t.mem.cells a = b

/-- No store of a core stands in its L1 alone. -/
def Settled (s : State) : Prop := ∀ c, ∀ e ∈ (s.core c).l1, e.dirty = []

/-- No thread has changed. -/
def SameThreads (s t : State) : Prop := t.threads = s.threads

/-! ### Operand values in the width of a form (spec 07, R160) -/

/-- An operand as a bit vector of the form's width. -/
def opVal (w : Nat) (o : Opnd) (v : Wave) (t : Thread) : BitVec w := BitVec.ofNat w (opNat (w == 64) o v t)

/-- Write a bit vector of the form's width to a general register or pair. -/
def putVal (w : Nat) (o : Opnd) (b : BitVec w) (t : Thread) : Thread := opPut (w == 64) o b.toNat t

/-- `D := f(S1)` on bit vectors of the form's width. -/
def valued1 (a : A1) (f : (w : Nat) → BitVec w → BitVec w) (x : Iss) (_ : Nat) (u : Thread) : Thread :=
  putVal (wdOf a.wide) a.d (f _ (opVal _ a.s1 x.v u)) u

/-- `D := f(S1, S2)` on bit vectors of the form's width. -/
def valued2 (a : A2) (f : (w : Nat) → BitVec w → BitVec w → BitVec w) (x : Iss) (_ : Nat) (u : Thread) : Thread :=
  putVal (wdOf a.wide) a.d (f _ (opVal _ a.s1 x.v u) (opVal _ a.s2 x.v u)) u

/-- `D := f(S1, n)` where `n` is the unsigned value of the single register S2. -/
def valued2s (a : A2) (f : (w : Nat) → BitVec w → Nat → BitVec w) (x : Iss) (_ : Nat) (u : Thread) : Thread :=
  putVal (wdOf a.wide) a.d (f _ (opVal _ a.s1 x.v u) (opRead a.s2 x.v u).toNat) u

/-- `D := f(S1, IMM)`, the immediate sign-extended in the 64-bit form. -/
def valuedImm (a : A1i) (f : (w : Nat) → BitVec w → BitVec w → BitVec w) (x : Iss) (_ : Nat) (u : Thread) : Thread :=
  putVal (wdOf a.wide) a.d (f _ (opVal _ a.s1 x.v u) (a.imm.signExtend _)) u

/-- `D := f(S1, n)` where `n` is the immediate shift amount. -/
def valuedShi (a : ShiArgs) (f : (w : Nat) → BitVec w → Nat → BitVec w) (x : Iss) (_ : Nat) (u : Thread) : Thread :=
  putVal (wdOf a.wide) a.d (f _ (opVal _ a.s1 x.v u) a.sh.val) u

/-- The count, in a single register, of a function of S1. -/
def counted1 (a : A1) (f : (w : Nat) → BitVec w → Nat) (x : Iss) (_ : Nat) (u : Thread) : Thread :=
  opWrite a.d (BitVec.ofNat 32 (f _ (opVal (wdOf a.wide) a.s1 x.v u))) u

/-- The position of the field that descriptor `F` names in a value of `w` bits (spec 07, R172). -/
def fpos (w f : Nat) : Nat := min (f % 256) w

/-- The length of that field. -/
def flen (w f : Nat) : Nat := min (f / 256 % 256) (w - fpos w f)

/-! ### What an instruction may write -/

/-- The general registers an instruction names as destinations. -/
def destRegsOf (i : Instr) : List Nat := ((usesOf i).filter (fun u => !u.src)).flatMap Use.regs

/-- The predicate an instruction names as a destination. -/
def predDest : Instr → Option (Fin 8)
  | .iadd a => some a.co
  | .isub a => some a.co
  | .iaddc a => some a.co
  | .isubb a => some a.co
  | .icmps a => some a.pd
  | .icmpu a => some a.pd
  | .plop a => some a.pd
  | .fcmp a => some a.pd
  | _ => none

/-- The instructions that compute in each lane alone and never trap on a value: moves, integer and logic instructions but
the divisions, shifts, bit fields, comparisons, selections, and the vector arithmetic whose format is in the word. -/
def isLaneOnly : Instr → Bool
  | .nop _ => true
  | .mov _ => true
  | .movi _ => true
  | .movhi _ => true
  | .iadd _ => true
  | .iaddi _ => true
  | .iaddc _ => true
  | .isub _ => true
  | .isubb _ => true
  | .imul _ => true
  | .imulhs _ => true
  | .imulhu _ => true
  | .imulws _ => true
  | .imulwu _ => true
  | .imad _ => true
  | .lea _ => true
  | .imins _ => true
  | .iminu _ => true
  | .imaxs _ => true
  | .imaxu _ => true
  | .iabs _ => true
  | .and _ => true
  | .andi _ => true
  | .or _ => true
  | .ori _ => true
  | .xor _ => true
  | .xori _ => true
  | .andn _ => true
  | .lop3 _ => true
  | .shl _ => true
  | .shr _ => true
  | .sar _ => true
  | .shli _ => true
  | .shri _ => true
  | .sari _ => true
  | .rotl _ => true
  | .popc _ => true
  | .clz _ => true
  | .brev _ => true
  | .bfxs _ => true
  | .bfxu _ => true
  | .bfi _ => true
  | .prmt _ => true
  | .sel _ => true
  | .icmps _ => true
  | .icmpu _ => true
  | .plop _ => true
  | .fadd _ => true
  | .fsub _ => true
  | .fmul _ => true
  | .ffma _ => true
  | .fmin _ => true
  | .fmax _ => true
  | .fcmp _ => true
  | .frcp _ => true
  | .frsq _ => true
  | .fsqrt _ => true
  | .fdiv _ => true
  | .fexp2 _ => true
  | .flog2 _ => true
  | .fsin _ => true
  | .fcos _ => true
  | .fclass _ => true
  | .frnd _ => true
  | .fldexp _ => true
  | .hadd2 _ => true
  | .hmul2 _ => true
  | .hfma2 _ => true
  | .idp4 _ => true
  | .interp _ => true
  | _ => false

/-! ### Other shapes of effect -/

/-- The whole wave changes by `f` and the issuing fragment goes on; nothing else changes. -/
structure WaveResult (s t : State) (x : Iss) (f : Wave → Wave) : Prop where
  acts : Map.find t.waves x.w
    = some { (f x.v) with frags := x.v.frags.set x.f { x.fr with pc := x.fr.pc + 8 } }
  others : ∀ w, w ≠ x.w → Map.find t.waves w = Map.find s.waves w
  frame : t = { s with waves := t.waves }

/-- An instruction that writes a value in each lane, or, to a wave-uniform destination, that of the lowest active lane once
(spec 03, R61). -/
def UniformAs (i : Instr) (wide : Bool) (d : Opnd) (f : State → Iss → Nat → Thread → Nat) : Prop :=
  ∀ s x, Issues i s x →
    (opWave d = false → ∃ t, Gives i s t ∧ LaneResult s t x (fun l u => opPut wide d (f s x l u) u))
    ∧ (opWave d = true → ∀ l u, lowLane x.on = some l → s.laneThread x.w l = some u →
        ∃ t, Gives i s t ∧ WaveResult s t x (fun v => if wide then waveWrite64 d (BitVec.ofNat 64 (f s x l u)) v
          else waveWrite d (BitVec.ofNat 32 (f s x l u)) v))

/-- What a branch leaves: `f` of each active thread, which stands at the address `dest` gives, the fragment's other lanes at
the next instruction, and nothing else changed but the wave's fragments. -/
structure Branched (s t : State) (x : Iss) (f : Nat → Thread → Thread) (dest : Nat → Thread → VA) : Prop where
  acts : ∀ k u l, Map.find s.threads k = some u → u.place = some (x.w, l) → x.on.getLsbD l = true →
    Map.find t.threads k = some (f l u)
  keeps : ∀ k u, Map.find s.threads k = some u → ¬ x.active u → Map.find t.threads k = some u
  lands : ∀ l u, x.on.getLsbD l = true → s.laneThread x.w l = some u → ∃ v fr, Map.find t.waves x.w = some v
    ∧ fr ∈ v.frags ∧ fr.mask.getLsbD l = true ∧ fr.pc = dest l u ∧ fr.st = .ready
  stays : ∀ l, x.fr.mask.getLsbD l = true → x.on.getLsbD l = false → ∃ v fr, Map.find t.waves x.w = some v
    ∧ fr ∈ v.frags ∧ fr.mask.getLsbD l = true ∧ fr.pc = x.fr.pc + 8 ∧ fr.st = .ready
  others : ∀ w, w ≠ x.w → Map.find t.waves w = Map.find s.waves w
  frame : t = { s with threads := t.threads, waves := t.waves }

/-- The active lanes have left their wave between `s` and `t`: none of its fragments holds one, the issuing fragment's other
lanes are ready at the next instruction, each other fragment stands where it did without those lanes, the wave is there while a
thread stands in it, and every other wave is as it was. -/
structure LanesLeft (s t : State) (x : Iss) : Prop where
  gone : ∀ v, Map.find t.waves x.w = some v → ∀ fr ∈ v.frags, fr.mask &&& x.on = 0
  own : ∀ v, Map.find t.waves x.w = some v → x.fr.mask &&& ~~~x.on ≠ 0 → ∃ fr ∈ v.frags,
    fr.mask = x.fr.mask &&& ~~~x.on ∧ fr.pc = x.fr.pc + 8 ∧ fr.st = .ready
  stay : ∀ v i fr, Map.find t.waves x.w = some v → i ≠ x.f → x.v.frags[i]? = some fr → fr.mask &&& ~~~x.on ≠ 0 →
    ∃ q ∈ v.frags, q.mask = fr.mask &&& ~~~x.on ∧ q.pc = fr.pc ∧ q.hnd = fr.hnd
  there : ∀ k u, Map.find t.threads k = some u → u.place.map Prod.fst = some x.w → ∃ v, Map.find t.waves x.w = some v
  others : ∀ w, w ≠ x.w → Map.find t.waves w = Map.find s.waves w

/-- The lanes of the issuing fragment whose threads satisfy `p`, lowest first. -/
def State.lanesWith (s : State) (x : Iss) (p : Nat → Thread → Bool) : List (Nat × Thread) :=
  (lanesOf x.fr.mask).filterMap (fun l => match s.laneThread x.w l with
    | some u => if p l u then some (l, u) else none
    | none => none)

/-- Fragment `x` is the last to arrive at its join over `j` (spec 07, R177): its active lanes lie in `j`, every lane of `j`
stands in the wave and either is its own or has arrived at the same address with the same set, no join elsewhere waits for
one of its lanes, the fragments of the wave have no lane in common, and those that wait there keep guards and values of lanes
of `j` of their own. -/
structure JoinEnds (s : State) (x : Iss) (j : Mask) : Prop where
  inside : x.on &&& ~~~j = 0
  present : j &&& ~~~(s.waveLanes x.w) = 0
  part : x.fr.mask &&& j ≠ 0
  last : j &&& ~~~(x.fr.mask ||| s.arrived x.w x.fr.pc j) = 0
  alone : ∀ fr ∈ x.v.frags, fr.atJoin x.fr.pc j = false → ∀ k, fr.join = some k →
    x.fr.mask &&& j &&& BitVec.ofNat 32 k = 0
  apart : x.v.frags.Pairwise (fun a b => a.mask &&& b.mask = 0)
  kept : ∀ fr ∈ x.v.frags, fr.atJoin x.fr.pc j = true → ∀ wt, fr.waiting = some wt →
    wt.on &&& ~~~(fr.mask &&& j) = 0 ∧ ∀ e ∈ wt.vals, (fr.mask &&& j).getLsbD (e.1 % 32) = true

/-- The lanes with a true guard among those that have arrived at the join over `j` with fragment `x`. -/
def Iss.joinOn (x : Iss) (j : Mask) : Mask :=
  ((x.v.frags.filter (Frag.atJoin x.fr.pc j)).filterMap Frag.waiting).foldl (fun m wt => m ||| wt.on) x.on

/-- Value `k` that lane `l` contributes to the join over `j`: `own` of its thread in the issuing fragment, else what was kept
when its fragment arrived. -/
def State.joinVal (s : State) (x : Iss) (j : Mask) (own : Nat → Thread → Option W64) (k l : Nat) : Option W64 :=
  if x.fr.mask.getLsbD l then (s.laneThread x.w l).bind (own l)
  else (x.v.frags.find? (fun fr => fr.atJoin x.fr.pc j && fr.mask.getLsbD l)).bind (fun fr =>
    fr.waiting.bind (fun wt => Map.find wt.vals (32 * k + l)))

/-- What a join that completes leaves: `f` of every thread in an arrived lane with a true guard, `g` of the wave, every arrived
fragment ready at the next instruction, and nothing else changed. -/
structure JoinResult (s t : State) (x : Iss) (j : Mask) (f : Nat → Thread → Thread) (g : Wave → Wave) : Prop where
  acts : ∀ k u l, Map.find s.threads k = some u → u.place = some (x.w, l) → (x.joinOn j).getLsbD l = true →
    Map.find t.threads k = some (f l u)
  keeps : ∀ k u, Map.find s.threads k = some u → (∀ l, u.place = some (x.w, l) → (x.joinOn j).getLsbD l = false) →
    Map.find t.threads k = some u
  moves : Map.find t.waves x.w = some { (g x.v) with frags := x.v.frags.zipIdx.map (fun e =>
    if e.2 = x.f ∨ e.1.atJoin x.fr.pc j = true then { e.1 with st := .ready, pc := x.fr.pc + 8 } else e.1) }
  others : ∀ w, w ≠ x.w → Map.find t.waves w = Map.find s.waves w
  frame : t = { s with threads := t.threads, waves := t.waves }

/-! ### Handler entry (spec 17, R394 to R396) -/

/-- The lanes `bad` of the issuing fragment have taken cause `code`: the wave is in handler mode with the cause, the lanes
and the address recorded, its next fragment is the handler at `sr.hvec`, which holds those lanes, no thread has changed and
the cause is counted. -/
structure Entered (s t : State) (x : Iss) (bad : Mask) (code : Nat) : Prop where
  wave : ∃ u h fr, Map.find t.waves x.w = some u ∧ u.handler = some h ∧ h.fault = bad ∧ h.epc = x.fr.pc ∧ h.code = code
    ∧ h.async = false ∧ u.hr.cause.toNat % 512 = code ∧ u.hr.faultmask = bad ∧ u.hr.epc.toNat = x.fr.pc.toNat
    ∧ u.frags[t.cur.2]? = some fr ∧ fr.hnd = true ∧ fr.st = .ready ∧ fr.pc = x.g.hvec.setWidth 57 ∧ fr.mask &&& bad = bad
  cur : t.cur.1 = x.w
  threads : t.threads = s.threads
  memory : SameMemory s t
  counted : (Map.get t.rep.counters 0 code).toNat = min (2 ^ 32 - 1) ((Map.get s.rep.counters 0 code).toNat + 1)

/-- The issuing wave can take a synchronous cause: it is not in handler mode and `sr.hvec` is usable. -/
def CanTrap (x : Iss) : Prop := x.fr.hnd = false ∧ hvecOk x.g.hvec = true

/-! ### Accesses in flight (spec 04, R103, R106; spec 11, R311) -/

/-- `q` is `s` after address translation: A and D bits set in descriptors at their home slices, and the TLB filled. -/
def Translated (s q : State) : Prop :=
  q = { s with mem := { s.mem with cells := q.mem.cells, l1Poison := q.mem.l1Poison, l2 := q.mem.l2 }
               mmu := { s.mmu with tlb := q.mmu.tlb } }

/-- The threads of the active lanes have issued an access from `s`, whose addresses were translated in `q`: it is in flight
under the next key on `path` and stream mask `sm` with the parts given, after every outstanding access of its threads that local order
puts before it; those threads count it in counter `ctr` and hold the registers `dst` pending on it; the fragment has gone on;
nothing else of any thread has changed but its fences and write signature, and nothing else of the machine. -/
structure Accessed (s t q : State) (x : Iss) (path : Nat) (sm : BitVec 16) (parts : List Part) (recv : List W128) (ctr : Nat)
    (dst : List Nat) : Prop where
  translated : Translated s q
  flight : ∃ f, Map.find t.flights s.nextKey = some f
    ∧ f = { instr := x.i, gid := x.gid, func := x.g.func, pasid := x.g.pasid, domain := x.g.domain, wave := x.w,
            core := x.g.core, path := path, smask := sm, parts := parts, deps := f.deps, recv := recv, born := s.tick,
            sent := false }
    ∧ ∀ k ∈ s.tidsOf x.w x.on, ∀ e ∈ s.outstanding k, e.2.1 = path → e.2.2 &&& sm ≠ 0 → e.1 ∈ f.deps
  others : ∀ k, k ≠ s.nextKey → Map.find t.flights k = Map.find s.flights k
  held : ∀ k ∈ s.tidsOf x.w x.on, ∀ u, Map.find s.threads k = some u → ∃ u', Map.find t.threads k = some u'
    ∧ u'.counter ctr = u.counter ctr + 1 ∧ ∀ r ∈ dst, Map.find u'.pend r = some s.nextKey
  threads : ∀ k u, Map.find s.threads k = some u → ∃ u', Map.find t.threads k = some u'
    ∧ (k ∉ s.tidsOf x.w x.on → u' = u)
    ∧ u' = { u with
      nLd := u'.nLd, nSt := u'.nSt, nTl := u'.nTl, pend := u'.pend, fences := u'.fences, sig := u'.sig }
  moves : GoneOn x t
  waves : ∀ w, w ≠ x.w → Map.find t.waves w = Map.find s.waves w
  frame : t = { q with nextKey := s.nextKey + 1, flights := t.flights, threads := t.threads, waves := t.waves }

/-- The byte at `a` is one that part `p` writes, and that byte. -/
def Part.writes (p : Part) (a : Nat) (b : Byte) : Prop :=
  ∃ pa i, p.loc = .mem pa ∧ a = pa + i ∧ p.data[i]? = some b

/-! ### Fragments that wait, and groups of one fragment (spec 08, R195) -/

/-- Every active lane of `x` stands in a ready fragment of its wave at the next instruction. -/
def AllGoOn (x : Iss) (t : State) : Prop :=
  ∀ l, x.on.getLsbD l = true → ∃ v fr, Map.find t.waves x.w = some v ∧ fr ∈ v.frags ∧ fr.mask.getLsbD l = true
    ∧ fr.pc = x.fr.pc + 8 ∧ fr.st = .ready

/-- Every lane of the issuing fragment waits where it is, at its instruction, with `aux`. -/
def WaitsHere (x : Iss) (aux : List Nat) (t : State) : Prop :=
  t.frag x.w x.f = some { x.fr with st := .wait { instr := x.i, on := x.on, vals := [], aux := aux } }

/-- The issuing fragment holds every live thread of its group, and is its only fragment; no gate call is under way. -/
structure Whole (s : State) (x : Iss) : Prop where
  keys : Map.wf s.threads = true
  live : s.groupTids x.gid ≠ []
  covers : ∀ k ∈ s.groupTids x.gid, k ∈ s.tidsOf x.w x.fr.mask
  exactly : (s.groupTids x.gid).length = (s.tidsOf x.w x.fr.mask).length
  gates : x.g.gates = []
  only : ∀ e ∈ s.waves, e.2.gid = x.gid → e = (x.w, x.v)
  frag : x.v.frags = [x.fr]

/-- The issuing wave and its group stand as before but that the fragment has gone on. -/
def WholeGoneOn (s t : State) (x : Iss) : Prop :=
  Map.find t.waves x.w = some { x.v with frags := [{ x.fr with pc := x.fr.pc + 8 }] }
    ∧ (∀ w, w ≠ x.w → Map.find t.waves w = Map.find s.waves w) ∧ SameThreads s t ∧ SameMemory s t

/-- The phase of the group has ended (spec 02, R39, R40): the group waits for `c` in no wave; each of its threads stands at
the next instruction with the registers below g16 of the carry set, its carried registers from g16 on saved, the others
lost, every other thread is as it was, and the group's stores have left the L1s (spec 04, R110). -/
structure PhaseEnded (s t : State) (x : Iss) (c : PhaseCond) : Prop where
  group : ∃ b, Map.find t.groups x.gid
    = some { x.g with st := .phase c, full := false, ending := false, since := s.tick, bars := b }
  waves : ∀ k v, Map.find t.waves k = some v → v.gid ≠ x.gid
  carried : ∀ k u, Map.find s.threads k = some u → u.gid = x.gid → u.place.map Prod.fst = some x.w → ∃ u',
    Map.find t.threads k = some u' ∧ u'.pc = x.fr.pc + 8 ∧ u'.place = none ∧ u'.preds = u.preds ∧ u'.chain = u.chain
      ∧ (∀ r, u'.reg r = if r < 16 ∧ lrCarry (s.recOf x.g) r = true then u.reg r else 0)
      ∧ ∀ r, 16 ≤ r → x.g.full = true → Map.get u'.saved 0 r = if lrCarry (s.recOf x.g) r = true then u.reg r else 0
  keeps : ∀ k u, Map.find s.threads k = some u → u.gid ≠ x.gid → Map.find t.threads k = some u
  memory : SameMemory (s.flushGroup x.gid) t

/-! ### Gate calls (spec 08, R229) -/

/-- What a call through an entry with words `w` needs beside the entry's own checks, in the state `s` in which its callers
wait: no argument of the requesting threads `ts` pending, registers for them, and the gate frame's pages. -/
def CalleeReady (s : State) (g : Group) (w : Nat → Nat) (ts : List Nat) : Prop :=
  g.st = .resident ∧ g.gateClosed w = none ∧ (w 0).testBit 62 = false ∧ s.gateRefusal g w ts.length = none
    ∧ s.copiesPending ts (bits (w 2) 7 0) = false ∧ s.calleeFits g (8 * bits (w 1) 5 0 * ts.length) = true
    ∧ ∃ base q i p q',
      let c : Ctx := { die := dieOf g.core, func := g.func, pasid := bits (w 1) 51 32, domain := bits (w 1) 63 52 }
      s.touch c (bits (w 5) 56 0) 1 .write = (some base, q) ∧ q.freeFrame base (bits (w 6) 15 0) = some i
        ∧ q.touch c (bits (w 5) 56 0 + i * gateFrameBytes) gateFrameBytes .write = (some p, q')

/-- Group `gid` has entered the callee that words `w` name, from `pc`: its address space, domain, records and allotment are
the callee's, its handler vector is zero, and the frame saves the caller's; each requesting thread, in the lanes `on` of wave
`wv`, has the arguments that ARGMASK passes and nothing else in its registers, saves its own beneath, and stands at the
entry. -/
structure CalleeEntered (s t : State) (gid : Nat) (g : Group) (w : Nat → Nat) (wv : Nat) (on : Mask) (pc : VA) : Prop where
  group : ∃ u fr, Map.find t.groups gid = some u
    ∧ u = { g with bufs := u.bufs, pasid := bits (w 1) 51 32, domain := bits (w 1) 63 52, hvec := 0, full := true,
                   budget := 8 * bits (w 1) 5 0, gates := fr :: g.gates, savedBuckets := u.savedBuckets }
    ∧ u.buf 0 = stackRec (bits (w 3) 56 0) (bits (w 4) 31 0) ∧ (∀ n, n ≠ 0 → u.buf n = 0)
    ∧ fr.pc = pc + 8 ∧ fr.bufs = g.bufs ∧ fr.pasid = g.pasid ∧ fr.domain = g.domain ∧ fr.hvec = g.hvec ∧ fr.full = g.full
    ∧ fr.budget = g.budget ∧ fr.requesters = s.tidsOf wv on
  enters : ∀ k ∈ s.tidsOf wv on, ∀ u, Map.find s.threads k = some u → ∃ u' o, Map.find t.threads k = some u'
    ∧ u'.outer = o :: u.outer ∧ u'.call = s.nextKey ∧ o.call = u.call ∧ o.regs = u.regs ∧ o.preds = u.preds
    ∧ o.chain = u.chain ∧ u'.preds = 0 ∧ u'.chain = []
    ∧ ∀ r, u'.reg r = if r < 8 ∧ (bits (w 2) 7 0).testBit r = true then u.reg r else 0
  lands : ∀ l, on.getLsbD l = true → ∃ v fr, Map.find t.waves wv = some v ∧ fr ∈ v.frags ∧ fr.mask.getLsbD l = true
    ∧ fr.pc = vaOf (bits (w 0) 56 0) ∧ fr.st = .ready

/-! ### The matrix engine (spec 09, R249, R252) -/

/-- The matrix engine takes the next instruction of the issuing group: no earlier one of it is under way, and the engine is
the group's and of its domain. -/
structure EngineFree (s : State) (x : Iss) : Prop where
  idle : s.mtxBusy x.gid = false
  owner : (s.engOf x.g).owner = some x.gid
  tag : x.g.domain = s.tagOf x.g

/-- The engine of the group's core has become `e`, the fragment has gone on, and nothing else has changed. -/
structure EngineIs (s t : State) (x : Iss) (e : Eng) : Prop where
  engine : t.core x.g.core = { s.core x.g.core with eng := e }
  others : ∀ c, c ≠ x.g.core → t.core c = s.core c
  moves : GoneOn x t
  waves : ∀ w, w ≠ x.w → Map.find t.waves w = Map.find s.waves w
  frame : t = { s with waves := t.waves, cores := t.cores }

/-- Rows of `e'` are as `f` says, and every other part of the engine but the checksum-valid bits is as in `e`. -/
def RowsAre (e e' : Eng) (f : Nat → Nat → List W32) : Prop :=
  (∀ t l, l < 32 → e'.row t l = f t l) ∧ e' = { e with acc := e'.acc, ckv := e'.ckv }

/-- CKV is clear in tile `t` of `e'` and as in `e` in the others. -/
def CkvCleared (e e' : Eng) (t : Nat) : Prop := ∀ i, e'.ckv.getLsbD i = (i != t && e.ckv.getLsbD i)

/-! ### Macro-instructions (spec 10, R270) -/

/-- The causes that each macro-instruction's operands have at issue (spec 18, R424). -/
def macCauses : Instr → State → Iss → Thread → List Nat
  | .rastri a => fun _ x _ => codesWhere [(0x100, !tileOk (x.g.buf a.rb.val))]
  | .traverse a => fun _ x t =>
    codesWhere ((0x10E, recEsizeCode (x.g.buf a.ra.val) ≠ 7) :: travCodes x a.rb (blockHdr a.sb t))
  | .filter a => filterCheck a
  | .oblend a => oblendCheck a
  | .shadeq a => fun _ x _ => codesWhere [(0x100, !tileOk (x.g.buf a.ra.val))]
  | .anyhitNext a => anyhitCheck a.sb a.rb false
  | .anyhitAcc a => anyhitCheck a.sb a.rb true
  | .anyhitTerm a => anyhitCheck a.sb a.rb true
  | .anyhitCommit a => anyhitCheck a.sb a.rb false
  | .gqpush a => gqCheck a.ra
  | .gqpushClose a => gqCheck a.ra
  | .gqpop a => gqCheck a.ra
  | .hizq a => fun _ x t => codesWhere [(0x100, !tileOk (x.g.buf a.ra.val)),
      (0x105, bits (t.reg (MacOp.base { sb := a.sb, recs := [], opx := .z, str := 0 } + 1)).toNat 31 20 ≠ 0)]
  | _ => fun _ _ _ => []

/-- Lane `l` of fragment `f` of wave `w` is at work in a macro-instruction other than `SHADEQ`, whose wait is `wt`, and it
is its turn; `c` is what its next step sees. -/
structure AtWork (s : State) (w f l : Nat) (fr : Frag) (wt : Wait) (c : MacCtx) : Prop where
  wave : ∃ v g, Map.find s.waves w = some v ∧ v.frags[f]? = some fr ∧ Map.find s.groups v.gid = some g ∧ v.resident = true
    ∧ v.draining = false ∧ v.sigFlip = false ∧ s.macCtx w l v g wt = some c
  waits : fr.st = .wait wt
  kind : isShadeq wt.instr = false
  on : (wt.on &&& fr.mask).getLsbD l = true
  turn : laneOrder wt.instr = false ∨ lowLane (wt.on &&& fr.mask) = some l

/-- A wave of the threads `ts` of group `gid` has formed on core `c` under the next key, lanes in their order, at `pc`; every
other wave is as it was. -/
structure WaveFormed (s t : State) (c gid : Nat) (pc : VA) (ts : List Nat) : Prop where
  wave : ∃ v, Map.find t.waves s.nextKey = some v ∧ v.gid = gid ∧ v.core = c ∧ v.resident = true ∧ v.handler = none
    ∧ v.frags = [{ mask := maskOf (List.range ts.length), pc := pc, st := .ready, hnd := false }]
  others : ∀ w, w ≠ s.nextKey → Map.find t.waves w = Map.find s.waves w
  lanes : ∀ k ∈ ts, ∀ u, Map.find s.threads k = some u →
    Map.find t.threads k = some { u with place := some (s.nextKey, ts.findIdx (· == k)), pc := pc }
  keeps : ∀ k, k ∉ ts → Map.find t.threads k = Map.find s.threads k
  memory : SameMemory s t

/-! ### Kills -/

/-- Nothing of group `g` is left on the device. -/
def Gone (t : State) (g : Nat) : Prop :=
  Map.find t.groups g = none ∧ (∀ k u, Map.find t.threads k = some u → u.gid ≠ g)
    ∧ ∀ k u, Map.find t.waves k = some u → u.gid ≠ g

end Sys2Proof.Machine
end

