-- ==== Sys2Proof/Certificates/Slice0/Obligations.lean ====
section
/-!
DEFINITION. The statements for the provers, one `Obligations.<Name>` each.
-/

open Sys2Proof Sys2Proof.Machine

/-! ### Encodings -/

/-- Words that the spec writes out bit by bit decode to the instructions it names for them (spec 06, R134 to R146; spec 07,
R169, R174; spec 08, R193; spec 09, R250; spec 10, R270; spec 17, R397). -/
def Obligations.SpecWords : Prop :=
  let h : Hdr := { b := false, guard := 7, neg := false }
  decode 0x0420_1C0E_0900_0038
      = .iadd { h := { h with guard := 2 }, wide := false, d := .g 7, co := 7, s1 := .g 7, s2 := .g 9 }
    ∧ decode 0x3AF0_0000_FFFF_FFFE = .bra { h := { h with b := true }, off := 0xFFFF_FFFE }
    ∧ decode 0x1E70_0C08_0503_06C0
      = .lop3 { h := h, wide := false, d := .g 3, s1 := .g 4, s2 := .g 5, s3 := .g 6, table := 0xD8 }
    ∧ decode 0x2E73_FC0C_FF00_0108
      = .icmps { h := h, wide := false, cc := .gt, comb := .none, pd := 1, pm := 0, d := .z, s1 := .g 6, s2 := .z }
    ∧ decode 0x4870_200E_4002_0080
      = .ld { h := h, sx := false, width := .b32, cache := .normal, d := .g 8,
              m := { ix := .g 7, brec := 2, off := 16, str := 0 } }
    ∧ decode 0x4E70_140E_602B_0080
      = .atom { h := h, nr := false, wide := false, op := .add, d := .g 5,
                m := { ix := .g 7, brec := 3, off := 1, str := 0 }, scope := .dev, order := .rel }
    ∧ decode 0x8370_100A_0603_9000 = .ffma { h := h, d := .g 4, s1 := .g 5, s2 := .g 6, s3 := .g 7 }
    ∧ decode 0xB510_0405_02C0_0000
      = .mstreamc { h := { h with guard := 1 }, acc := 0, slot := 0, brec := 4, ix := .g 10, gp := .g 11, sc := .g 0,
                    str := 0 }
    ∧ decode 0xF070_0000_0000_1000 = .eretExit { h := h }
    ∧ decode 0xF370_1408_0000_0800 = .domsetStat { h := h, a := .g 5, b := .g 4 }

/-- Decoding the word of a well-formed instruction gives it back, for every instruction that has a word and every operand
its encoding admits. (Log 47 lists the readings of the field checks.) -/
def Obligations.DecodeEncode : Prop :=
  ∀ (i : Instr) (w : IWord), i.wf = true → (∀ v c, i ≠ .unassignedOpcode v c) → encode i = some w → decode w = i

/-- Every word decodes to an instruction whose word it is: decoding drops no bit, and a word that is not well formed is
kept whole in `unassignedOpcode` (spec 06, R137). A word that decodes to a listed instruction is well formed: no
register class, reserved value or dependent field that spec 06, R137 forbids gets past the decoder. (Log 47 lists the
readings of the field checks.) -/
def Obligations.EncodeDecode : Prop :=
  (∀ w : IWord, encode (decode w) = some w)
  ∧ (∀ w : IWord, (decode w).wf = true)

/-! ### The step -/

/-- A step runs the decoded instruction: where the scheduled act, or by default the choice of an even cycle, is the issue
of the fragment that its slot issues now, no cause waits to enter its wave, and the fetch of the eight bytes at its program
counter translates to memory without a mark of poison, the step is `exec` of the instruction that those bytes, least
significant first, decode to, with that fragment as the one that issues, its line in the instruction cache, the run of
its slot open and its gang served; then
the run is updated, accesses that wait for nothing more are sent to other devices and hosts, and a cycle passes. (What a step performs is the model's own order: log 1.) -/
def Obligations.StepRunsDecoded : Prop :=
  ∀ (s s₀ s₁ : State) (w f : Nat) (v : Wave) (fr : Frag) (g : Group) (tr : Tr),
    ((∃ r, s.agenda = .issue w f :: r ∧ s₀ = { s with agenda := r })
      ∨ (s.agenda = [] ∧ s.tick % 2 = 0 ∧ s.issueChoice = some (w, f) ∧ s₀ = s)) →
    Map.find s₀.waves w = some v → v.frags[f]? = some fr → Map.find s₀.groups v.gid = some g →
    s₀.chosen w f = true → s₀.eligible w v fr = true → s₀.pendingEntry w = none →
    s₀.translate g.ctx fr.pc.toNat .fetch = (.ok tr, s₁) → tr.nc = false → s₁.paKind tr.pa = .mem →
    s₁.poisonAt none (.mem tr.pa) 8 = none →
    let i := decode (BitVec.ofNat 64 (s₁.peekNat tr.pa 8))
    let u : State := (({ s₁.fillIcache g.core (tr.pa / 128) with cur := (w, f) } : State).openRun w v fr).served v.gid
    step s = match exec i u with
      | .next t => .next (match u.issuer i with
          | some x => t.ranOn x
          | none => t).sendReady.cycle
      | .fault e => .fault e
      | .refused e => .refused e

/-- The machine never stops: every step of every state answers a next state, neither a fault nor a refusal. (What a step
performs is the model's own order: log 1.) -/
def Obligations.NeverStops : Prop := ∀ s : State, ∃ t, step s = .next t

/-- What reset leaves. Where the spec gives a value: the clock at 0, the PF enabled and every other function table word
0, PWRCAP 2,400 W, BOOTSTAT 0, every error counter 0, and each Frarok port disabled with FPPEER 0xFF; and no thread, wave,
group, gang, launch or access in flight, for none exists before a launch. The model's choices: every byte reads 0x00, and
memory has its canonical form (log 3) and the L1s theirs (log 8), DOMEN is 0 (log 5), no translation is cached (log 6). -/
def Obligations.ResetState : Prop :=
  (let s := State.reset
  s.tick = 0 ∧ s.threads = [] ∧ s.waves = [] ∧ s.groups = [] ∧ s.gangs = [] ∧ s.launches = [] ∧ s.flights = []
    ∧ (∀ a, cellAt s.mem.cells a = 0) ∧ s.mmu.tlb = [] ∧ s.ftWord 0 0 = 0x8000_0000_0000_0000
    ∧ (∀ f w, f * 8 + w ≠ 0 → s.ftWord f w = 0)
    ∧ s.readMgmt 0x08 = 2400 ∧ s.readMgmt 0x00 = 0 ∧ (∀ c, Map.get s.rep.counters 0 c = 0) ∧ s.fab.domen = false
    ∧ ∀ p, (s.fport p).en = false ∧ (s.fport p).peer = 0xFF)
  ∧ (Memory.wf State.reset.mem.cells = true ∧ Memory.wf State.reset.mem.ws = true ∧ LinesOk State.reset)

/-! ### The issue of a word -/

/-- The issue of an instruction that does not reach its own effect, for every instruction that has a word: one that
the scoreboard holds changes nothing (spec 11, R311); one whose guard is true in no lane goes on, unless it is a join
or a group collective (spec 03, R59); and one that meets causes of stage 1 raises the lowest of them in every lane
with a true guard and does nothing else (spec 18, R406); one that has to wait for earlier accesses stands before its effect and
gives up its slot (log 21). Every instruction that issues after `FINJ.replay` has the effect that it would have without, and takes
one cycle more; the replay is counted (spec 19, R444, R450). -/
def Obligations.IssueDiscipline : Prop :=
  (∀ (i : Instr) (s : State) (x : Iss), (encode i).isSome → s.issuer i = some x →
    (s.stalled x = true → Gives i s s)
    ∧ (s.stalled x = false → x.on = 0 → (isJoin i || isCollective i) = false →
        Gives i s ((s.takeReplay x).advance x))
    ∧ ∀ c, s.stalled x = false → x.v.replay = false → x.on ≠ 0 → minCode (s.stage1 x.g x.fr.hnd i) = some c →
        Gives i s (s.faultLanes x x.on c))
  ∧ (∀ (i : Instr) (s : State) (x : Iss), (encode i).isSome → s.issuer i = some x → s.stalled x = false → x.v.replay = false →
    x.on ≠ 0 → s.stage1 x.g x.fr.hnd i = [] → x.v.regionCause = none →
    (strictReads i && (usesOf i).any (Use.invalid x.v)) = false → s.sigDiffers x = false →
    s.waitsBefore x.w x.v x.fr.mask x.on i = true →
    ∃ t, Gives i s t ∧ t.frag x.w x.f = some { x.fr with st := .before i x.on } ∧ t = { s with waves := t.waves }
      ∧ ∀ w, w ≠ x.w → Map.find t.waves w = Map.find s.waves w)
  ∧ (∀ (i : Instr) (s : State) (x : Iss), (encode i).isSome → s.issuer i = some x → s.stalled x = false → x.v.replay = true →
    ∃ q, q.tick = s.tick + 1 ∧ SameThreads s q ∧ SameMemory s q ∧ Map.find q.waves x.w = some { x.v with replay := false }
      ∧ (∀ w, w ≠ x.w → Map.find q.waves w = Map.find s.waves w)
      ∧ q = { s with tick := q.tick, waves := q.waves, rep := q.rep, mgmt := q.mgmt }
      ∧ (Map.get q.rep.counters 0 0x158).toNat = min (2 ^ 32 - 1) ((Map.get s.rep.counters 0 0x158).toNat + 1)
      ∧ ∀ t, Gives i s t ↔ Gives i q t)

/-- A cause that finds no usable handler kills the gang with 0x161, and a cause in handler mode is a nested error that
kills it with 0x160 and names the code in progress; either is counted (spec 17, R396, R399). The words that only
system privilege may issue: with an opcode from 0xF1 on, an instruction of a group without privilege takes a cause of
at most 0x018 in every lane with a true guard, and has no effect of its own (spec 06, R154; spec 18, R408). `TRAP`,
`BKPT` and a word that is no instruction take their cause in every lane with a true guard: 0x030 plus the low four
bits of the immediate, 0x02F, and the code that the decoder found, which stage 1 raises (spec 07, R189; spec 18, R408); but a lower one of two where it applies: 0x001 for
an opcode from 0xE0 to 0xEF that the launch's binding gives no primitive, and 0x006 for a word of 0xB0, 0xB1 or 0xB3
to 0xB5 whose scale field is not zero while its slot has no scales (spec 18, R406). -/
def Obligations.TrapsAndKills : Prop :=
  (∀ (i : Instr) (s : State) (x : Iss) (bad : Mask) (code : Nat), s.issuer i = some x → bad &&& x.fr.mask = bad → bad ≠ 0 →
    code < 512 →
    (x.fr.hnd = true → s.faultLanes x bad code
      = (s.count code).killGroup x.v.gid
          { cause := 0x160, cause2 := some code, cause3 := x.v.handler.map (·.code) })
    ∧ (x.fr.hnd = false → hvecOk x.g.hvec = false → s.faultLanes x bad code
      = (s.count code).killGroup x.v.gid { cause := 0x161, cause2 := some code }))
  ∧ (∀ (i : Instr) (s : State) (x : Iss), (encode i).isSome → 0xF0 < opcodeOf i → s.issuer i = some x → s.stalled x = false →
    x.v.replay = false → x.on ≠ 0 → s.privOf x.g = false →
    ∃ c, c ≤ 0x018 ∧ Gives i s (s.faultLanes x x.on c))
  ∧ ((∀ a s x, Issues (.trap a) s x → CanTrap x →
    ∃ t, Gives (.trap a) s t ∧ Entered s t x x.on (0x030 + a.imm.toNat % 16))
  ∧ (∀ a s x, Issues (.bkpt a) s x → CanTrap x → ∃ t, Gives (.bkpt a) s t ∧ Entered s t x x.on 0x02F)
  ∧ ∀ w (c : Fin 16) s x, s.issuer (.unassignedOpcode w c) = some x → s.stalled x = false → x.v.replay = false → x.on ≠ 0 →
      CanTrap x → ∃ t d, Gives (.unassignedOpcode w c) s t ∧ Entered s t x x.on d
        ∧ (let op := w.toNat / 2 ^ 56
           let unbound : Prop := (0xE0 ≤ op ∧ op < 0xF0) ∧ ∃ l, s.launchOf x.g = some l ∧ s.primByOpcode l op = none
           let unscaled : Prop := op ∈ [0xB0, 0xB1, 0xB3, 0xB4, 0xB5]
             ∧ slotScale (lrSlot (s.recOf x.g) (bits w.toNat 46 44)) = 0 ∧ bits w.toNat 21 13 ≠ 0
           (unbound → d = min c.val 0x001) ∧ (unscaled → d = min c.val 0x006) ∧ (¬ unbound → ¬ unscaled → d = c.val)))

/-! ### Integer instructions -/

/-- Sums and differences: `IADD`, `IADDC`, `ISUB`, `ISUBB` with their carry or borrow, `IADDI`, and `LEA` (spec 07, R164,
R166). -/
def Obligations.Sums : Prop :=
  (∀ a, ActsAs (.iadd a) (fun x _ u =>
    let p := opVal (wdOf a.wide) a.s1 x.v u
    let q := opVal (wdOf a.wide) a.s2 x.v u
    (putVal _ a.d (p + q) u).setPred a.co (decide (2 ^ wdOf a.wide ≤ p.toNat + q.toNat))))
  ∧ (∀ a, ActsAs (.iaddc a) (fun x _ u =>
    let p := opVal (wdOf a.wide) a.s1 x.v u
    let q := opVal (wdOf a.wide) a.s2 x.v u
    let c := b2n (u.pred a.ci)
    (putVal _ a.d (p + q + BitVec.ofNat _ c) u).setPred a.co (decide (2 ^ wdOf a.wide ≤ p.toNat + q.toNat + c))))
  ∧ (∀ a, ActsAs (.isub a) (fun x _ u =>
    let p := opVal (wdOf a.wide) a.s1 x.v u
    let q := opVal (wdOf a.wide) a.s2 x.v u
    (putVal _ a.d (p - q) u).setPred a.co (decide (p.toNat < q.toNat))))
  ∧ (∀ a, ActsAs (.isubb a) (fun x _ u =>
    let p := opVal (wdOf a.wide) a.s1 x.v u
    let q := opVal (wdOf a.wide) a.s2 x.v u
    let c := b2n (u.pred a.ci)
    (putVal _ a.d (p - q - BitVec.ofNat _ c) u).setPred a.co (decide (p.toNat < q.toNat + c))))
  ∧ (∀ a, ActsAs (.iaddi a) (valuedImm a (fun _ p q => p + q)))
  ∧ ∀ a, ActsAs (.lea a) (fun x _ u =>
    let n := opRead a.s2 x.v u
    opWrite64 a.d (opRead64 a.s1 x.v u + ((if a.sx then n.signExtend 64 else n.setWidth 64) <<< a.sh.val)) u)

/-- Products: `IMUL`, `IMULHS`, `IMULHU`, `IMULWS`, `IMULWU` and `IMAD` write what spec 07, R165 tabulates. -/
def Obligations.Products : Prop :=
  (∀ a, ActsAs (.imul a) (valued2 a (fun _ p q => p * q)))
  ∧ (∀ a, ActsAs (.imulhs a) (valued2 a (fun w p q => BitVec.ofInt w (p.toInt * q.toInt / (2 : Int) ^ w))))
  ∧ (∀ a, ActsAs (.imulhu a) (valued2 a (fun w p q => BitVec.ofNat w (p.toNat * q.toNat / 2 ^ w))))
  ∧ (∀ a, ActsAs (.imulws a) (fun x _ u =>
      opWrite64 a.d ((opRead a.s1 x.v u).signExtend 64 * (opRead a.s2 x.v u).signExtend 64) u))
  ∧ (∀ a, ActsAs (.imulwu a) (fun x _ u =>
      opWrite64 a.d ((opRead a.s1 x.v u).setWidth 64 * (opRead a.s2 x.v u).setWidth 64) u))
  ∧ ∀ a, ActsAs (.imad a) (fun x _ u =>
      putVal (wdOf a.wide) a.d (opVal _ a.s1 x.v u * opVal _ a.s2 x.v u + opVal _ a.s3 x.v u) u)

/-- Divisions whose divisor is zero in no active lane: quotient rounded toward zero, or remainder with the sign of the
dividend, signed and unsigned; the most negative value divided by −1 wraps (spec 07, R167). Divisions by zero: the
lanes whose divisor is zero perform nothing and take 0x040 + D, with D[2] for `IDIVU`, D[1] for the 64-bit form and
D[0] for `.rem`; the other active lanes complete (spec 07, R167; spec 18, R408). -/
def Obligations.Divisions : Prop :=
  ((∀ a s x, Issues (.idivs a) s x →
    EachActive s x (fun _ u => opVal (wdOf a.wide) a.s2 x.v u ≠ 0) →
    ∃ t, Gives (.idivs a) s t ∧ LaneResult s t x (fun _ u =>
      let p := opVal (wdOf a.wide) a.s1 x.v u
      let q := opVal (wdOf a.wide) a.s2 x.v u
      putVal _ a.d (if a.rem then p.srem q else p.sdiv q) u))
  ∧ ∀ a s x, Issues (.idivu a) s x →
    EachActive s x (fun _ u => opVal (wdOf a.wide) a.s2 x.v u ≠ 0) →
    ∃ t, Gives (.idivu a) s t ∧ LaneResult s t x (fun _ u =>
      let p := opVal (wdOf a.wide) a.s1 x.v u
      let q := opVal (wdOf a.wide) a.s2 x.v u
      putVal _ a.d (if a.rem then p % q else p / q) u))
  ∧ (∀ (a : DivArgs) (s : State) (x : Iss) (bad : Mask), CanTrap x → bad ≠ 0 →
    (∀ l, bad.getLsbD l = true ↔
      x.on.getLsbD l = true ∧ ∃ u, s.laneThread x.w l = some u ∧ opVal (wdOf a.wide) a.s2 x.v u = 0) →
    (Issues (.idivs a) s x →
      let s' := s.mapLanes x.w (x.on &&& ~~~bad) (fun _ u =>
        let p := opVal (wdOf a.wide) a.s1 x.v u
        let q := opVal (wdOf a.wide) a.s2 x.v u
        putVal _ a.d (if a.rem then p.srem q else p.sdiv q) u)
      ∃ t, Gives (.idivs a) s t ∧ Entered s' t x bad (0x040 + 2 * b2n a.wide + b2n a.rem))
    ∧ (Issues (.idivu a) s x →
      let s' := s.mapLanes x.w (x.on &&& ~~~bad) (fun _ u =>
        let p := opVal (wdOf a.wide) a.s1 x.v u
        let q := opVal (wdOf a.wide) a.s2 x.v u
        putVal _ a.d (if a.rem then p % q else p / q) u)
      ∃ t, Gives (.idivu a) s t ∧ Entered s' t x bad (0x044 + 2 * b2n a.wide + b2n a.rem)))

/-- The smaller, the larger and the absolute value: signed for the S forms and unsigned for the U forms; the most
negative value's absolute value is itself (spec 07, R168). The logic instructions are bitwise: `AND`, `OR`, `XOR`,
`ANDN`, their immediate forms, and `LOP3`, whose bit `j` is bit `a + 2 b + 4 c` of the table for the bits `j` of its
three sources (spec 07, R169). -/
def Obligations.ExtremesAndLogic : Prop :=
  ((∀ a, ActsAs (.imins a) (valued2 a (fun _ p q => if p.toInt ≤ q.toInt then p else q)))
  ∧ (∀ a, ActsAs (.iminu a) (valued2 a (fun _ p q => if p.toNat ≤ q.toNat then p else q)))
  ∧ (∀ a, ActsAs (.imaxs a) (valued2 a (fun _ p q => if p.toInt ≤ q.toInt then q else p)))
  ∧ (∀ a, ActsAs (.imaxu a) (valued2 a (fun _ p q => if p.toNat ≤ q.toNat then q else p)))
  ∧ ∀ a, ActsAs (.iabs a) (valued1 a (fun _ p => if p.toInt < 0 then -p else p)))
  ∧ ((∀ a, ActsAs (.and a) (valued2 a (fun _ p q => p &&& q)))
  ∧ (∀ a, ActsAs (.or a) (valued2 a (fun _ p q => p ||| q)))
  ∧ (∀ a, ActsAs (.xor a) (valued2 a (fun _ p q => p ^^^ q)))
  ∧ (∀ a, ActsAs (.andn a) (valued2 a (fun _ p q => p &&& ~~~q)))
  ∧ (∀ a, ActsAs (.andi a) (valuedImm a (fun _ p q => p &&& q)))
  ∧ (∀ a, ActsAs (.ori a) (valuedImm a (fun _ p q => p ||| q)))
  ∧ (∀ a, ActsAs (.xori a) (valuedImm a (fun _ p q => p ^^^ q)))
  ∧ ∀ a s x, Issues (.lop3 a) s x → ∃ t, ∃ f : Thread → BitVec (wdOf a.wide), Gives (.lop3 a) s t
      ∧ LaneResult s t x (fun _ u => putVal _ a.d (f u) u)
      ∧ ∀ u j, j < wdOf a.wide → (f u).getLsbD j = a.table.val.testBit
          (b2n ((opVal (wdOf a.wide) a.s1 x.v u).getLsbD j) + 2 * b2n ((opVal (wdOf a.wide) a.s2 x.v u).getLsbD j)
            + 4 * b2n ((opVal (wdOf a.wide) a.s3 x.v u).getLsbD j)))

/-- Shifts and rotations: the amount is the whole single register S2, or the immediate; a shift by the width or more
leaves zero, or copies of the sign bit; a rotation takes the amount modulo the width (spec 07, R170). Counts and bit
fields: `POPC`, `CLZ` and `BREV` (spec 07, R171), and `BFXU`, `BFXS` and `BFI`, whose field is bits `[p+n-1:p]` for
the descriptor's position and length, both cut to the width (R172). -/
def Obligations.ShiftsAndBitFields : Prop :=
  ((∀ a, ActsAs (.shl a) (valued2s a (fun _ p n => p <<< n)))
  ∧ (∀ a, ActsAs (.shr a) (valued2s a (fun _ p n => p >>> n)))
  ∧ (∀ a, ActsAs (.sar a) (valued2s a (fun _ p n => p.sshiftRight n)))
  ∧ (∀ a, ActsAs (.shli a) (valuedShi a (fun _ p n => p <<< n)))
  ∧ (∀ a, ActsAs (.shri a) (valuedShi a (fun _ p n => p >>> n)))
  ∧ (∀ a, ActsAs (.sari a) (valuedShi a (fun _ p n => p.sshiftRight n)))
  ∧ ∀ a, ActsAs (.rotl a) (valued2s a (fun _ p n => p.rotateLeft n)))
  ∧ ((∀ a, ActsAs (.popc a) (counted1 a (fun w p => ((List.range w).filter (fun i => p.getLsbD i)).length)))
  ∧ (∀ a, ActsAs (.clz a) (counted1 a (fun w p => ((List.range w).reverse.takeWhile (fun i => !p.getLsbD i)).length)))
  ∧ (∀ a, ActsAs (.brev a) (valued1 a (fun _ p => p.reverse)))
  ∧ (∀ a, ActsAs (.bfxu a) (valued2s a (fun w p f => BitVec.ofNat w (p.toNat / 2 ^ fpos w f % 2 ^ flen w f))))
  ∧ (∀ a, ActsAs (.bfxs a) (valued2s a (fun w p f =>
      let v := p.toNat / 2 ^ fpos w f % 2 ^ flen w f
      BitVec.ofInt w (if 0 < flen w f ∧ v.testBit (flen w f - 1) then (v : Int) - (2 : Int) ^ flen w f else v))))
  ∧ ∀ a s x, Issues (.bfi a) s x → ∃ t, ∃ r : Thread → BitVec (wdOf a.wide), Gives (.bfi a) s t
      ∧ LaneResult s t x (fun _ u => putVal _ a.d (r u) u)
      ∧ ∀ u j, j < wdOf a.wide →
          let p := fpos (wdOf a.wide) (opRead a.s3 x.v u).toNat
          let n := flen (wdOf a.wide) (opRead a.s3 x.v u).toNat
          (r u).getLsbD j = if p ≤ j ∧ j < p + n then (opVal (wdOf a.wide) a.s2 x.v u).getLsbD (j - p)
            else (opVal (wdOf a.wide) a.s1 x.v u).getLsbD j)

/-- `PRMT` builds each byte of its result from a selector byte: bits [2:0] name one of the eight source bytes, and
bits [4:3] move it, clear it, fill with its sign, or reverse its bits (spec 07, R173). Moves: `NOP` only advances;
`MOV` and `MOVI` write their source, the immediate sign-extended in the 64-bit form; `MOVHI` writes the upper register
of its pair alone (spec 07, R163). Comparisons write all ones or zero, and their truth, alone or combined with a
predicate; `SEL` chooses by a predicate; `PLOP` looks up its table at the index its three predicates form (spec 07,
R174 to R176). -/
def Obligations.MovesAndComparisons : Prop :=
  (∀ a s x, Issues (.prmt a) s x → ∃ t, ∃ r : Thread → W32, Gives (.prmt a) s t
    ∧ LaneResult s t x (fun _ u => opWrite a.d (r u) u)
    ∧ ∀ u j, j < 4 →
        let c := (opRead a.s3 x.v u).toNat / 2 ^ (8 * j)
        let b : Byte := ((opRead a.s2 x.v u ++ opRead a.s1 x.v u).extractLsb' (8 * (c % 8)) 8)
        (r u).extractLsb' (8 * j) 8 = match c / 8 % 4 with
          | 0 => b
          | 1 => 0
          | 2 => if b.msb then BitVec.allOnes 8 else 0
          | _ => b.reverse)
  ∧ ((∀ a, ActsAs (.nop a) (fun _ _ u => u))
  ∧ (∀ a, ActsAs (.mov a) (valued1 a (fun _ p => p)))
  ∧ (∀ a, ActsAs (.movi a) (fun _ _ u => putVal (wdOf a.wide) a.d (a.imm.signExtend _) u))
  ∧ ∀ a, ActsAs (.movhi a) (fun _ _ u => match a.d with
      | .g k => u.setReg (k.val + 1) a.imm
      | _ => u))
  ∧ ((∀ a, ActsAs (.icmps a) (fun x _ u =>
    let r := ccHolds a.cc (opVal (wdOf a.wide) a.s1 x.v u).toInt (opVal (wdOf a.wide) a.s2 x.v u).toInt
    (putVal (wdOf a.wide) a.d (if r then BitVec.allOnes _ else 0) u).setPred a.pd (match a.comb with
      | .none => r
      | .and => r && u.pred a.pm
      | .or => r || u.pred a.pm)))
  ∧ (∀ a, ActsAs (.icmpu a) (fun x _ u =>
    let r := ccHolds a.cc (opVal (wdOf a.wide) a.s1 x.v u).toNat (opVal (wdOf a.wide) a.s2 x.v u).toNat
    (putVal (wdOf a.wide) a.d (if r then BitVec.allOnes _ else 0) u).setPred a.pd (match a.comb with
      | .none => r
      | .and => r && u.pred a.pm
      | .or => r || u.pred a.pm)))
  ∧ (∀ a, ActsAs (.sel a) (fun x _ u =>
    putVal (wdOf a.wide) a.d (if (u.pred a.ps) = !a.neg then opVal _ a.s1 x.v u else opVal _ a.s2 x.v u) u))
  ∧ ∀ a, ActsAs (.plop a) (fun _ _ u =>
    u.setPred a.pd (a.table.val.testBit (b2n (u.pred a.pa) + 2 * b2n (u.pred a.pb) + 4 * b2n (u.pred a.pc)))))

/-- What the per-lane instructions may change: in each active thread their destination registers and the predicate they
name; every other register, predicate and piece of a thread, every other thread, all memory, and every special register,
mask, barrier and matrix register stays as it was. -/
def Obligations.LaneFrame : Prop :=
  ∀ (i : Instr) (s : State) (x : Iss), isLaneOnly i = true → Issues i s x →
    ∃ t, Gives i s t ∧ t = { s with threads := t.threads, waves := t.waves } ∧ SameMemory s t
      ∧ (∀ w, w ≠ x.w → Map.find t.waves w = Map.find s.waves w)
      ∧ (∃ fs, Map.find t.waves x.w = some { x.v with frags := fs }) ∧ GoneOn x t
      ∧ ∀ k u, Map.find s.threads k = some u → ∃ u', Map.find t.threads k = some u'
          ∧ (¬ x.active u → u' = u) ∧ u' = { u with regs := u'.regs, preds := u'.preds }
          ∧ (∀ r, r ∉ destRegsOf i → u'.reg r = u.reg r)
          ∧ ∀ n : Fin 8, predDest i ≠ some n → u'.pred n = u.pred n

/-! ### Masks, joins and special registers -/

/-- Mask counts, mask logic, and moves to wave-uniform registers: `KPOPC` counts the bits of a mask, below the lane
with `.lt`; `KFIND` finds its lowest or highest bit, or 32; `KLOP` combines three masks bit by bit by its table;
`KSET` and `WMOV` write their source (spec 07, R179 to R181). `SRRD` reads the special register it names, in each
lane, or once to a wave-uniform register; what each index holds: thread identity, lane, lanes of the fragment, group
number, rank, role, core, address space, function, domain, gate depth, clock, outstanding accesses, checksum tolerance and
failing rows and columns, the handler's registers with the fields of the trapping word, the format slots, the privileged
registers, and of each refresh bank the whole cycles to its next window and, in one, those left of it (spec 03, R75, R76; spec
07, R183). `SRWR` writes the value of the lowest active
lane to `sr.mcktol` or `sr.hvec` of the group, the two special registers whose access is RW, and changes nothing else;
an index that is not one of them never issues with an effect (spec 03, R75, R77; spec 07, R183). -/
def Obligations.MasksAndSpecialRegisters : Prop :=
  ((∀ a, UniformAs (.kpopc a) false a.d (fun _ x l _ =>
    ((List.range 32).filter (fun i => (maskVal a.m x.v).getLsbD i && (!a.flag || decide (i < l)))).length))
  ∧ (∀ a, UniformAs (.kfind a) false a.d (fun _ x _ _ =>
    ((if a.flag then (List.range 32).reverse else List.range 32).find? (fun i =>
      (maskVal a.m x.v).getLsbD i)).getD 32))
  ∧ (∀ a : KlopArgs, ∃ f : Wave → W32, UniformAs (.klop a) false a.d (fun _ x _ _ => (f x.v).toNat)
      ∧ ∀ v j, j < 32 → (f v).getLsbD j = a.table.val.testBit (b2n ((maskVal a.ma v).getLsbD j)
          + 2 * b2n ((maskVal a.mb v).getLsbD j) + 4 * b2n ((maskVal a.mc v).getLsbD j)))
  ∧ (∀ a, UniformAs (.kset a) false a.d (fun _ _ _ _ => a.imm.toNat))
  ∧ ∀ a, UniformAs (.wmov a) a.wide a.d (fun _ x _ u => (opVal (wdOf a.wide) a.s1 x.v u).toNat))
  ∧ ((∀ a : SrrdArgs, UniformAs (.srrd a) a.wide a.d (fun s x l u => s.srValue x a.idx.val l u))
  ∧ ∀ (s : State) (x : Iss) (l : Nat) (u : Thread),
      s.srValue x 0x00 l u = u.wid.toNat ∧ s.srValue x 0x02 l u = l ∧ s.srValue x 0x03 l u = x.fr.mask.toNat
      ∧ s.srValue x 0x04 l u = x.g.num ∧ s.srValue x 0x05 l u = x.g.rank ∧ s.srValue x 0x06 l u = x.g.role
      ∧ s.srValue x 0x07 l u = x.g.core ∧ s.srValue x 0x08 l u = x.g.pasid ∧ s.srValue x 0x09 l u = x.g.func
      ∧ s.srValue x 0x0A l u = x.g.domain ∧ s.srValue x 0x0B l u = x.g.gates.length ∧ s.srValue x 0x10 l u = s.tick
      ∧ s.srValue x 0x12 l u = u.nLd + u.nSt * 2 ^ 8 + u.nCp * 2 ^ 16 + u.nTl * 2 ^ 24
      ∧ s.srValue x 0x20 l u = x.g.mcktol.toNat ∧ s.srValue x 0x80 l u = x.v.hr.cause.toNat
      ∧ s.srValue x 0x81 l u = x.v.hr.faultmask.toNat ∧ s.srValue x 0x82 l u = x.v.hr.badaddr.toNat
      ∧ s.srValue x 0x84 l u = x.v.hr.epc.toNat ∧ s.srValue x 0x86 l u = x.g.hvec.toNat
      ∧ s.srValue x 0x21 l u = x.g.mckrows.toNat ∧ s.srValue x 0x22 l u = x.g.mckcols.toNat
      ∧ s.srValue x 0x88 l u = x.v.hr.decop.toNat ∧ s.srValue x 0x89 l u = x.v.hr.decfld0.toNat
      ∧ s.srValue x 0x8A l u = x.v.hr.decfld1.toNat ∧ s.srValue x 0x8B l u = (Map.get x.v.hr.decfld2 0 l).toNat
      ∧ s.srValue x 0x8C l u = (Map.get x.v.hr.decfld3 0 l).toNat
      ∧ (∀ k, k < 8 → s.srValue x (0xC0 + k) l u = (lrSlot (s.recOf x.g) k).toNat)
      ∧ (∀ n, 0x300 ≤ n → s.srValue x n l u = (Map.get s.mgmt.sysregs 0 n).toNat)
      ∧ ∀ n, n < 64 → ∃ p : Nat → Nat, (∀ k, p (k + 1) = (p k + 5) % 7168)
          ∧ ∀ k, ({ s with tick := k } : State).srValue x (0x40 + n) l u
            = (7168 - p k) / 5 + 2 ^ 16 * (if p k < 168 then ceilDiv (168 - p k) 5 else 0))
  ∧ (∀ a s x, Issues (.srwr a) s x → (a.idx.val = 0x20 ∨ a.idx.val = 0x86)
    ∧ ∀ l u, lowLane x.on = some l → s.laneThread x.w l = some u →
      ∃ t, Gives (.srwr a) s t ∧ GoneOn x t ∧ t = { s with groups := t.groups, waves := t.waves }
        ∧ (∀ g, g ≠ x.gid → Map.find t.groups g = Map.find s.groups g)
        ∧ (a.idx.val = 0x20 → Map.find t.groups x.gid
            = some { x.g with mcktol := (opVal (wdOf a.wide) a.s1 x.v u).setWidth 32 })
        ∧ (a.idx.val = 0x86 → Map.find t.groups x.gid
            = some { x.g with hvec := (opVal (wdOf a.wide) a.s1 x.v u).setWidth 64 }))

/-- Joins complete with the fragment that arrives last, over the lanes of every fragment that has arrived: `KBALLOT` collects
one bit of every lane of the join set, which is one where the guard and the selected predicate hold, for each lane with a true
guard or once for a mask; `SHFL` reads the source lane's value, and its predicate says whether that lane is in the join set;
`WRED` combines the values of the lanes with a true guard in ascending order; the quad derivatives difference two lanes of each
quad (spec 07, R177, R178, R182; spec 09, R245, R248). A fragment that issues one of the five while lanes of its join set are
missing waits, with its lanes and what each of them contributes kept; lanes disagree where a fragment holds an active lane outside the join set, which takes 0x0C8
plus 0 to 3 for the five in its active lanes, and where the join set names a lane that has left the wave, which takes 0x0CC
plus it (spec 07, R177; spec 18, R409). A fragment with no lane of the join set and no active lane goes on (the model's choice,
log 54). -/
def Obligations.Joins : Prop :=
  ((∀ a s x, Issues (.kballot a) s x →
    let j := joinSet (maskVal a.m x.v) x.fr
    JoinEnds s x j →
    let bit (l : Nat) : Option W64 :=
      s.joinVal x j (fun i u => some (if x.on.getLsbD i = true ∧ u.pred a.ps = !a.neg then 1 else 0)) 0 l
    ∃ (t : State) (b : Mask), Gives (.kballot a) s t
      ∧ (∀ l, b.getLsbD l = true ↔ j.getLsbD l = true ∧ bit l = some 1)
      ∧ (opWave a.d = false → JoinResult s t x j (fun _ u => opWrite a.d b u) id)
      ∧ (opWave a.d = true → JoinResult s t x j (fun _ u => u) (waveWrite a.d b)))
  ∧ (∀ a s x, Issues (.shfl a) s x →
    let j := joinSet (maskVal a.m x.v) x.fr
    JoinEnds s x j →
    let val (l : Nat) : W64 := (s.joinVal x j (fun _ u => some ((opVal (wdOf a.wide) a.s1 x.v u).setWidth 64)) 0 l).getD 0
    let word (l : Nat) : W64 := (s.joinVal x j (fun _ u => some ((opRead a.s2 x.v u).setWidth 64)) 1 l).getD 0
    ∃ t, Gives (.shfl a) s t ∧ JoinResult s t x j (fun l u =>
      let q := shflSource a.mode (word l).toNat l
      let hit := j.getLsbD q
      (putVal (wdOf a.wide) a.d ((val (if hit then q else l)).setWidth _) u).setPred a.pd hit) id)
  ∧ (∀ a s x, Issues (.wred a) s x →
    let j := joinSet (maskVal a.m x.v) x.fr
    JoinEnds s x j →
    let upTo (n : Nat) : List W32 := (List.range n).filterMap (fun l =>
      if j.getLsbD l then
        (s.joinVal x j (fun i u => if x.on.getLsbD i then some ((opRead a.s1 x.v u).setWidth 64) else none) 0 l).map (fun v =>
          v.setWidth 32)
      else none)
    ∃ t, Gives (.wred a) s t
      ∧ (opWave a.d = false → JoinResult s t x j (fun l u =>
          opWrite a.d (reduce a.op (upTo (if a.scan then l + 1 else 32))) u) id)
      ∧ (opWave a.d = true → JoinResult s t x j (fun _ u => u) (waveWrite a.d (reduce a.op (upTo 32)))))
  ∧ (∀ q s x, Issues (.derivx (.quad q)) s x → JoinEnds s x (quadSet x.fr.mask) →
    ∃ t, Gives (.derivx (.quad q)) s t ∧ JoinResult s t x (quadSet x.fr.mask) (fun l u =>
      let v (i : Nat) : FR := ofF32 (((s.joinVal x (quadSet x.fr.mask)
        (fun _ u => some ((opRead q.s1 x.v u).setWidth 64)) 0 i).getD 0).setWidth 32)
      let m := l / 4 * 4
      opWrite q.d (toF32 (FR.sub (v (if q.fine then m + (l % 4 ||| 1) else m + 1))
        (v (if q.fine then m + (l % 4 &&& 2) else m)))) u) id)
  ∧ ∀ q s x, Issues (.derivy (.quad q)) s x → JoinEnds s x (quadSet x.fr.mask) →
    ∃ t, Gives (.derivy (.quad q)) s t ∧ JoinResult s t x (quadSet x.fr.mask) (fun l u =>
      let v (i : Nat) : FR := ofF32 (((s.joinVal x (quadSet x.fr.mask)
        (fun _ u => some ((opRead q.s1 x.v u).setWidth 64)) 0 i).getD 0).setWidth 32)
      let m := l / 4 * 4
      opWrite q.d (toF32 (FR.sub (v (if q.fine then m + (l % 4 ||| 2) else m + 2))
        (v (if q.fine then m + (l % 4 &&& 1) else m)))) u) id)
  ∧ (let arrives (i : Instr) (d : Nat) (set : Iss → Mask) (own : Iss → Nat → Nat → Thread → Option W64) : Prop := ∀ s x,
      let j := set x
      let idle : Prop := s.issuer i = some x ∧ s.stalled x = false ∧ x.v.replay = false ∧ x.on = 0
      (Issues i s x ∨ idle → x.on &&& ~~~j = 0 → j &&& ~~~(s.waveLanes x.w) = 0 → x.fr.mask &&& j ≠ 0 →
        j &&& ~~~(x.fr.mask ||| s.arrived x.w x.fr.pc j) ≠ 0 →
        (∀ fr ∈ x.v.frags, fr.atJoin x.fr.pc j = false → ∀ k, fr.join = some k → x.fr.mask &&& j &&& BitVec.ofNat 32 k = 0) →
        ∃ t wt, Gives i s t ∧ t.frag x.w x.f = some { x.fr with st := .wait wt } ∧ wt.instr = i ∧ wt.on = x.on
          ∧ wt.aux = [j.toNat] ∧ t = { s with waves := t.waves } ∧ (∀ w, w ≠ x.w → Map.find t.waves w = Map.find s.waves w)
          ∧ ∀ k l u, (x.fr.mask &&& j).getLsbD l = true → s.laneThread x.w l = some u → k < 2 →
              Map.find wt.vals (32 * k + l) = own x k l u)
      ∧ (Issues i s x → CanTrap x → x.on &&& ~~~j ≠ 0 → ∃ t, Gives i s t ∧ Entered s t x x.on (0x0C8 + d))
      ∧ (Issues i s x → CanTrap x → x.on &&& ~~~j = 0 → j &&& ~~~(s.waveLanes x.w) ≠ 0 →
          ∃ t, Gives i s t ∧ Entered s t x x.on (0x0CC + d))
      ∧ (idle → j &&& ~~~(s.waveLanes x.w) = 0 → x.fr.mask &&& j = 0 → Gives i s (s.advance x))
    let one (v : Option W64) (k : Nat) : Option W64 := if k = 0 then v else none
    (∀ a, arrives (.kballot a) 0 (fun x => joinSet (maskVal a.m x.v) x.fr) (fun x k l u =>
        one (some (if x.on.getLsbD l = true ∧ u.pred a.ps = !a.neg then 1 else 0)) k))
    ∧ (∀ a, arrives (.shfl a) 1 (fun x => joinSet (maskVal a.m x.v) x.fr) (fun x k _ u =>
        some (if k = 0 then (opVal (wdOf a.wide) a.s1 x.v u).setWidth 64 else (opRead a.s2 x.v u).setWidth 64)))
    ∧ (∀ a, arrives (.wred a) 2 (fun x => joinSet (maskVal a.m x.v) x.fr) (fun x k l u =>
        one (if x.on.getLsbD l = true then some ((opRead a.s1 x.v u).setWidth 64) else none) k))
    ∧ (∀ q, arrives (.derivx (.quad q)) 3 (fun x => quadSet x.fr.mask) (fun x k _ u =>
        one (some ((opRead q.s1 x.v u).setWidth 64)) k))
    ∧ ∀ q, arrives (.derivy (.quad q)) 3 (fun x => quadSet x.fr.mask) (fun x k _ u =>
        one (some ((opRead q.s1 x.v u).setWidth 64)) k))

/-! ### Control flow -/

/-- Branches, calls and returns whose targets are good: `BRA` and `CALL` go to PC + 8 × the signed offset; `BRX` and
`CALLX` to the register pair's address, each lane its own; a call links PC + 8 in a pair or on the lane's call chain,
and `RET` takes the top of the chain (spec 06, R144; spec 07, R184, R185). Branch targets that are not good, and call
chains that are full or empty, where every active lane meets the same cause: 0x028 for a target that is not a multiple
of 8, 0x029 for one beyond 57 bits, 0x02A for a ninth entry of the chain and 0x02B for a return from an empty one; no
register and no chain changes (spec 07, R184, R185; spec 18, R408). -/
def Obligations.Branches : Prop :=
  ((∀ a s x, Issues (.bra a) s x → ∃ t, Gives (.bra a) s t
    ∧ Branched s t x (fun _ u => u) (fun _ _ => x.fr.pc + a.off.signExtend 57 * 8))
  ∧ (∀ a s x, Issues (.brx a) s x →
    EachActive s x (fun _ u => (opRead64 a.t x.v u).toNat % 8 = 0 ∧ (opRead64 a.t x.v u).toNat < 2 ^ 57) →
    ∃ t, Gives (.brx a) s t ∧ Branched s t x (fun _ u => u) (fun _ u => (opRead64 a.t x.v u).setWidth 57))
  ∧ (∀ a s x, Issues (.call a) s x → (a.link = .z → EachActive s x (fun _ u => u.chain.length < 8)) →
    ∃ t, Gives (.call a) s t ∧ Branched s t x (fun _ u =>
        if a.link = .z then { u with chain := (x.fr.pc + 8) :: u.chain }
        else opWrite64 a.link ((x.fr.pc + 8).setWidth 64) u)
      (fun _ _ => x.fr.pc + a.off.signExtend 57 * 8))
  ∧ (∀ a s x, Issues (.callx a) s x →
    EachActive s x (fun _ u => (opRead64 a.t x.v u).toNat % 8 = 0 ∧ (opRead64 a.t x.v u).toNat < 2 ^ 57
      ∧ (a.link = .z → u.chain.length < 8)) →
    ∃ t, Gives (.callx a) s t ∧ Branched s t x (fun _ u =>
        if a.link = .z then { u with chain := (x.fr.pc + 8) :: u.chain }
        else opWrite64 a.link ((x.fr.pc + 8).setWidth 64) u)
      (fun _ u => (opRead64 a.t x.v u).setWidth 57))
  ∧ ∀ a s x, Issues (.ret a) s x → EachActive s x (fun _ u => u.chain ≠ []) →
    ∃ t, Gives (.ret a) s t ∧ Branched s t x (fun _ u => { u with chain := u.chain.tail })
      (fun _ u => u.chain.headD 0))
  ∧ ((∀ a s x, Issues (.brx a) s x → CanTrap x →
    (EachActive s x (fun _ u => (opRead64 a.t x.v u).toNat % 8 ≠ 0) →
      ∃ t, Gives (.brx a) s t ∧ Entered s t x x.on 0x028)
    ∧ (EachActive s x (fun _ u => (opRead64 a.t x.v u).toNat % 8 = 0 ∧ 2 ^ 57 ≤ (opRead64 a.t x.v u).toNat) →
      ∃ t, Gives (.brx a) s t ∧ Entered s t x x.on 0x029))
  ∧ (∀ a s x, Issues (.callx a) s x → CanTrap x →
    EachActive s x (fun _ u => (opRead64 a.t x.v u).toNat % 8 ≠ 0) →
      ∃ t, Gives (.callx a) s t ∧ Entered s t x x.on 0x028)
  ∧ (∀ a s x, Issues (.call a) s x → CanTrap x → a.link = .z → EachActive s x (fun _ u => 8 ≤ u.chain.length) →
    ∃ t, Gives (.call a) s t ∧ Entered s t x x.on 0x02A)
  ∧ ∀ a s x, Issues (.ret a) s x → CanTrap x → EachActive s x (fun _ u => u.chain = []) →
    ∃ t, Gives (.ret a) s t ∧ Entered s t x x.on 0x02B)

/-- Threads that leave their wave. `YIELD` only makes the wave the youngest and goes on. `EXIT`, outside a gate call, ends the
active threads: they are gone, every other thread is as it was, and what their end may complete in the group follows
(`checkGroup`); inside one it takes 0x0E4. `REFORM` takes the active threads out of the wave, ends the run of its slot, and
files them at PC + 8 in the bins of their group. With either the active lanes are in no fragment of the wave any longer, and the
others stay (spec 07, R186 to R188; spec 18, R419). Joins that waited for such a lane are
abandoned apart (`abandonJoin`): here no fragment of the wave waits at one, and the wave holds no asynchronous cause. -/
def Obligations.LeavingWaves : Prop :=
  (∀ a s x, Issues (.yield a) s x → ∃ t, Gives (.yield a) s t ∧ WaveResult s t x (fun v => { v with age := s.tick }))
  ∧ (∀ a s x, Issues (.exit a) s x → x.g.gates = [] → (∀ fr ∈ x.v.frags, fr.join = none) → x.v.asyncs = [] →
    ∃ s₁, Gives (.exit a) s (s₁.checkGroup x.gid)
      ∧ (∀ k ∈ s.tidsOf x.w x.on, Map.find s₁.threads k = none)
      ∧ (∀ k u, Map.find s.threads k = some u → ¬ x.active u → k ∉ s.tidsOf x.w x.on → Map.find s₁.threads k = some u)
      ∧ LanesLeft s s₁ x ∧ SameMemory s s₁
      ∧ (∀ g u, Map.find s.groups g = some u → ∃ l, Map.find s₁.groups g = some { u with stopped := l }))
  ∧ (∀ a s x, Issues (.exit a) s x → x.g.gates ≠ [] → CanTrap x →
    ∃ t, Gives (.exit a) s t ∧ Entered s t x x.on 0x0E4)
  ∧ ∀ a s x, Issues (.reform a) s x → (∀ fr ∈ x.v.frags, fr.join = none) → x.v.asyncs = [] →
    ∃ s₁, Gives (.reform a) s (s₁.fileThreads x.g.core x.gid ((s.tidsOf x.w x.on).map (fun k => (k, x.fr.pc + 8))))
      ∧ (∀ k u, Map.find s.threads k = some u →
          Map.find s₁.threads k = some (if (match u.place with | some (w, l) => decide (w = x.w) && x.on.getLsbD l | none => false) then { u with place := none } else u))
      ∧ LanesLeft s s₁ x ∧ s₁ = { s with threads := s₁.threads, waves := s₁.waves, cores := s₁.cores }
      ∧ (∀ sl ∈ (s₁.core x.v.core).slots, sl.wave = x.w → sl.isOpen = false)
      ∧ (∀ c, s₁.core c = { s.core c with slots := (s₁.core c).slots })
      ∧ ∀ (c i : Nat) (sl : Slot), (s.core c).slots[i]? = some sl → sl.wave ≠ x.w → (s₁.core c).slots[i]? = some sl

/-! ### Vector arithmetic -/

/-- Arithmetic on exact values: `FADD`, `FSUB`, `FMUL`, `FFMA`, `FDIV`, `FSQRT`, `FRCP`, `FRSQ`, `FEXP2`, `FLOG2`,
`FSIN`, `FCOS`, `FRND` and `FLDEXP` write the exact result, rounded once to FP32 by RNE; a NaN is the canonical one
(spec 05, R117, R120, R121; spec 09, R235, R238, R240). Log 19: the approximating functions round the exact function's
value. Minimum, maximum, comparison and class: a NaN operand of `FMIN` and `FMAX` gives the other operand, two give
the canonical NaN, and −0 is below +0; `FCMP` treats −0 as equal to +0, is false of a NaN in an ordered condition and
true of it in `.ne` and `.uno`; `FCLASS` sets the one bit of its operand's class (spec 09, R236, R237, R239). -/
def Obligations.FloatArithmetic : Prop :=
  (let one (i : B1 → Instr) (f : FR → FR) : Prop := ∀ a : B1, ActsAs (i a) (fun x _ u =>
    opWrite a.d (toF32 (f (ofF32 (opRead a.s1 x.v u)))) u)
  let two (i : B2 → Instr) (f : FR → FR → FR) : Prop := ∀ a : B2, ActsAs (i a) (fun x _ u =>
    opWrite a.d (toF32 (f (ofF32 (opRead a.s1 x.v u)) (ofF32 (opRead a.s2 x.v u)))) u)
  two .fadd FR.add ∧ two .fsub (fun p q => FR.add p q.neg) ∧ two .fmul FR.mul ∧ two .fdiv FR.div
    ∧ (∀ a : B3, ActsAs (.ffma a) (fun x _ u => opWrite a.d (toF32 (FR.add
        (FR.mul (ofF32 (opRead a.s1 x.v u)) (ofF32 (opRead a.s2 x.v u))) (ofF32 (opRead a.s3 x.v u)))) u))
    ∧ one .fsqrt FR.sqrt ∧ one .frcp (FR.div (.fin false 1 0)) ∧ one .frsq FR.rsqrt ∧ one .fexp2 exp2R ∧ one .flog2 log2R
    ∧ one .fsin sinR ∧ one .fcos cosR
    ∧ (∀ a, ActsAs (.frnd a) (fun x _ u => opWrite a.d (toF32 (match ofF32 (opRead a.s1 x.v u) with
        | .fin s m e => if 0 ≤ e then .fin s m e else .fin s (roundMag a.mode s m (-e).toNat) 0
        | v => v)) u))
    ∧ (∀ a, ActsAs (.fldexp a) (fun x _ u => opWrite a.d (toF32 (match ofF32 (opRead a.s1 x.v u) with
        | .fin s m e => .fin s m (e + (opRead a.s2 x.v u).toInt)
        | v => v)) u))
    ∧ toF32 .nan = 0x7FC0_0000)
  ∧ ((∀ a : B2, ActsAs (.fmin a) (fun x _ u => opWrite a.d (fminBits (opRead a.s1 x.v u) (opRead a.s2 x.v u)) u))
  ∧ (∀ a : B2, ActsAs (.fmax a) (fun x _ u => opWrite a.d (fmaxBits (opRead a.s1 x.v u) (opRead a.s2 x.v u)) u))
  ∧ (∀ a, ActsAs (.fcmp a) (fun x _ u =>
      let r := fccHolds a.cc (opRead a.s1 x.v u) (opRead a.s2 x.v u)
      (opWrite a.d (if r then BitVec.allOnes 32 else 0) u).setPred a.pd (match a.comb with
        | .none => r
        | .and => r && u.pred a.pm
        | .or => r || u.pred a.pm)))
  ∧ (∀ a, ActsAs (.fclass a) (fun x _ u => opWrite a.d
      (BitVec.ofNat 32 (classOf (fmtOfTy a.ty) ((opRead a.s1 x.v u).toNat % 2 ^ (fmtOfTy a.ty).width))) u))
  ∧ (∀ p q, f32Nan p = true → f32Nan q = false → fminBits p q = q ∧ fmaxBits p q = q ∧ fminBits q p = q ∧ fmaxBits q p = q
      ∧ fccHolds .ne p q = true ∧ fccHolds .uno p q = true
      ∧ ∀ c, c ≠ .ne → c ≠ .uno → fccHolds c p q = false ∧ fccHolds c q p = false)
  ∧ (∀ p q, f32Nan p = true → f32Nan q = true → fminBits p q = 0x7FC0_0000 ∧ fmaxBits p q = 0x7FC0_0000)
  ∧ fminBits 0x8000_0000 0 = 0x8000_0000 ∧ fminBits 0 0x8000_0000 = 0x8000_0000 ∧ fmaxBits 0x8000_0000 0 = 0
  ∧ fmaxBits 0 0x8000_0000 = 0 ∧ fccHolds .eq 0x8000_0000 0 = true ∧ fccHolds .lt 0x8000_0000 0 = false)

/-- Conversions through a format slot of the launch record: `CVTF` between floating-point formats (nothing saturates within
one format), `CVTFI` to an integer that is clamped to its range, NaN giving 0, `CVTIF` from an integer; a slot with another
combination takes 0x048, 0x049 or 0x04A in every active lane (spec 05, R124; spec 09, R241; spec 18, R408). -/
def Obligations.Conversions : Prop :=
  (∀ a s x p q, Issues (.cvtf a) s x →
    let w := s.slotWord x a.slot
    fmtOfSlot (slotA w) = some p → fmtOfSlot (slotO w) = some q →
      ∃ t, Gives (.cvtf a) s t ∧ LaneResult s t x (fun _ u => opWrite a.d (BitVec.ofNat 32
        (roundTo q (rndOf (slotRnd w)) (slotSat w && decide (p ≠ q))
          (FR.ofBits p ((opRead a.s1 x.v u).toNat % 2 ^ p.width)))) u))
  ∧ (∀ a s x p, Issues (.cvtfi a) s x →
    let w := s.slotWord x a.slot
    fmtOfSlot (slotA w) = some p → slotO w = 5 ∨ slotO w = 6 ∨ slotO w = 7 →
      let lo : Int := if slotO w = 5 then -128 else if slotO w = 6 then 0 else -2147483648
      let hi : Int := if slotO w = 5 then 127 else if slotO w = 6 then 255 else 2147483647
      ∃ t, Gives (.cvtfi a) s t ∧ LaneResult s t x (fun _ u => opWrite a.d (BitVec.ofInt 32
        (toIntClamp (rndOf (slotRnd w)) lo hi (FR.ofBits p ((opRead a.s1 x.v u).toNat % 2 ^ p.width)))) u))
  ∧ (∀ a s x q, Issues (.cvtif a) s x →
    let w := s.slotWord x a.slot
    fmtOfSlot (slotO w) = some q → slotA w = 5 ∨ slotA w = 6 ∨ slotA w = 7 →
      ∃ t, Gives (.cvtif a) s t ∧ LaneResult s t x (fun _ u =>
        let v := opRead a.s1 x.v u
        let n : Int := if slotA w = 5 then (v.setWidth 8).toInt else if slotA w = 6 then (v.setWidth 8).toNat else v.toInt
        opWrite a.d (BitVec.ofNat 32 (roundTo q (rndOf (slotRnd w)) (slotSat w)
          (.fin (decide (n < 0)) n.natAbs 0))) u))
  ∧ ∀ a s x, CanTrap x →
      let w := s.slotWord x a.slot
      (Issues (.cvtf a) s x → 5 ≤ slotA w ∨ 5 ≤ slotO w → ∃ t, Gives (.cvtf a) s t ∧ Entered s t x x.on 0x048)
      ∧ (Issues (.cvtfi a) s x → 5 ≤ slotA w ∨ slotO w < 5 ∨ 7 < slotO w →
          ∃ t, Gives (.cvtfi a) s t ∧ Entered s t x x.on 0x049)
      ∧ (Issues (.cvtif a) s x → 5 ≤ slotO w ∨ slotA w < 5 ∨ 7 < slotA w →
          ∃ t, Gives (.cvtif a) s t ∧ Entered s t x x.on 0x04A)

/-- `PACK2` converts two values and writes both halves of its word, or, for 8-bit formats, the half that `.hi` names,
with the other half of S3; `UNPK2` converts two elements of its source to the two registers of a pair. A slot with a
combination they do not accept takes 0x04B or 0x04C (spec 09, R242; spec 18, R408). Packed arithmetic acts on each
half of a word by itself; `IDP4` adds the four products of bytes to its third operand; `INTERP` evaluates a plane, or
the quotient of two, and the plane derivatives their exact slopes, each rounded once (spec 09, R243, R244, R246,
R247). -/
def Obligations.PackedFormats : Prop :=
  ((∀ a s x, Issues (.pack2 a) s x → pack2Ok (s.slotWord x a.slot) a.hi = true →
    let w := s.slotWord x a.slot
    let n := slotWidth (slotO w)
    let cv (v : W32) : Nat := convert (slotA w) (slotO w) (rndOf (slotRnd w)) (slotSat w) v.toNat % 2 ^ n
    ∃ (t : State) (r : Thread → W32), Gives (.pack2 a) s t ∧ LaneResult s t x (fun _ u => opWrite a.d (r u) u)
      ∧ ∀ u, (n = 16 → (r u).toNat = cv (opRead a.s1 x.v u) + 2 ^ 16 * cv (opRead a.s2 x.v u))
          ∧ (n = 8 → ((r u).extractLsb' (16 * b2n a.hi) 16).toNat
                = cv (opRead a.s1 x.v u) + 2 ^ 8 * cv (opRead a.s2 x.v u)
              ∧ (r u).extractLsb' (16 * b2n (!a.hi)) 16 = (opRead a.s3 x.v u).extractLsb' (16 * b2n (!a.hi)) 16))
  ∧ (∀ a s x, Issues (.unpk2 a) s x → unpk2Ok (s.slotWord x a.slot) a.hi = true →
    let w := s.slotWord x a.slot
    let n := slotWidth (slotA w)
    let cv (v : Nat) : W32 := BitVec.ofNat 32 (convert (slotA w) (slotO w) (rndOf (slotRnd w)) (slotSat w) v)
    ∃ t, Gives (.unpk2 a) s t ∧ LaneResult s t x (fun _ u =>
      let v := (opRead a.s1 x.v u).toNat / 2 ^ (16 * b2n a.hi)
      opWrite64 a.d (cv (v / 2 ^ n % 2 ^ n) ++ cv (v % 2 ^ n)) u))
  ∧ (∀ a s x, CanTrap x → Issues (.pack2 a) s x → pack2Ok (s.slotWord x a.slot) a.hi = false →
    ∃ t, Gives (.pack2 a) s t ∧ Entered s t x x.on 0x04B)
  ∧ ∀ a s x, CanTrap x → Issues (.unpk2 a) s x → unpk2Ok (s.slotWord x a.slot) a.hi = false →
    ∃ t, Gives (.unpk2 a) s t ∧ Entered s t x x.on 0x04C)
  ∧ (let lo (v : W32) : Nat := (v.setWidth 16).toNat
  let hi (v : W32) : Nat := (v >>> 16).toNat
  let half (f : Fmt) (x : FR) : BitVec 16 := BitVec.ofNat 16 (roundTo f .rne false x)
  (∀ a, ActsAs (.hadd2 a) (fun x _ u =>
    let f := fmtOfHTy a.ty
    let r (g : W32 → Nat) : BitVec 16 :=
      half f (FR.add (FR.ofBits f (g (opRead a.s1 x.v u))) (FR.ofBits f (g (opRead a.s2 x.v u))))
    opWrite a.d (r hi ++ r lo) u))
  ∧ (∀ a, ActsAs (.hmul2 a) (fun x _ u =>
    let f := fmtOfHTy a.ty
    let r (g : W32 → Nat) : BitVec 16 :=
      half f (FR.mul (FR.ofBits f (g (opRead a.s1 x.v u))) (FR.ofBits f (g (opRead a.s2 x.v u))))
    opWrite a.d (r hi ++ r lo) u))
  ∧ (∀ a, ActsAs (.hfma2 a) (fun x _ u =>
    let f := fmtOfHTy a.ty
    let r (g : W32 → Nat) : BitVec 16 := half f (FR.add (FR.mul (FR.ofBits f (g (opRead a.s1 x.v u)))
      (FR.ofBits f (g (opRead a.s2 x.v u)))) (FR.ofBits f (g (opRead a.s3 x.v u))))
    opWrite a.d (r hi ++ r lo) u))
  ∧ (∀ a, ActsAs (.idp4 a) (fun x _ u =>
    let b (sg : Bool) (v : W32) (i : Nat) : W32 :=
      if sg then (v.extractLsb' (8 * i) 8).signExtend 32 else (v.extractLsb' (8 * i) 8).setWidth 32
    let p (i : Nat) : W32 := b a.sa (opRead a.s1 x.v u) i * b a.sb (opRead a.s2 x.v u) i
    opWrite a.d (opRead a.s3 x.v u + p 0 + p 1 + p 2 + p 3) u))
  ∧ (∀ a, ActsAs (.interp a) (fun x _ u => opWrite a.d (toF32 (match a.persp with
      | none => planeAt a.s1 a.s2 x.v u
      | some o => FR.div (planeAt a.s1 a.s2 x.v u) (planeAt o a.s2 x.v u))) u))
  ∧ ∀ a, ActsAs (.derivx (.plane a)) (fun x _ u => opWrite a.d (toF32 (derivR a 0 x.v u)) u)
      ∧ ActsAs (.derivy (.plane a)) (fun x _ u => opWrite a.d (toF32 (derivR a 1 x.v u)) u)
      ∧ ∀ i v u, (a.persp = none → derivR a i v u = nthR a.s1 i v u)
          ∧ ∀ o, a.persp = some o → derivR a i v u
            = FR.div (FR.sub (FR.mul (nthR a.s1 i v u) (planeAt o a.s2 v u)) (FR.mul (planeAt a.s1 a.s2 v u) (nthR o i v u)))
                (FR.mul (planeAt o a.s2 v u) (planeAt o a.s2 v u)))

/-- Sums and products are exact, and rounding is right: a finite pattern of any format is rounded to itself by every mode;
RTZ, RDN and RUP cut a magnitude toward zero, down and up, and RNE takes the nearest integer, the even one of two (spec 05,
R115, R121, R128). -/
def Obligations.ExactRounding : Prop :=
  (∀ s m e t n d q, q ≤ e → q ≤ d →
    (FR.add (.fin s m e) (.fin t n d)).units q = (FR.fin s m e).units q + (FR.fin t n d).units q)
  ∧ (∀ s m e t n d p q, p ≤ e → q ≤ d →
    (FR.mul (.fin s m e) (.fin t n d)).units (p + q) = (FR.fin s m e).units p * (FR.fin t n d).units q)
  ∧ (∀ (f : Fmt) (mode : Rnd) (sat : Bool) (v : Nat), v < 2 ^ f.width → v % 2 ^ (f.width - 1) ≤ f.maxCode →
    roundTo f mode sat (FR.ofBits f v) = v)
  ∧ ∀ (neg : Bool) (m d : Nat),
    roundMag .rtz neg m d = m / 2 ^ d
    ∧ roundMag .rdn neg m d = (if neg then (m + 2 ^ d - 1) / 2 ^ d else m / 2 ^ d)
    ∧ roundMag .rup neg m d = (if neg then m / 2 ^ d else (m + 2 ^ d - 1) / 2 ^ d)
    ∧ 2 * m ≤ (2 * roundMag .rne neg m d + 1) * 2 ^ d ∧ 2 * roundMag .rne neg m d * 2 ^ d ≤ 2 * m + 2 ^ d
    ∧ (2 * m % 2 ^ d = 0 → m % 2 ^ d ≠ 0 → roundMag .rne neg m d % 2 = 0)

/-! ### Memory -/

/-- Loads issue: `LD`, `LDS`, `LDWS` in each active lane, `LDW` once for all of them at the address of the lowest, and
`ACQ`, which also orders later accesses. The address is the element of the buffer record at the index register plus
the offset; where every active lane's access takes part the load is in flight, with its destination pending (spec 04,
R89, R103; spec 08, R194, R196 to R199, R204; spec 11, R311). Address causes of loads, stores and atomics, where every
active lane meets the same one: 0x0A8 + D for an address that is not a multiple of the width, and 0x0A0 + D for one
out of the extent of a strict record, with D 0 for a load, 1 for a store and 2 for an atomic; a lane out of the extent
of a record that is not strict takes part and reaches nothing (spec 04, R89, R90; spec 18, R411). -/
def Obligations.LoadIssueAndAddresses : Prop :=
  (let load (i : Instr) (m : MemOp) (sp : Space) (d : Opnd) (n : Nat) : Prop := ∀ s x, Issues i s x →
    let p := s.formLanes x.w x.on (fun q _ u =>
      q.formElem x.gid x.g (x.g.buf m.brec.val) sp 0 ((opRead m.ix x.v u).toNat + m.off.toInt) n)
    (∀ e ∈ p.1, e.2.takesPart = true) →
      ∃ t, Gives i s t ∧ Accessed s t p.2 x 0 (streamMask m.str.val) (s.partsOf x p.1 n (fun _ => [])) [] 0 (destRegs d n)
  (∀ a, load (.ld a) a.m (.virt .read) a.d (widthBytes a.width))
  ∧ (∀ a, load (.lds a) a.m .scr a.d (widthBytes a.width))
  ∧ (∀ a, load (.ldws a) a.m .ws a.d (widthBytes a.width))
  ∧ (∀ a s x l u f q, Issues (.ldw a) s x → lowLane x.on = some l → s.laneThread x.w l = some u →
      s.formElem x.gid x.g (x.g.buf a.m.brec.val) (.virt .read) 0 ((opRead a.m.ix x.v u).toNat + a.m.off.toInt)
        (widthBytes a.width) = (f, q) → f.takesPart = true →
      ∃ t, Gives (.ldw a) s t ∧ Accessed s t q x 0 (streamMask a.m.str.val)
        (s.partsOf x ((lanesOf x.on).map (fun l => (l, f))) (widthBytes a.width) (fun _ => [])) [] 0
        (destRegs a.d (widthBytes a.width)))
  ∧ ∀ a s x, Issues (.acq a) s x →
    let n := if a.wide then 8 else 4
    let p := s.formLanes x.w x.on (fun q _ u =>
      q.formElem x.gid x.g (x.g.buf a.brec.val) (if a.scr then .scr else .virt .read) 0 ((opRead a.ix x.v u).toNat + 0) n)
    (∀ e ∈ p.1, e.2.takesPart = true) →
      ∃ t, Gives (.acq a) s t ∧ Accessed s t p.2 x 0 allStreams (s.partsOf x p.1 n (fun _ => [])) [] 0 (destRegs a.d n)
        ∧ ∀ k ∈ s.tidsOf x.w x.on, ∃ u, Map.find t.threads k = some u
          ∧ ({ paths := a.paths, smask := a.smask, keys := [(s.nextKey, 0)], samePath := false } : FenceRec) ∈ u.fences)
  ∧ ((let traps (i : Instr) (brec : Nat) (ix : Opnd) (off : Int) (d n : Nat) : Prop := ∀ s x, Issues i s x → CanTrap x →
    let r := x.g.buf brec
    let e (u : Thread) : Int := (opRead ix x.v u).toNat + off
    (EachActive s x (fun _ u => inExtent r (e u) n = true ∧ elemAddr r (e u) % min n 16 ≠ 0) →
      ∃ t, Gives i s t ∧ Entered s t x x.on (0x0A8 + d))
    ∧ (recStrict r = true → EachActive s x (fun _ u => inExtent r (e u) n = false) →
      ∃ t, Gives i s t ∧ Entered s t x x.on (0x0A0 + d))
  (∀ a, traps (.ld a) a.m.brec.val a.m.ix a.m.off.toInt 0 (widthBytes a.width))
  ∧ (∀ a, traps (.lds a) a.m.brec.val a.m.ix a.m.off.toInt 0 (widthBytes a.width))
  ∧ (∀ a, traps (.ldws a) a.m.brec.val a.m.ix a.m.off.toInt 0 (widthBytes a.width))
  ∧ (∀ a, traps (.st a) a.m.brec.val a.m.ix a.m.off.toInt 1 (widthBytes a.width))
  ∧ (∀ a, traps (.sts a) a.m.brec.val a.m.ix a.m.off.toInt 1 (widthBytes a.width))
  ∧ (∀ a, traps (.atom a) a.m.brec.val a.m.ix a.m.off.toInt 2 (if a.wide then 8 else 4))
  ∧ (∀ a, traps (.atoms a) a.m.brec.val a.m.ix a.m.off.toInt 2 (if a.wide then 8 else 4))
  ∧ (∀ a, traps (.atomf a) a.m.brec.val a.m.ix a.m.off.toInt 2 4)
  ∧ (∀ a, traps (.cas a) a.m.brec.val a.m.ix a.m.off.toInt 2 4)
  ∧ (∀ a, traps (.cass a) a.m.brec.val a.m.ix a.m.off.toInt 2 4))
  ∧ ∀ (s : State) gid g r sp d e n, inExtent r e n = false → recStrict r = false →
    s.formElem gid g r sp d e n = (.skip (elemAddr r e), s))

/-- Stores and atomics issue: `ST`, `STS`, `REL`, `ATOM`, `ATOMS`, `ATOMF`, `CAS` and `CASS` in each active lane, with the
bytes of their source operand; an atomic that returns holds its destination pending and counts as a load, one that does not
and every store counts as a store; `REL` waits for every earlier access on its paths and streams (spec 04, R103, R107; spec
08, R197 to R204). -/
def Obligations.StoreIssue : Prop :=
  let form (s : State) (x : Iss) (brec : Nat) (ix : Opnd) (off : Int) (sp : Space) (d n : Nat) :
      List (Nat × Formed) × State :=
    s.formLanes x.w x.on (fun q _ u => q.formElem x.gid x.g (x.g.buf brec) sp d ((opRead ix x.v u).toNat + off) n)
  let store (i : Instr) (m : MemOp) (sp : Space) (d : Opnd) (n : Nat) : Prop := ∀ s x, Issues i s x →
    let p := form s x m.brec.val m.ix m.off.toInt sp 1 n
    (∀ e ∈ p.1, e.2.takesPart = true) →
      ∃ t, Gives i s t ∧ Accessed s t p.2 x 0 (streamMask m.str.val) (s.partsOf x p.1 n (opBytes d n x.v)) [] 1 []
  let atomic (i : Instr) (m : MemOp8) (sp : Space) (d : Opnd) (n len : Nat) (nr : Bool) : Prop := ∀ s x, Issues i s x →
    let p := form s x m.brec.val m.ix m.off.toInt sp 2 n
    (∀ e ∈ p.1, e.2.takesPart = true) →
      ∃ t, Gives i s t ∧ Accessed s t p.2 x 0 (streamMask m.str.val) (s.partsOf x p.1 n (opBytes d len x.v)) []
        (if nr then 1 else 0) (if nr then [] else destRegs d n)
  (∀ a, store (.st a) a.m (.virt .write) a.data (widthBytes a.width))
  ∧ (∀ a, store (.sts a) a.m .scr a.d (widthBytes a.width))
  ∧ (∀ a, atomic (.atom a) a.m (.virt .atomic) a.d (if a.wide then 8 else 4) (if a.wide then 8 else 4) a.nr)
  ∧ (∀ a, atomic (.atoms a) a.m .scr a.d (if a.wide then 8 else 4) (if a.wide then 8 else 4) false)
  ∧ (∀ a, atomic (.atomf a) a.m (.virt .atomic) a.d 4 4 a.nr)
  ∧ (∀ a, atomic (.cas a) a.m (.virt .atomic) a.d 4 8 false)
  ∧ (∀ a, atomic (.cass a) a.m .scr a.d 4 8 false)
  ∧ ∀ a s x, Issues (.rel a) s x →
    let n := if a.wide then 8 else 4
    let p := form s x a.brec.val a.ix 0 (if a.scr then .scr else .virt .write) 1 n
    (∀ e ∈ p.1, e.2.takesPart = true) →
      ∃ t f, Gives (.rel a) s t ∧ Accessed s t p.2 x 0 allStreams (s.partsOf x p.1 n (opBytes a.d n x.v)) [] 1 []
        ∧ Map.find t.flights s.nextKey = some f
        ∧ ∀ k ∈ s.tidsOf x.w x.on, ∀ e ∈ s.flightsOn k a.paths a.smask, e.1 ∈ f.deps

/-- The data of a load or returning atomic arrives: the access leaves its threads' load counter and is no longer in flight; a
plain load changes no byte that any core reads, and each of its threads, in the gate call in which it issued, has in its
destination registers the bytes that its core reads at its place, after an acquire has pulled the stores released there, with the
sign of a narrow load extended where the instruction says so; out of extent they read zero (spec 04, R103, R110, R112; spec 08,
R196 to R199; spec 18, R411). An atomic writes its new value over the old one, in memory, and no other byte, and returns the old
one (R200 to R202). The parts of a load that is made once (`LDW`) name one place, and no phase end of `DEPINIT.self` waits for the
access. A page of a scratchpad that is used holds the bytes it had, from its backing place if it had lost its physical page, and
one whose physical page is reused has its bytes there (spec 04, R93). -/
def Obligations.DataArrives : Prop :=
  (∀ (s : State) (key : Nat) (remote : List W128) (mark : Option (Fin 16)) (f : Flight),
    Map.find s.flights key = some f → raisesOf f.instr = some 0 → isBrld f.instr = false → s.mayPerform f = true →
    s.flightErrors f (s.farPoison f mark) = [] → (s.partyFor f).core = some f.core → LinesOk s →
    (∀ p ∈ f.parts, p.loc.remote = false ∧ PagesHeld s p.loc p.len
      ∧ (isAtomic f.instr = true → (∃ pa, p.loc = .mem pa) ∨ (∃ k o, p.loc = .scr k o) ∨ p.loc = .nil)) →
    (isOnce f.instr = true → ∀ p ∈ f.parts, ∀ q ∈ f.parts, q.loc = p.loc ∧ q.len = p.len ∧ q.data = p.data) →
    (f.parts.map (·.tid)).Nodup → s.waitingAt f.gid isSelfInit = [] →
    let q := s.pullParts f.instr f.parts
    ∃ t, Gives (.memoryResponse key remote mark) s t ∧ Map.find t.flights key = none
      ∧ (∀ p ∈ f.parts, ∀ u, Map.find s.threads p.tid = some u → ∃ u', Map.find t.threads p.tid = some u'
          ∧ (p.call = u.call → u'.nLd = u.nLd - 1) ∧ u'.preds = u.preds ∧ u'.chain = u.chain ∧ u'.place = u.place
          ∧ ((isAtomic f.instr = false ∨ f.parts = [p]) → p.call = u.call → s.fullOf f.gid = true →
            ∀ r sx, returnsTo f.instr = some (.g r, sx) →
              let l := if p.loc = .nil then outOfExtent f.instr p.len p.data else q.readLoc (some f.core) p.loc p.len
              ∀ e ∈ resultWords sx l r.val, Map.find u.pend e.1 = some key → u'.reg e.1 = e.2))
      ∧ (∀ k u, (∀ p ∈ f.parts, p.tid ≠ k) → Map.find s.threads k = some u → Map.find t.threads k = some u)
      ∧ (isAtomic f.instr = false → t.mem = { q.mem with l2 := t.mem.l2 } ∧ ∀ c, SameView c q t)
      ∧ ∀ p pa, isAtomic f.instr = true → f.parts = [p] → p.loc = .mem pa →
          let old := q.peekBy (some f.core) pa p.len
          let new := (atomWrite f.instr old p.data).getD old
          new.length = p.len → t.peek pa p.len = new ∧ t.peekBy (some f.core) pa p.len = new
            ∧ ∀ a, a < pa ∨ pa + p.len ≤ a → t.byteAt (some f.core) a = q.byteAt (some f.core) a)
  ∧ (∀ (s : State) i ps l g p, LinesOk s → isAcquire i = true → (l, g) ∈ s.mem.rels → p ∈ ps → p.loc.overlaps p.len l 8 = true →
    Flushed s (s.pullParts i ps) g)
  ∧ (∀ (s : State) gid i g, Map.find s.groups gid = some g → Map.wf g.scr = true → (s.core g.core).pages.length < physPages →
    (Map.find g.scrOut i ≠ none → (gid, i) ∉ (s.core g.core).pages) →
    ∃ g', Map.find (s.pin gid i).groups gid = some g' ∧ Map.find g'.scrOut i = none
      ∧ (gid, i) ∈ ((s.pin gid i).core g.core).pages ∧ ∀ o, o / 4096 = i → (s.pin gid i).scrByte g' o = s.scrByte g o)
  ∧ ∀ (s q : State) gid i g pa, Map.find s.groups gid = some g → s.backing g i = (some pa, q) → LinesOk s →
    let t := (s.spillPage gid i).2
    t.peek pa 4096 = g.pageBytes i ∧ ∃ g', Map.find t.groups gid = some g' ∧ Map.find g'.scrOut i = some pa

/-- A store is performed: as its core reads all of HBM4 and DDR-5, the bytes of its lanes, where several lanes write one byte that
of the highest lane, and no other byte, have changed. A store of cached pages stays in its core's L1, and no other core reads it;
one that is not so cached stands in memory, and a release records itself at its place. An atomic without return writes its new
value in memory (spec 04, R91, R103, R110, R112; spec 08, R197, R200). What a flush of a group leaves: its stores in memory, and
every core that held the only ones reads as before. The values of atomics on 32 and 64 bits: sums wrap, minimum and maximum are
signed or unsigned, `.incw` and `.decw` wrap at their operand, an exchange and a logic operation are bitwise, and a
compare-and-swap writes its new value only over its comparand (spec 08, R200 to R202). -/
def Obligations.StoresPerform : Prop :=
  (∀ (s : State) (key : Nat) (f : Flight),
    Map.find s.flights key = some f → raisesOf f.instr = some 1 → s.mayPerform f = true →
    (∀ p ∈ f.parts, (∃ pa, p.loc = .mem pa) ∨ p.loc = .nil) → (∀ e ∈ s.host.sent, e.key ≠ some key) →
    (∀ p ∈ f.parts, ∀ q ∈ f.parts, q.tid = p.tid → q.call = p.call) → s.waitingAt f.gid isSelfInit = [] →
    (s.partyFor f).core = some f.core → LinesOk s →
    ∃ t, Gives (.storePerformed key) s t ∧ Map.find t.flights key = none
      ∧ (∀ k u, Map.find s.threads k = some u → ∃ u', Map.find t.threads k = some u'
          ∧ u' = { u with nSt := u'.nSt, pend := u'.pend, outer := u'.outer }
          ∧ ((∃ p ∈ f.parts, p.tid = k ∧ p.call = u.call) → u'.nSt = u.nSt - 1 ∧ u'.outer = u.outer))
      ∧ (isAtomic f.instr = false →
          (∀ a l p r b, f.parts = l ++ p :: r → p.writes a b → (∀ q ∈ r, ∀ c, ¬ q.writes a c) →
            t.byteAt (some f.core) a = b ∧ ((∃ p ∈ f.parts, s.throughL1 f p = false) → cellAt t.mem.cells a = b))
          ∧ (∀ a, (∀ p ∈ f.parts, ∀ c, ¬ p.writes a c) → t.byteAt (some f.core) a = s.byteAt (some f.core) a)
          ∧ ((∀ p ∈ f.parts, s.throughL1 f p = true) → (∀ e ∈ (s.core f.core).l1, e.dirty ≠ [] → e.gid = f.gid) →
              t.mem.cells = s.mem.cells ∧ ∀ c, c ≠ f.core → SameView c s t)
          ∧ (∀ a, cellAt t.mem.ws a = cellAt s.mem.ws a)
          ∧ (isRelease f.instr = true → ∀ p ∈ f.parts, p.loc ≠ .nil → (p.loc, f.gid) ∈ t.mem.rels))
      ∧ ∀ p pa, isAtomic f.instr = true → f.parts = [p] → p.loc = .mem pa →
          let q := s.pullParts f.instr f.parts
          let old := q.peekBy (some f.core) pa p.len
          let new := (atomWrite f.instr old p.data).getD old
          new.length = p.len → t.peek pa p.len = new ∧ t.peekBy (some f.core) pa p.len = new
            ∧ ∀ a, a < pa ∨ pa + p.len ≤ a → t.byteAt (some f.core) a = q.byteAt (some f.core) a)
  ∧ (∀ (s : State) g, LinesOk s → Flushed s (s.flushGroup g) g ∧ CachesOnly s (s.flushGroup g) ∧ LinesOk (s.flushGroup g)
    ∧ ∀ c, (∀ d, d ≠ c → ∀ e ∈ (s.core d).l1, e.gid = g → e.dirty = []) → SameView c s (s.flushGroup g))
  ∧ ((∀ (w : Nat) (p q : BitVec w),
    let n (op : AtomOp) : BitVec w := BitVec.ofNat w (atomNew op w p.toNat q.toNat)
    0 < w → n .add = p + q ∧ n .and = p &&& q ∧ n .or = p ||| q ∧ n .xor = p ^^^ q ∧ n .exch = q
      ∧ n .mins = (if q.toInt < p.toInt then q else p) ∧ n .minu = (if q.toNat < p.toNat then q else p)
      ∧ n .maxs = (if p.toInt < q.toInt then q else p) ∧ n .maxu = (if p.toNat < q.toNat then q else p)
      ∧ n .incw = (if q.toNat ≤ p.toNat then 0 else p + 1)
      ∧ n .decw = (if p = 0 ∨ q.toNat < p.toNat then q else p - 1))
  ∧ (∀ (a : CasArgs) (old cmp new : List Byte), cmp.length = 4 →
      atomWrite (.cas a) old (cmp ++ new) = (if old = cmp then some new else none)
      ∧ atomWrite (.cass a) old (cmp ++ new) = if old = cmp then some new else none)
  ∧ ∀ p q, atomfNew .add p q = toF32 (FR.add (ofF32 p) (ofF32 q)) ∧ atomfNew .min p q = fminBits p q
      ∧ atomfNew .max p q = fmaxBits p q)

/-- Buffer records. `BRSET` writes a record of the group from the registers of the lowest active lane and goes on; a value with a
reserved field or a misaligned base is refused with 0x068 + D and leaves the record as it was. `BRLD` loads 16 bytes once, at the
address of the lowest active lane, and its fragment waits for them; when they come the record is written and the fragment goes
on, or with a value that is refused takes 0x06C + D; no instruction that issued later has written the record (spec 03, R63, R64, R66; spec 08, R203; spec 17, R389). (The wait of `BRLD` is a
reading: log 17.) -/
def Obligations.BufferRecords : Prop :=
  (∀ a s x l u, Issues (.brset a) s x → lowLane x.on = some l → s.laneThread x.w l = some u →
    let r : W128 := opNth a.q 3 x.v u ++ opNth a.q 2 x.v u ++ opNth a.q 1 x.v u ++ opNth a.q 0 x.v u
    recRefusal r = none → ∃ t g, Gives (.brset a) s t ∧ GoneOn x t
      ∧ t = { s with groups := t.groups, waves := t.waves } ∧ (∀ k, k ≠ x.gid → Map.find t.groups k = Map.find s.groups k)
      ∧ (∀ w, w ≠ x.w → Map.find t.waves w = Map.find s.waves w)
      ∧ Map.find t.groups x.gid = some g ∧ g = { x.g with bufs := g.bufs, bufSeq := g.bufSeq } ∧ g.buf a.target.val = r
      ∧ ∀ n, n ≠ a.target.val → g.buf n = x.g.buf n)
  ∧ (∀ a s x l u d, Issues (.brset a) s x → lowLane x.on = some l → s.laneThread x.w l = some u → CanTrap x →
    recRefusal (opNth a.q 3 x.v u ++ opNth a.q 2 x.v u ++ opNth a.q 1 x.v u ++ opNth a.q 0 x.v u) = some d →
    ∃ t, Gives (.brset a) s t ∧ Entered s t x x.on (0x068 + d))
  ∧ (let forms (a : BrldArgs) (s : State) (x : Iss) (l : Nat) (u : Thread) (f : Formed) (q : State) : Prop :=
      Issues (.brld a) s x ∧ lowLane x.on = some l ∧ s.laneThread x.w l = some u
        ∧ s.formElem x.gid x.g (x.g.buf a.m.brec.val) (.virt .read) 0 ((opRead a.m.ix x.v u).toNat + a.m.off.toInt) 16 = (f, q)
    (∀ a s x l u f q, forms a s x l u f q → f.takesPart = true →
      ∃ t fl, Gives (.brld a) s t ∧ WaitsHere x [s.nextKey] t ∧ Translated s q ∧ Map.find t.flights s.nextKey = some fl
        ∧ fl.instr = .brld a ∧ fl.wave = x.w ∧ fl.gid = x.gid ∧ fl.asks.length = 1
        ∧ fl.parts = s.partsOf x ((lanesOf x.on).map (fun l => (l, f))) 16 (fun _ => []))
    ∧ ∀ a s x l u pa ad q, forms a s x l u (.at' (.mem pa) ad) q → s.flights = [] → (∀ c ∈ s.cores, c.2.copyq = []) →
      (∀ k ∈ s.tidsOf x.w x.on, ∀ u, Map.find s.threads k = some u → u.fences = []) → (∀ fr ∈ x.v.frags, fr.st = .ready) →
      (∀ e ∈ s.gangs, e.2.st ≠ .ended) → s.waitingAt x.gid isSelfInit = [] → LinesOk s →
      q.poisonAt (some x.g.core) (.mem pa) 16 = none →
      (∀ l u, x.fr.mask.getLsbD l = true → s.laneThread x.w l = some u → u.outer.length = x.g.gates.length) →
      (∀ e ∈ x.g.bufSeq, e.2 ≤ s.nextKey) →
      recRefusal (BitVec.ofNat 128 (ofBytes (q.peekBy (some x.g.core) pa 16))) = none →
      ∃ t v g, Gives (.brld a) s t ∧ Gives (.memoryResponse s.nextKey [] none) t v ∧ GoneOn x v ∧ v.flights = []
        ∧ v.mem = { q.mem with l2 := v.mem.l2 } ∧ (∀ c, SameView c q v)
        ∧ Map.find v.groups x.gid = some g ∧ g = { x.g with bufs := g.bufs, bufSeq := g.bufSeq }
        ∧ g.buf a.target.val = BitVec.ofNat 128 (ofBytes (q.peekBy (some x.g.core) pa 16))
        ∧ (∀ n, n ≠ a.target.val → g.buf n = x.g.buf n)
        ∧ ∀ k u, Map.find s.threads k = some u → ∃ u', Map.find v.threads k = some u' ∧ u' = { u with pend := u'.pend })
  ∧ ∀ a s key mark f p r i fr g, Map.find s.flights key = some f → f.instr = .brld a → s.mayPerform f = true →
      s.flightErrors f (s.farPoison f mark) = [] → f.parts = p :: r → (∀ q ∈ f.parts, ∃ pa, q.loc = .mem pa) →
      s.fragOn f.wave key isBrld = some (i, fr) → Map.find s.groups f.gid = some g →
      (∀ e ∈ s.gangs, e.2.st ≠ .ended) → s.waitingAt f.gid isSelfInit = [] → LinesOk s →
      ((lowLane fr.mask).bind (s.laneThread f.wave)).map (·.outer.length) = some g.gates.length →
      Map.get g.bufSeq 0 (16 * g.gates.length + a.target.val) ≤ key →
      recRefusal (BitVec.ofNat 128 (ofBytes (s.readLoc (some g.core) p.loc p.len))) = none →
      ∃ t g', Gives (.memoryResponse key [] mark) s t ∧ Map.find t.flights key = none
        ∧ t.frag f.wave i = some { fr with st := .ready, pc := fr.pc + 8 } ∧ t.mem = { s.mem with l2 := t.mem.l2 }
        ∧ Map.find t.groups f.gid = some g' ∧ g' = { g with bufs := g'.bufs, bufSeq := g'.bufSeq }
        ∧ g'.buf a.target.val = BitVec.ofNat 128 (ofBytes (s.readLoc (some g.core) p.loc p.len))
        ∧ ∀ n, n ≠ a.target.val → g'.buf n = g.buf n

/-- Fences leave in each active thread an order: later accesses on the paths and streams named wait for every earlier
one there, with `FENCE` only on their own path; a prefetch changes only what caches hold (spec 04, R106 to R108; spec
08, R205, R214). Barriers: a group that arrives whole in one fragment departs at the next instruction where the count is
every live thread (`gz`) or at most theirs; a fragment short of the count waits. With the phase flag the group's phase
ends. An arrival takes in every lane of its fragment the lowest cause it meets: 0x0C1 for a count above the live
threads, 0x0C2 for a count with the phase flag, 0x0C3 for 0 or above 1,024, and of a pending instance 0x0C0 for another
count, 0x0C4 other paths, 0x0C5 another phase flag, 0x0C6 the other instruction, 0x0C7 from inside a callee (spec 08,
R206; spec 18, R410, R417). The accesses that the barrier covers are done, for it acts only then (log 21); its core's
barrier table has room or the save pool has (spec 17, R402), and the phase record can be written (spec 17, R391). -/
def Obligations.FencesAndBarriers : Prop :=
  (let orders (i : Instr) (paths : BitVec 5) (sm : BitVec 16) (same : Bool) : Prop := ∀ s x, Issues i s x →
    ∃ t, Gives i s t ∧ GoneOn x t ∧ t = { s with threads := t.threads, waves := t.waves }
      ∧ (∀ w, w ≠ x.w → Map.find t.waves w = Map.find s.waves w)
      ∧ (∀ k u, Map.find s.threads k = some u → ∃ u', Map.find t.threads k = some u' ∧ u' = { u with fences := u'.fences }
          ∧ (k ∉ s.tidsOf x.w x.on → u' = u))
      ∧ ∀ k ∈ s.tidsOf x.w x.on, ∀ e ∈ s.pendingOn k paths sm, ∃ u f, Map.find t.threads k = some u ∧ f ∈ u.fences
          ∧ f.paths = paths ∧ f.smask = sm ∧ f.samePath = same ∧ e ∈ f.keys
  (∀ a, orders (.fence a) allPaths a.smask true) ∧ (∀ a, orders (.fencex a) a.paths a.smask false)
  ∧ (∀ a s x, Issues (.pref a) s x → LinesOk s → ∃ t, Gives (.pref a) s t ∧ GoneOn x t ∧ (∀ c, SameView c s t)
      ∧ (∀ w, w ≠ x.w → Map.find t.waves w = Map.find s.waves w)
      ∧ t = { s with waves := t.waves, cores := t.cores, mem := { s.mem with l2 := t.mem.l2 } }
      ∧ ∀ c, t.core c = { s.core c with l1 := (t.core c).l1 })
  ∧ ∀ (s : State) tid path sm at' u f k, Map.find s.threads tid = some u → f ∈ u.fences → f.paths.getLsbD path = true →
      f.smask &&& sm ≠ 0 → k ∈ f.keys → (f.samePath = false ∨ k.2 = path) → s.isLive k.1 = true →
      k.1 ∈ s.localDeps tid path sm at')
  ∧ (let at' (i : Instr) (id : Nat) (cnt : Opnd) (ph barx : Bool) (paths : BitVec 5) : Prop := ∀ s x l u, Issues i s x →
    lowLane x.on = some l → s.laneThread x.w l = some u →
    let n := (opRead cnt x.v u).toNat
    let room : Prop := s.poolGone x.g.core x.gid id = false
    (Whole s x → room → ph = false → (cnt = .z ∨ 0 < n ∧ n ≤ 1024 ∧ n ≤ (s.groupTids x.gid).length) →
      ∃ t, Gives i s t ∧ WholeGoneOn s t x)
    ∧ (Whole s x → room → ph = true → cnt = .z → s.phaseCause x.gid x.g = none → s.phaseRecordOk x.g = true → x.v.asyncs = [] →
      ∃ t, Gives i s t ∧ PhaseEnded s t x .queued)
    ∧ (∀ code, CanTrap x →
      let count := if cnt = .z then none else some n
      let cur (p : Bar → Bool) : Bool := s.arrivedAt x.gid id != 0 && ((Map.find x.g.bars id).map p).getD false
      minCode (codesWhere [
        (0x0C0, cur (fun c => c.count != count)), (0x0C1, cnt != .z && decide ((s.groupTids x.gid).length < n)),
        (0x0C2, cnt != .z && ph), (0x0C3, cnt != .z && (n == 0 || decide (1024 < n))),
        (0x0C4, cur (fun c => c.barx && barx && c.paths != paths)), (0x0C5, cur (fun c => c.ph != ph)),
        (0x0C6, cur (fun c => c.barx != barx)), (0x0C7, cur (fun c => decide (c.depth < x.g.gates.length)))]) = some code →
      ∃ t, Gives i s t ∧ Entered s t x x.fr.mask code)
    ∧ (room → cnt ≠ .z → ph = false → (s.tidsOf x.w x.fr.mask).length < n → n ≤ (s.groupTids x.gid).length → n ≤ 1024 →
      (s.waitingAt x.gid (isBarrier id)) = [] → (∀ e ∈ s.waves, e.1 = x.w → e = (x.w, x.v)) →
      ∃ t, Gives i s t ∧ WaitsHere x [] t ∧ SameThreads s t ∧ SameMemory s t)
  (∀ a, at' (.bar a) a.id.val a.cnt a.ph false 1) ∧ ∀ a, at' (.barx a) a.id.val a.cnt a.ph true a.paths)

/-- Waits: `WAITC` goes on where every active thread's outstanding counters are at or below the values it names, and waits
where none are, until `waitcSatisfied` finds them so; `WAITEQ` goes on where the element it reads equals its operand, or
differs with `.ne`, and waits where it does not; each look translates the elements again (spec 04, R84; spec 08, R208, R209). The
elements are memory of this device that holds no poison mark, and what a look changes no core reads but by an acquire. -/
def Obligations.Waits : Prop :=
  let looks (q : State) (f : Flight) (ps : List Part) : Prop :=
    (∀ p ∈ ps, p.loc.remote = false ∧ PagesHeld q p.loc p.len) ∧ q.flightErrors { f with parts := ps } [] = []
  (∀ a s x, Issues (.waitc a) s x → EachActive s x (fun _ u => waitcMet a u = true) →
    ∃ t, Gives (.waitc a) s t ∧ LaneResult s t x (fun _ u => u))
  ∧ (∀ a s x, Issues (.waitc a) s x → x.on = x.fr.mask → EachActive s x (fun _ u => waitcMet a u = false) →
    ∃ t, Gives (.waitc a) s t ∧ WaitsHere x [] t ∧ t = { s with waves := t.waves })
  ∧ (∀ a u, waitcMet a u = true ↔ u.nLd ≤ a.nld.val ∧ u.nSt ≤ a.nst.val ∧ u.nCp ≤ a.ncp.val ∧ u.nTl ≤ a.ntl.val)
  ∧ (∀ (s : State) w i fr wt a, s.frag w i = some fr → fr.st = .wait wt → wt.instr = .waitc a → fr.mask ≠ 0 →
    (∀ l u, fr.mask.getLsbD l = true → s.laneThread w l = some u → waitcMet a u = true) →
    ∃ t, Gives (.waitcSatisfied w i) s t ∧ t.frag w i = some { fr with st := .ready, pc := fr.pc + 8 }
      ∧ t = { s with waves := t.waves })
  ∧ (∀ a s x, Issues (.waiteq a) s x → s.flights = [] → (∀ c ∈ s.cores, c.2.copyq = []) →
    (∀ fr ∈ x.v.frags, fr.st = .ready) →
    let n := if a.wide then 8 else 4
    let p := s.formLanes x.w x.on (fun q _ u => q.formElem x.gid x.g (x.g.buf a.m.brec.val)
      (if a.scr then .scr else .virt .read) 0 ((opRead a.m.ix x.v u).toNat + a.m.off.toInt) n)
    (∀ e ∈ p.1, ∃ loc ad, e.2 = .at' loc ad) → Map.find s.groups x.gid = some x.g → LinesOk s →
    ∀ (fl : Flight) ps q, fl.instr = .waiteq a → fl.gid = x.gid → fl.pasid = x.g.pasid → fl.domain = x.g.domain →
      fl.core = x.g.core → fl.parts = s.partsOf x p.1 n (opBytes a.d n x.v) → p.2.placeAll fl x.g fl.parts = (ps, none, q) →
      looks q fl ps →
      ((∀ e ∈ ps, (q.readLoc (some x.g.core) e.loc e.len == e.data) = !a.ne) →
        ∃ t, Gives (.waiteq a) s t ∧ AllGoOn x t ∧ t.flights = [] ∧ t.threads = s.threads
          ∧ (a.acq = false → SameView x.g.core q t))
      ∧ (x.on = x.fr.mask → (∀ e ∈ ps, (q.readLoc (some x.g.core) e.loc e.len == e.data) = a.ne) →
        ∃ t, Gives (.waiteq a) s t ∧ WaitsHere x [s.nextKey] t ∧ t.threads = s.threads ∧ SameView x.g.core q t))
  ∧ ∀ (s q : State) w i fr wt a key f g ps, s.frag w i = some fr → fr.st = .wait wt → wt.instr = .waiteq a → wt.aux = [key] →
    Map.find s.flights key = some f → f.instr = .waiteq a → f.wave = w → s.mayPerform f = true →
    Map.find s.groups f.gid = some g → LinesOk s → s.placeAll f g f.parts = (ps, none, q) → looks q f ps →
    s.fragOn w key isWaiteq = some (i, fr) → fr.mask ≠ 0 → (∀ l, fr.mask.getLsbD l = true → ∃ p ∈ ps, p.lane = l) →
    (∀ p ∈ ps, (q.readLoc (some f.core) p.loc p.len == p.data) = !a.ne) →
    ∃ t, Gives (.waiteqSatisfied w i) s t ∧ t.frag w i = some { fr with st := .ready, pc := fr.pc + 8 }
      ∧ Map.find t.flights key = none ∧ (a.acq = false → SameView f.core q t)
      ∧ t = { s with
          waves := t.waves, flights := t.flights, cores := t.cores, mem := t.mem, mmu := t.mmu, host := t.host }

/-! ### Groups -/

/-- The register allotment of a group that arrives whole in one fragment: `ALLOT` goes on where the full allotment is
held, and where it can be granted gives g16 and above zero but for the carried values; else it waits for `allotGrant`,
which grants it; `ALLOTREL` gives g16 and above back; a stuck core spills its youngest-admitted waiting group, counted
under 0x0F8 (spec 02, R36 to R38; spec 08, R220; spec 17, R403). (The expected arrivals inside a callee are a reading:
log 48.) -/
def Obligations.Allotment : Prop :=
  let granted (s t : State) (gid : Nat) (g : Group) : Prop :=
    Map.find t.groups gid = some { g with full := true, st := .resident }
      ∧ (∀ k u, Map.find s.threads k = some u → u.gid ≠ gid → Map.find t.threads k = some u)
      ∧ ∀ k u, Map.find s.threads k = some u → u.gid = gid → ∃ u', Map.find t.threads k = some u'
        ∧ u' = { u with regs := u'.regs }
        ∧ (∀ r, r < 16 → Map.find u.saved r = none → u'.reg r = u.reg r)
        ∧ ∀ r, 16 ≤ r → u'.reg r = Map.get u.saved 0 r
  (∀ a s x, Issues (.allot a) s x → Whole s x →
    ((x.g.full = true ∨ x.g.budget ≤ 16) → ∃ t, Gives (.allot a) s t ∧ WholeGoneOn s t x ∧ t = { s with waves := t.waves })
    ∧ (x.g.full = false → 16 < x.g.budget → (s.arrive x [s.tick]).grantable x.gid = true →
      ∃ t, Gives (.allot a) s t ∧ GoneOn x t ∧ granted s t x.gid x.g ∧ SameMemory s t)
    ∧ (x.g.full = false → 16 < x.g.budget → (s.arrive x [s.tick]).grantable x.gid = false →
      ∃ t, Gives (.allot a) s t ∧ WaitsHere x [s.tick] t ∧ t = { s with waves := t.waves }))
  ∧ (∀ (s : State) gid g, Map.find s.groups gid = some g →
    (s.grantable gid = true → ∃ t, Gives (.allotGrant gid) s t ∧ granted s t gid g ∧ SameMemory s t
      ∧ ∀ w v i fr, Map.find s.waves w = some v → v.gid = gid → v.frags[i]? = some fr → fr.waitsAt isAllot = true →
        t.frag w i = some { fr with st := .ready, pc := fr.pc + 8 })
    ∧ (s.grantable gid = false → Gives (.allotGrant gid) s s))
  ∧ (∀ a s x, Issues (.allotrel a) s x → Whole s x →
    ((x.g.full = false ∨ x.g.budget ≤ 16) → ∃ t, Gives (.allotrel a) s t ∧ WholeGoneOn s t x)
    ∧ (x.g.full = true → 16 < x.g.budget → ∃ t, Gives (.allotrel a) s t ∧ GoneOn x t ∧ SameMemory s t
      ∧ Map.find t.groups x.gid = some { x.g with full := false }
      ∧ ∀ k u, Map.find s.threads k = some u → u.gid = x.gid → ∃ u', Map.find t.threads k = some u'
        ∧ u' = { u with regs := u'.regs, pend := u'.pend } ∧ (∀ r, r < 16 → u'.reg r = u.reg r)
        ∧ ∀ r, 16 ≤ r → u'.reg r = 0))
  ∧ ∀ (s : State) c o y, (s.allotQueue c).head? = some o →
    ((s.allotQueue c).filter (fun p => p.2.st == .resident)).getLast? = some y → o.1 ≠ y.1 → s.grantable o.1 = false →
    (∀ e ∈ s.groups, e.2.core = c → e.2.st = .resident → s.gathered e.1 isAllot = true) → Map.find s.groups y.1 = some y.2 →
    ∃ t, Gives (.allotSpill c) s t ∧ Map.find t.groups y.1 = some { y.2 with st := .spilled } ∧ SameThreads s t
      ∧ SameMemory s t ∧ (∀ w v, Map.find s.waves w = some v → v.gid = y.1 → Map.find t.waves w = some { v with resident := false })
      ∧ (Map.get t.rep.counters 0 0x0F8).toNat = min (2 ^ 32 - 1) ((Map.get s.rep.counters 0 0x0F8).toNat + 1)

/-- `SYNC` and `PHEND` of a group that arrives whole in one fragment: `SYNC` goes on where the group has no unfinished
child, and otherwise ends the phase until its children have finished; `PHEND` ends the phase; a phase end inside a
non-pre-emptible region takes 0x0F7, and one whose record cannot be written kills the gang with 0x0FF (spec 02, R39, R40,
R43; spec 08, R222; spec 17, R391; spec 18, R417). Non-pre-emptible regions:
`NOPRE` marks the group, from its first execution, and `PREON` clears the mark; a region that reaches 2 ms loses it,
and 0x0F4 falls on the next instruction of the wave that began it (spec 08, R231; spec 11, R317; spec 18, R417).
(Phase records are held beside memory: log 10.) -/
def Obligations.PhaseEndsAndRegions : Prop :=
  ((∀ a s x, Issues (.sync a) s x → Whole s x →
    (x.g.children = 0 → ∃ t, Gives (.sync a) s t ∧ WholeGoneOn s t x ∧ t = { s with waves := t.waves })
    ∧ (x.g.children ≠ 0 → s.phaseCause x.gid x.g = none → s.phaseRecordOk x.g = true → x.v.asyncs = [] →
      ∃ t, Gives (.sync a) s t ∧ PhaseEnded s t x .children))
  ∧ (∀ a s x, Issues (.phend a) s x → Whole s x →
    (s.phaseCause x.gid x.g = none → s.phaseRecordOk x.g = true → x.v.asyncs = [] →
      ∃ t, Gives (.phend a) s t ∧ PhaseEnded s t x .queued)
    ∧ (∀ c, phaseRefusal x.g = some c → CanTrap x → ∃ t, Gives (.phend a) s t ∧ Entered s t x x.fr.mask c)
    ∧ (s.phaseCause x.gid x.g = none → s.phaseRecordOk x.g = false →
      ∃ s₁, Gives (.phend a) s (s₁.killGroup x.gid { cause := 0x0FF }) ∧ SameMemory s s₁ ∧ SameThreads s s₁))
  ∧ (∀ (s : State) gid g, s.phaseCause gid g = match phaseRefusal g with
      | some c => some c
      | none => if s.carryDiffers gid g then some 0x159 else none)
  ∧ ∀ g : Group, phaseRefusal g = (if g.gates ≠ [] then some 0x0E5 else if g.stopped ≠ [] then some 0x0F6
      else if g.noPre.isSome then some 0x0F7 else none))
  ∧ ((∀ a s x, Issues (.nopre a) s x → ∃ t, Gives (.nopre a) s t ∧ GoneOn x t
    ∧ Map.find t.groups x.gid = some { x.g with noPre := some (x.g.noPre.getD (s.tick, x.w)) }
    ∧ (∀ g, g ≠ x.gid → Map.find t.groups g = Map.find s.groups g) ∧ t = { s with groups := t.groups, waves := t.waves })
  ∧ (∀ a s x, Issues (.preon a) s x → ∃ t, Gives (.preon a) s t ∧ GoneOn x t
    ∧ Map.find t.groups x.gid = some { x.g with noPre := none }
    ∧ (∀ g, g ≠ x.gid → Map.find t.groups g = Map.find s.groups g)
    ∧ t = { s with groups := t.groups, waves := t.waves, cores := t.cores })
  ∧ (∀ (s : State) gid g start w v, Map.find s.groups gid = some g → g.noPre = some (start, w) → start + 3500000 ≤ s.tick →
    Map.find s.waves w = some v →
    ∃ t, Gives (.regionLimitExpiry gid) s t ∧ Map.find t.groups gid = some { g with noPre := none }
      ∧ Map.find t.waves w = some { v with regionCause := some (v.regionCause.getD 0x0F4) }
      ∧ t = { s with groups := t.groups, waves := t.waves })
  ∧ (∀ i s x c, s.issuer i = some x → s.stalled x = false → x.v.replay = false → x.on ≠ 0 → (encode i).isSome →
    s.stage1 x.g x.fr.hnd i = [] → x.v.regionCause = some c → Gives i s (s.regionFault x c)))

/-- Gate calls of a group that arrives whole in one fragment: the call enters the callee, takes the entry's lowest cause
in every requesting lane where the entry refuses it, returns all ones in g0 to g3 where the service is lost, and otherwise
waits until `gateFrameFree` finds no argument pending, registers and a frame; a `GRET` outside a call takes 0x120, and the return of every requesting thread gives the group its caller's
space, domain, records, vector and allotment back and each thread its caller's registers, with g0 to g3 from the
callee where RESMASK says so (spec 02, R46, R47; spec 08, R228 to R230; spec 18, R418). (Gate frames are held beside
memory: log 10; the causes of a count are a reading: log 49.) -/
def Obligations.GateCalls : Prop :=
  (∀ a s x, Issues (.gcall a) s x → Whole s x → a.cnt = .z → s.tidsOf x.w x.on ≠ [] →
    let w := s.gateWord x.g.func a.gate.val
    let s₁ := s.arrive x [0, 0, 0]
    (CalleeReady s₁ x.g w (s.tidsOf x.w x.on) →
      ∃ t, Gives (.gcall a) s t ∧ CalleeEntered s t x.gid x.g w x.w x.on x.fr.pc)
    ∧ (∀ c, (x.g.gateClosed w = some c
          ∨ x.g.gateClosed w = none ∧ (w 0).testBit 62 = false ∧ s.gateRefusal x.g w (s.tidsOf x.w x.on).length = some c) →
      x.g.st = .resident → x.on = x.fr.mask → CanTrap x → ∃ t, Gives (.gcall a) s t ∧ Entered s t x x.on c)
    ∧ (x.g.gateClosed w = none → (w 0).testBit 62 = true → x.g.st = .resident →
      ∃ t, Gives (.gcall a) s t ∧ GoneOn x t ∧ ∀ k u, Map.find s.threads k = some u → x.active u →
        ∃ u', Map.find t.threads k = some u' ∧ ∀ r, u'.reg r = if r < 4 then BitVec.allOnes 32 else u.reg r)
    ∧ (x.g.gateClosed w = none → s.gateRefusal x.g w (s.tidsOf x.w x.on).length = none → (w 0).testBit 62 = false →
      (s₁.copiesPending (s.tidsOf x.w x.on) (bits (w 2) 7 0) = true
        ∨ s₁.calleeFits x.g (8 * bits (w 1) 5 0 * (s.tidsOf x.w x.on).length) = false) →
      ∃ t, Gives (.gcall a) s t ∧ WaitsHere x [0, 0, 0] t ∧ t = { s with waves := t.waves }))
  ∧ (∀ (s : State) gid g wv fr wt a v, Map.find s.groups gid = some g → s.waitingAt gid isGcall = [(wv, fr)] →
    Map.find s.waves wv = some v → v.gid = gid → fr ∈ v.frags → fr.st = .wait wt → wt.instr = .gcall a →
    wt.aux = [0, g.gates.length, 0] → (s.groupTids gid).length ≤ (s.tidsOf wv fr.mask).length →
    s.tidsOf wv (wt.on &&& fr.mask) ≠ [] →
    CalleeReady s g (s.gateWord g.func a.gate.val) (s.tidsOf wv (wt.on &&& fr.mask)) →
    ∃ t, Gives (.gateFrameFree gid) s t
      ∧ CalleeEntered s t gid g (s.gateWord g.func a.gate.val) wv (wt.on &&& fr.mask) fr.pc)
  ∧ (∀ a s x, Issues (.gret a) s x → x.g.gates = [] → CanTrap x → ∃ t, Gives (.gret a) s t ∧ Entered s t x x.on 0x120)
  ∧ ∀ a s x fr rest, Issues (.gret a) s x → Map.wf s.threads = true → x.g.gates = fr :: rest → x.v.frags = [x.fr] →
    (∀ e ∈ s.waves, e.2.gid = x.gid → e = (x.w, x.v)) → x.on = x.fr.mask → fr.requesters = s.tidsOf x.w x.on →
    fr.requesters ≠ [] → fr.others = [] → fr.stkz = false → x.g.savedBuckets = [] →
    (s.arrive x []).copiesPending (fr.requesters.filter (Map.has s.threads)) fr.resmask = false →
    let q := (s.arrive x []).touch x.g.ctx (fr.framesVa + fr.index * gateFrameBytes) gateFrameBytes .read
    q.1.isSome → q.2.frameBad x.g fr = false →
    ∃ t, Gives (.gret a) s t
      ∧ Map.find t.groups x.gid = some { x.g with
          bufs := fr.bufs, pasid := fr.pasid, domain := fr.domain, hvec := fr.hvec, full := fr.full, budget := fr.budget,
          gates := rest }
      ∧ (∀ l, x.on.getLsbD l = true → ∃ v f, Map.find t.waves x.w = some v ∧ f ∈ v.frags ∧ f.mask.getLsbD l = true
          ∧ f.pc = fr.pc ∧ f.st = .ready)
      ∧ ∀ k ∈ fr.requesters, ∀ u o os, Map.find s.threads k = some u → u.outer = o :: os → ∃ u',
          Map.find t.threads k = some u' ∧ u'.outer = os ∧ u'.preds = o.preds ∧ u'.chain = o.chain
            ∧ ∀ r, u'.reg r = if r < 4 ∧ fr.resmask.testBit r = true then u.reg r else Map.get o.regs 0 r

/-! ### Regions and handlers -/

/-- Returns from the handler: `eret.retry` resumes the faulting lanes at `sr.epc`, `eret.skip` after it, the held lanes at
`sr.epc` and the others where they were going; `eret.exit` ends the faulting lanes' threads and `eret.exitall` every thread
of the wave, or kills a gang that is inside a gate call with 0x124. An asynchronous cause enters a wave that can take it with
its frozen fragments as they are (spec 17, R396 to R398; spec 18, R420). No thread waits for the end of a handler in
`DEPINIT.self` here. -/
def Obligations.HandlerReturns : Prop :=
  (let resumes (i : Instr) (skip : VA) : Prop := ∀ s x h, Issues i s x → x.v.handler = some h →
      (∀ e ∈ s.waves, e.2.gid = x.gid → ∀ f ∈ e.2.frags, f.waitsAt isSelfInit = false) →
      ∃ t v, Gives i s t ∧ t = { s with waves := t.waves, cores := t.cores } ∧ Map.find t.waves x.w = some v
        ∧ v = { x.v with handler := none, frags := v.frags }
        ∧ (∀ f ∈ x.v.frags, f.hnd = false → f ∈ v.frags) ∧ (∀ w, w ≠ x.w → Map.find t.waves w = Map.find s.waves w)
        ∧ (h.async = true → v.frags = x.v.frags.filter (fun f => !f.hnd))
        ∧ (h.async = false →
          let at' (l : Nat) (pc : VA) : Prop := ∃ f ∈ v.frags, f.mask.getLsbD l = true ∧ f.pc = pc ∧ f.st = .ready;
          (∀ l, h.fault.getLsbD l = true → at' l (h.epc + skip)) ∧ (∀ l, h.held.getLsbD l = true → at' l h.epc)
            ∧ ∀ e ∈ h.rest, ∀ l, e.1.getLsbD l = true → at' l e.2);
    (∀ a, resumes (.eretRetry a) 0) ∧ ∀ a, resumes (.eretSkip a) 8)
  ∧ (let ends (i : Instr) (m : State → Iss → HMode → Mask) : Prop := ∀ s x h, Issues i s x → x.v.handler = some h →
      (x.g.gates ≠ [] → Gives i s (s.killGroup x.gid { cause := 0x124 }))
      ∧ (x.g.gates = [] → m s x h ≠ 0 → (∀ fr ∈ x.v.frags, fr.join = none) → x.v.asyncs = [] →
        ∃ s₁, Gives i s ((s₁.checkGroup x.gid).checkSelf x.gid)
          ∧ (∀ k ∈ s.tidsOf x.w (m s x h), Map.find s₁.threads k = none)
          ∧ (∀ k u, Map.find s.threads k = some u → u.place.map Prod.fst ≠ some x.w → k ∉ s.tidsOf x.w (m s x h) →
              Map.find s₁.threads k = some u)
          ∧ SameMemory s s₁ ∧ ∀ v, Map.find s₁.waves x.w = some v → v.handler = none);
    (∀ a, ends (.eretExit a) (fun _ _ h => h.fault)) ∧ ∀ a, ends (.eretExitall a) (fun s x _ => s.waveLanes x.w))
  ∧ ∀ (s : State) w v g c r, Map.find s.waves w = some v → Map.find s.groups v.gid = some g → v.resident = true →
      v.handler = none → v.heldCauses = [] → v.asyncs = c :: r → s.canHandle w v = true → hvecOk g.hvec = true → c.code < 512 →
      ∃ t u h fr, Gives (.asyncCauseEntry w) s t ∧ Map.find t.waves w = some u ∧ u.handler = some h ∧ h.async = true
        ∧ h.code = c.code ∧ u.asyncs = r ∧ u.hr.cause.toNat % 512 = c.code ∧ u.hr.faultmask = s.lanesOfTids w c.tids
        ∧ u.frags = v.frags ++ [fr] ∧ fr.hnd = true ∧ fr.st = .ready ∧ fr.pc = g.hvec.setWidth 57
        ∧ fr.mask = readyLanes v.frags &&& ~~~(s.heldLanes w) ∧ SameThreads s t ∧ SameMemory s t

/-! ### Copies, rings and collectives -/

/-- Copies: `COPY` and `COPYW` of a fragment whose every guard is true put the copy, with its descriptor and records, at the
end of its core's queue, count it in every active thread and hold the token pending; a descriptor that is not valid takes the
lowest of its causes, and a false guard 0x066 or 0x067 (spec 08, R210 to R213; spec 18, R413). A box whose elements are all in
memory and do not overlap is copied byte by byte, as its core reads it, and nothing else is; after the last box the copy has left the queue and its
token is 1 (spec 04, R101). -/
def Obligations.Copies : Prop :=
  (let issues (i : Instr) (sb : Opnd) (ra rb : Fin 16) (tok : Opnd) (weight ss sd : Bool) (str : Fin 16) : Prop :=
    ∀ s x l u k, Issues i s x → lowLane x.on = some l → s.laneThread x.w l = some u → tok = .g k →
      let d := (List.range 8).map (fun i => (opNth sb i x.v u).toNat)
      (x.on = x.fr.mask → minCode (descCodes d (x.g.buf ra.val) (x.g.buf rb.val)) = none →
        ∃ t q, Gives i s t ∧ GoneOn x t ∧ (t.core x.g.core).copyq = (s.core x.g.core).copyq ++ [q] ∧ q.key = s.nextKey
          ∧ q.gid = x.gid ∧ q.desc = d ∧ q.src = x.g.buf ra.val ∧ q.dst = x.g.buf rb.val ∧ q.weight = weight ∧ q.ss = ss
          ∧ q.sd = sd ∧ q.stream = str.val ∧ q.token = k.val ∧ q.next = 0 ∧ q.nbox = boxCount (d.getD 2 0 * recEsize q.src) (d.getD 3 0)
          ∧ q.toks.map Prod.fst = s.tidsOf x.w x.on
          ∧ (∀ n u, Map.find s.threads n = some u → ¬ x.active u → Map.find t.threads n = some u)
          ∧ (∀ n u, Map.find s.threads n = some u → x.active u → Map.find t.threads n
              = some { u with nCp := u.nCp + 1, pend := Map.put u.pend k.val s.nextKey })
          ∧ SameMemory s t)
      ∧ (∀ c, minCode (descCodes d (x.g.buf ra.val) (x.g.buf rb.val)
            ++ (if x.on = x.fr.mask then [] else [if weight then 0x067 else 0x066])) = some c → CanTrap x →
          ∃ t, Gives i s t ∧ Entered s t x x.on c);
  (∀ a, issues (.copy a) a.sb a.ra a.rb a.tok false a.ss a.sd a.str)
    ∧ ∀ a, issues (.copyw a) a.sb a.ra a.rb a.tok true a.ss false a.str)
  ∧ (∀ (s : State) c, s.nextCopy c = none → Gives (.copyBox c) s s)
  ∧ ∀ (s : State) c q g, s.nextCopy c = some q → Map.find s.groups q.gid = some g →
      let es := boxElems (recEsize q.src) (descAt q.desc 2) (descAt q.desc 3) q.next
      let n := min (recEsize q.src) 16
      let r := s.formMoves q g es
      (∀ e ∈ es, (s.formMove q g e).1.stop = none) → q.old = [] → LinesOk s →
      (∀ m ∈ r.1, m.src.locs.length = m.dst.locs.length ∧ (∀ l ∈ m.src.locs, ∃ pa, l = .mem pa)
        ∧ ∀ l ∈ m.dst.locs, ∃ pa, l = .mem pa) →
      (r.1.flatMap (fun m => m.dst.locs)).Pairwise (fun a b => a.overlaps n b n = false) →
      (∀ a ∈ r.1.flatMap (fun m => m.src.locs), ∀ b ∈ r.1.flatMap (fun m => m.dst.locs), a.overlaps n b n = false) →
      ∃ t, Gives (.copyBox c) s t
        ∧ (∀ m ∈ r.1, ∀ j p d : Nat, m.src.locs[j]? = some (Loc.mem p) → m.dst.locs[j]? = some (Loc.mem d) →
            t.peek d n = r.2.peekBy (some g.core) p n)
        ∧ (∀ a, (∀ m ∈ r.1, ∀ d : Nat, Loc.mem d ∈ m.dst.locs → a < d ∨ d + n ≤ a) →
            t.byteAt (some g.core) a = r.2.byteAt (some g.core) a)
        ∧ (q.next + 1 ≠ q.nbox → SameThreads s t)
        ∧ (q.next + 1 = q.nbox → (∀ k, ∀ p ∈ (t.core k).copyq, p.key ≠ q.key)
          ∧ ∀ tid l u, q.toks = [(tid, l)] → Map.find s.threads tid = some u → u.call = q.call →
              Map.find u.pend q.token = some q.key → s.fullOf q.gid = true →
              ∃ u', Map.find t.threads tid = some u' ∧ u'.nCp = u.nCp - 1 ∧ u'.reg q.token = 1
                ∧ ∀ r, r ≠ q.token → u'.reg r = u.reg r)

/-- Stage rings: a ring operation once for its fragment reads the descriptor in scratchpad, takes the lowest cause of a
descriptor that is not valid, waits where the slot is not ready, and otherwise writes the descriptor back with its
cursor advanced and gives the slot's address to the active lanes (spec 08, R215 to R217; spec 18, R414). (An operation
waits for what it releases, a reading: log 21; where slots must lie, a reading: log 27.) -/
def Obligations.Rings : Prop :=
  (let runs (i : Instr) (o : RingOp) (d a : Opnd) (paths : BitVec 5) : Prop :=
    ∀ s x l u k off ad, Issues i s x → lowLane x.on = some l → s.laneThread x.w l = some u →
      (s.placeAt x.gid x.g .scr 2 (opRead a x.v u).toNat 16).1 = .at' (.scr k off) ad → s.poisonAt none (.scr k off) 16 = none →
      PagesHeld s (.scr k off) 16 →
      let r := ringOf (ofBytes (s.readLoc none (.scr k off) 16))
      (∀ c, minCode (r.codes o paths (s.ringFits x.gid x.g k r)) = some c → CanTrap x → c < 512 →
        ∃ t, Gives i s t ∧ Entered s t x x.on c)
      ∧ (minCode (r.codes o paths (s.ringFits x.gid x.g k r)) = none →
        (r.run o = none → ∃ t, Gives i s t ∧ WaitsHere x [(opRead a x.v u).toNat] t ∧ t = { s with waves := t.waves })
        ∧ ∀ r' slot, r.run o = some (r', slot) → ∃ t g', Gives i s t ∧ GoneOn x t
          ∧ Map.find t.groups k = some g' ∧ t.scrAt g' off 16 = r'.bytes ∧ SameMemory (s.ringSide x.gid o paths (.scr k off)) t
          ∧ (∀ n u, Map.find s.threads n = some u → ¬ x.active u → Map.find t.threads n = some u)
          ∧ ∀ n u, Map.find s.threads n = some u → x.active u → Map.find t.threads n = some (match slot with
              | some v => opWrite d (BitVec.ofNat 32 v) u
              | none => u));
  (∀ a, runs (.sracq a) .acq a.d a.a a.paths) ∧ (∀ a, runs (.srwait a) .wait a.d a.a a.paths)
    ∧ (∀ a, runs (.srcommit a) .commit .z a.a a.paths) ∧ ∀ a, runs (.srfree a) .free .z a.a a.paths)
  ∧ (∀ (s : State) w i v g f wt o d paths k off ad, Map.find s.waves w = some v → v.frags[i]? = some f →
      Map.find s.groups v.gid = some g → f.st = .wait wt → ringForm wt.instr = some (o, d, paths) → v.resident = true →
      (s.placeAt v.gid g .scr 2 (wt.aux.headD 0) 16).1 = .at' (.scr k off) ad → s.poisonAt none (.scr k off) 16 = none →
      PagesHeld s (.scr k off) 16 →
      let r := ringOf (ofBytes (s.readLoc none (.scr k off) 16))
      minCode (r.codes o paths (s.ringFits v.gid g k r)) = none →
      (r.run o = none → Gives (.ringWaitSatisfied w i) s s)
      ∧ ∀ r' slot, r.run o = some (r', some slot) → ∃ t g', Gives (.ringWaitSatisfied w i) s t
        ∧ t.frag w i = some { f with st := .ready, pc := f.pc + 8 } ∧ Map.find t.groups k = some g' ∧ t.scrAt g' off 16 = r'.bytes
        ∧ ∀ n u l, Map.find s.threads n = some u → u.place = some (w, l) → f.waitOn.getLsbD l = true →
            Map.find t.threads n = some (opWrite d (BitVec.ofNat 32 slot) u))
  ∧ ∀ r : RingDesc, r.nslot ≤ 16 → r.ordered = true →
      (∀ o r' v, r.run o = some (r', some v) → ∃ i, i < r.nslot ∧ v = r.base + i * r.slotb)
      ∧ ∀ o r' v, r.run o = some (r', v) → r'.nslot = r.nslot ∧ r'.slotb = r.slotb ∧ r'.base = r.base
          ∧ (o = .acq → r'.pacq = r.advance r.pacq ∧ r'.pcom = r.pcom ∧ r'.cwait = r.cwait ∧ r'.cfree = r.cfree)
          ∧ (o = .commit → r'.pcom = r.advance r.pcom ∧ r'.pacq = r.pacq ∧ r'.cwait = r.cwait ∧ r'.cfree = r.cfree)
          ∧ (o = .wait → r'.cwait = r.advance r.cwait ∧ r'.pacq = r.pacq ∧ r'.pcom = r.pcom ∧ r'.cfree = r.cfree)
          ∧ (o = .free → r'.cfree = r.advance r.cfree ∧ r'.pacq = r.pacq ∧ r'.pcom = r.pcom ∧ r'.cwait = r.cwait)

/-- Collectives: `COLL` sends its header, at domain scope to every member that a route
leads to, and waits with its buffer in flight; once every member of its
set has issued with equal headers the elementwise result over the members in ascending rank is in the buffer and the
fragment goes on; a header that does not arrive in time takes 0x0DF (spec 08, R218, R219; spec 18, R415). (The order
of the header fields is the model's choice: log 28.) -/
def Obligations.Collectives : Prop :=
  (∀ a s x l u loc ad, Issues (.coll a) s x → lowLane x.on = some l → s.laneThread x.w l = some u →
    let c := (opRead a.ctl x.v u).toNat
    minCode (s.collCodes x.g a.set.val c) = none →
    (s.placeAt x.gid x.g .scr 7 (opRead a.buf x.v u).toNat (collBytes c)).1 = .at' loc ad →
    ∃ t f, Gives (.coll a) s t ∧ WaitsHere x [s.nextKey] t ∧ Map.find t.flights s.nextKey = some f ∧ f.instr = .coll a
      ∧ f.gid = x.gid ∧ f.wave = x.w ∧ (∀ p ∈ f.parts, p.loc = loc ∧ p.len = collBytes c ∧ ofBytes p.data = c)
      ∧ SameMemory s t ∧ (a.dom = false → t.fab = s.fab)
      ∧ (a.dom = true → ∀ r, r < s.csetSize a.set.val → r ≠ s.csetRank a.set.val →
          Map.get s.fab.routes 0 (s.csetDev a.set.val r) ≠ 0 →
          let d := s.csetDev a.set.val r
          let p := t.fport (s.fabPort d 0)
          ((0, .coll d a.set.val (collHeader (collCode a.op) (collBytes c) (collType c)
              (Map.get s.fab.collCount 0 a.set.val))) : Nat × FabMsg) ∈ p.unacked.map Prod.snd ++ p.waiting))
  ∧ (∀ a s x l u code, Issues (.coll a) s x → lowLane x.on = some l → s.laneThread x.w l = some u → CanTrap x →
    minCode (s.collCodes x.g a.set.val (opRead a.ctl x.v u).toNat) = some code →
    ∃ t, Gives (.coll a) s t ∧ Entered s t x x.on code)
  ∧ (∀ (s : State) func set others key a f p r k off i fr, s.collWaiting func set = some (key, a, f) → a.dom = true →
    f.parts = p :: r → s.mayPerform f = true → p.loc = .scr k off → s.poisonAt none p.loc p.len = none → PagesHeld s p.loc p.len →
    let c := ofBytes p.data
    let own : CollMember := { rank := s.csetRank set, op := collCode a.op, count := p.len, ty := collType c,
                              seq := Map.get s.fab.collCount 0 set, data := s.readLoc none p.loc p.len }
    let ms := sortBy (fun (x y : CollMember) => x.rank ≤ y.rank) (own :: others)
    ms.map (·.rank) = List.range (s.csetSize set) → headerCause ms = none → s.fragOn f.wave key isColl = some (i, fr) →
    (∀ e ∈ s.gangs, e.2.st ≠ .ended) → (Map.find s.groups k).isSome → Map.wf s.flights = true →
    ∃ t g, Gives (.collComplete func set others) s t ∧ Map.find t.flights key = none
      ∧ t.frag f.wave i = some { fr with st := .ready, pc := fr.pc + 8 } ∧ Map.find t.groups k = some g
      ∧ (let l := (collResult a.op (collType c) (ms.map (·.data))).take p.len
         l.length = p.len → t.scrAt g off p.len = l)
      ∧ Map.get t.fab.collCount 0 set = Map.get s.fab.collCount 0 set + 1 ∧ SameThreads s t ∧ SameMemory s t)
  ∧ (∀ (s : State) func set key a f i fr v g, s.collWaiting func set = some (key, a, f) → a.dom = true →
    s.fragOn f.wave key isColl = some (i, fr) → Map.find s.waves f.wave = some v → Map.find s.groups v.gid = some g →
    (∀ e ∈ s.gangs, e.2.st ≠ .ended) → (∀ f ∈ v.frags, f.hnd = false) → v.handler = none →
    hvecOk g.hvec = true → fr.waitOn ≠ 0 →
    Map.wf s.flights = true →
    ∃ t u h, Gives (.collHeaderTimeout func set) s t ∧ Map.find t.flights key = none ∧ Map.find t.waves f.wave = some u
      ∧ u.handler = some h ∧ h.code = 0x0DF ∧ h.fault = fr.waitOn ∧ h.epc = fr.pc)
  ∧ ∀ (op : CollOp) (p q : W32), collResult op 0 [toBytes 4 p.toNat, toBytes 4 q.toNat]
      = toBytes 4 (match op with
        | .sum => p + q
        | .max => if p.toInt ≤ q.toInt then q else p
        | .min => if p.toInt ≤ q.toInt then p else q
        | .bcast => p).toNat

/-! ### Tasks -/

/-- Tasks act in ascending lane order once the accesses they release are done (log 21), and the fragment goes on where
every lane does. One lane of `FORK` creates a child of one gang, which waits for admission with the arguments of its
lane; of `TSINIT` a tile scoreboard; of `DEPINIT` a dependence counter with its successor; of `DEPDEC` counts one
down, and takes 0x0EC at zero; both act at the counter's home slice, and what releases a successor flushes the group's
stores (spec 01, R14; spec 04, R107); of `TQPOST` puts a packet into a queue of its function (spec 02, R42, R44, R45; spec
08, R221, R223, R225 to R227; spec 11, R482; spec 18, R416). (That they wait before they act is a reading: log 21; the
counter's layout is the model's choice: log 26; addresses: log 30.) -/
def Obligations.Tasks : Prop :=
  (let seq (i : Instr) (f : Iss → State → Nat → Thread → LaneRes × State) : Prop :=
      ∀ s x ends s', Issues i s x →
        s.eachLane x.w (f x) (lanesOf x.on) [] = (some ends, s') → (∀ e ∈ ends, e.2 = .go (x.fr.pc + 8)) →
        Gives i s (s'.advance x);
    (∀ a, seq (.fork a) (forkLane a)) ∧ (∀ a, seq (.tsinit a) (tsinitLane a))
    ∧ (∀ a, seq (.depinit a) (depinitLane a)) ∧ (∀ a, seq (.depdec a) (depdecLane a))
    ∧ ∀ a, seq (.tqpost a) (tqpostLane a))
  ∧ (∀ a s x l u ln ws b q,
    let va := (opRead64 a.a x.v u).toNat % 2 ^ 57
    s.launchOf x.g = some ln → va % 256 = 0 → x.g.gates = [] →
    Map.get s.mem.cframes 0 (areaKey x.g.func x.g.pasid (lrCsarea ln.words)) < lrCsbytes ln.words / 128 →
    s.readRecord x.g.ctx va = (.ok (ws, b), q) → lrGroups ws = 1 → lrGangs ws = 1 →
    q.recordFits x.g.func x.g.pasid x.g.domain ln.sysPriv ws b = true →
    ∃ s' c k, forkLane a x s l u = (.leave (.go (x.fr.pc + 8)), s') ∧ Map.find s'.launches q.nextKey = some c
      ∧ c.words = ws ∧ c.binds = b ∧ c.func = x.g.func ∧ c.pasid = x.g.pasid ∧ c.domain = x.g.domain ∧ c.lrec = va
      ∧ c.cls = min (lrPrio ws) ln.cls ∧ Map.find s'.gangs (q.nextKey + 1) = some k ∧ k.lid = q.nextKey ∧ k.st = .waiting
      ∧ k.parent = some x.gid ∧ k.fargs = (List.range 8).map (fun i => opNth a.b i x.v u)
      ∧ (∀ g, Map.find q.groups x.gid = some g → Map.find s'.groups x.gid = some { g with children := g.children + 1 })
      ∧ s'.threads = q.threads ∧ s'.mem.cells = (q.flushGroup x.gid).mem.cells)
  ∧ (∀ a s x l u pa ad q,
    let va := (opRead64 a.a x.v u).toNat % 2 ^ 57
    let w := (opRead64 a.b x.v u).toNat
    let n := 128 + stencilW w * stencilH w
    1 ≤ popCount 48 w → popCount 48 w ≤ 8 → va % 128 = 0 →
    s.placeRange x.g .write 1 va n (pagesOf va n) = (.at' (.mem pa) ad, q) →
    ∃ s', tsinitLane a x s l u = (.leave (.go (x.fr.pc + 8)), s')
      ∧ Map.find s'.mem.boards pa = some { w := stencilW w, h := stencilH w, stencil := BitVec.ofNat 64 w, retired := [] }
      ∧ ∀ k, k ≠ pa → Map.find s'.mem.boards k = Map.find q.mem.boards k)
  ∧ (∀ a s x l u pa ad q,
    let va := (opRead64 a.a x.v u).toNat % 2 ^ 57
    let w := opRead64 a.b x.v u
    va % 16 = 0 → s.placeVirt x.g .write 1 va 16 = (.at' (.mem pa) ad, q) → w.setWidth 32 ≠ 0#32 →
    ∃ s', depinitLane a x s l u = (.leave (.go (x.fr.pc + 8)), s')
      ∧ s'.peek pa 16 = toBytes 4 (w.toNat % 2 ^ 32) ++ toBytes 4 (w.toNat / 2 ^ 32) ++ toBytes 8 q.nextKey
      ∧ (∀ k, k < pa ∨ pa + 16 ≤ k → cellAt s'.mem.cells k = cellAt (q.homeOf none (.mem pa) 16 true).mem.cells k)
      ∧ ∃ d, Map.find s'.mem.depSucc q.nextKey = some d ∧ d.func = x.g.func ∧ d.pasid = x.g.pasid ∧ d.self = none)
  ∧ (∀ a s x l u pa ad q,
    let va := (opRead64 a.a x.v u).toNat % 2 ^ 57
    va % 16 = 0 → s.placeVirt x.g .atomic 2 va 16 = (.at' (.mem pa) ad, q) →
    let h := q.homeOf none (.mem pa) 16 true
    (h.peekNat pa 4 = 0 → depdecLane a x s l u = (.leave (.cause 0x0EC 0), h))
    ∧ (1 < h.peekNat pa 4 → ∃ s', depdecLane a x s l u = (.leave (.go (x.fr.pc + 8)), s')
        ∧ s'.peekNat pa 4 = h.peekNat pa 4 - 1
        ∧ ∀ k, k < pa ∨ pa + 4 ≤ k → cellAt s'.mem.cells k = cellAt h.mem.cells k)
    ∧ (h.peekNat pa 4 = 1 → depdecLane a x s l u
        = (.leave (.go (x.fr.pc + 8)), ((h.pokes [(pa, [0, 0, 0, 0])]).fireCounter pa).flushGroup x.gid)))
  ∧ ∀ a s x l u b q tr q',
    let va := (opRead64 a.a x.v u).toNat % 2 ^ 57
    let n := (opRead a.b x.v u).toNat
    n < 2 ^ 11 → va % 64 = 0 → s.queueOn x.g.func n = true → s.queueFill x.g.func n < 2 ^ s.queueLog x.g.func n →
    s.readVirt x.g.ctx va 64 = (.ok b, q) → (bits (ofBytes b) 35 16 = x.g.pasid ∨ q.privOf x.g = true) →
    q.translate (q.engineCtx x.g.func (q.queuePasid x.g.func n)) (q.queueSlot x.g.func n (q.queueTail x.g.func n)) .write
      = (.ok tr, q') → q'.paKind tr.pa = .mem →
    (tr.pa + b.length ≤ q'.queueAddr x.g.func n + 20 ∨ q'.queueAddr x.g.func n + 24 ≤ tr.pa) →
    ∃ s', tqpostLane a x s l u = (.leave (.go (x.fr.pc + 8)), s') ∧ s'.peek tr.pa b.length = b
      ∧ s'.peekNat (q'.queueAddr x.g.func n + 20) 4 = (q.queueTail x.g.func n + 1) % 2 ^ 32 ∧ s'.threads = q'.threads

/-- `TSREL` flushes its group's stores and marks its tile as done, once, in a launch that is bound to a scoreboard, and where
every group of the
gang has done so the tile retires; a `DEPINIT.self` of a group that arrives whole in one fragment ends its phase until
its counters reach zero, and goes on where every count is zero (spec 02, R44, R45; spec 08, R224, R225; spec 18,
R416). (That they wait before they act is a reading: log 21.) -/
def Obligations.TileReleases : Prop :=
  (∀ a s x, Issues (.tsrel a) s x →
    (x.g.tileRel = false → lrTsen (s.recOf x.g) = true → ∃ t, GoneOn x t
      ∧ t = { s.flushGroup x.gid with groups := t.groups, waves := t.waves }
      ∧ Map.find t.groups x.gid = some { x.g with tileRel := true }
      ∧ (∀ g, g ≠ x.gid → Map.find t.groups g = Map.find s.groups g)
      ∧ ((∀ gg, Map.find s.gangs x.g.gang = some gg → ∃ k ∈ gg.groups, ∀ g, Map.find t.groups k = some g → g.tileRel = false) →
          (Map.find s.gangs x.g.gang).isSome → Gives (.tsrel a) s t)
      ∧ (∀ gg, Map.find s.gangs x.g.gang = some gg → (∀ k ∈ gg.groups, ∃ g, Map.find t.groups k = some g ∧ g.tileRel = true) →
          Gives (.tsrel a) s (t.retireTile x.g.gang)))
    ∧ (x.g.tileRel = true → CanTrap x → ∃ t, Gives (.tsrel a) s t ∧ Entered s t x x.on 0x0EA)
    ∧ (x.g.tileRel = false → lrTsen (s.recOf x.g) = false → CanTrap x →
        ∃ t, Gives (.tsrel a) s t ∧ Entered s t x x.on 0x0EB))
  ∧ (∀ (s : State) gk q l pa b, Map.find s.gangs gk = some q → Map.find s.launches q.lid = some l →
    s.boardOf l = some (pa, b) → lrTile l.words q.num ∉ b.retired →
    ∃ c, Map.find (s.retireTile gk).mem.boards pa = some c ∧ lrTile l.words q.num ∈ c.retired)
  ∧ ∀ a s x ends s', Issues (.depinitSelf a) s x → Whole s x → x.on = x.fr.mask → x.fr.hnd = false → x.v.asyncs = [] →
    x.v.handler = none → phaseRefusal x.g = none → x.g.st = .resident →
    s.eachLane x.w (depselfLane a none x) (lanesOf x.on) [] = (some ends, s') → (∀ e ∈ ends, e.2 = .wait) →
    Map.find s'.groups x.gid = some x.g → s'.carryDiffers x.gid x.g = false → s'.phaseRecordOk x.g = true →
    s'.groupAccesses x.gid = false →
    ((∃ l u, x.on.getLsbD l = true ∧ s.laneThread x.w l = some u ∧ (opRead64 a.b x.v u).toNat % 2 ^ 32 ≠ 0) →
      let n := (s'.mem.depSucc.filter (fun p => p.2.self == some x.gid)).length
      ∃ t, Gives (.depinitSelf a) s t ∧ PhaseEnded s' t x (if n = 0 then .queued else .counters n))
    ∧ (EachActive s x (fun _ u => (opRead64 a.b x.v u).toNat % 2 ^ 32 = 0) →
      ∃ t, Gives (.depinitSelf a) s t ∧ GoneOn x t ∧ t.threads = s'.threads)

/-! ### The matrix engine -/

/-- The instructions that act on accumulator tiles at once: `ACCZ` clears the rows of its active lanes and `ACCZ.all` the
tile with its checksums; `ACCRD` and `ACCWR` move registers from and to each lane's row at its column, and take 0x05E
or 0x05F for a column that is no multiple of the count or does not fit; `ACCSCL.row` scales each row; `ACCRED` sums or
takes the maximum of a row into a register, or adds a tile to another; `SWAPPL` exchanges the planes and the halves of
the side memory (spec 09, R249, R254, R261, R262, R264, R265; spec 18, R422). (The engine order by waiting is a
reading: log 31.) -/
def Obligations.MatrixTiles : Prop :=
  (∀ a s x, Issues (.accz a) s x → EngineFree s x → ∃ t e, Gives (.accz a) s t ∧ EngineIs s t x e
    ∧ RowsAre (s.engOf x.g) e (fun i l => if i = a.acc.val ∧ x.on.getLsbD l = true then List.replicate 64 0
        else (s.engOf x.g).row i l) ∧ CkvCleared (s.engOf x.g) e a.acc.val)
  ∧ (∀ a s x, Issues (.acczAll a) s x → EngineFree s x → ∃ t e, Gives (.acczAll a) s t ∧ EngineIs s t x e
    ∧ (∀ i l, l < 32 → e.row i l = if i = a.acc.val then List.replicate 64 0 else (s.engOf x.g).row i l)
    ∧ e.rcs a.acc.val = List.replicate 32 0 ∧ e.ccs a.acc.val = List.replicate 64 0 ∧ e.ckv.getLsbD a.acc.val = true
    ∧ e.uncorr.getLsbD a.acc.val = false ∧ e.act = (s.engOf x.g).act ∧ e.shd = (s.engOf x.g).shd)
  ∧ (∀ a s x k, Issues (.accrd a) s x → EngineFree s x → s.tileUe x.g a.acc.val = false → a.d = .g k →
    EachActive s x (fun _ u => colCode (nAcc a.n) (colOf a.ix x u) = none) →
    ∃ t f, Gives (.accrd a) s t ∧ LaneResult s t x f ∧ ∀ l u, l < 32 → x.on.getLsbD l = true → s.laneThread x.w l = some u →
      f l u = { u with regs := (f l u).regs } ∧ ∀ r, (f l u).reg r = if k.val ≤ r ∧ r < k.val + nAcc a.n
        then ((s.engOf x.g).row a.acc.val l).getD (colOf a.ix x u + (r - k.val)) 0 else u.reg r)
  ∧ (∀ a s x, Issues (.accwr a) s x → EngineFree s x → EachActive s x (fun _ u => colCode (nAcc a.n) (colOf a.ix x u) = none) →
    ∃ t e, Gives (.accwr a) s t ∧ EngineIs s t x e ∧ CkvCleared (s.engOf x.g) e a.acc.val
      ∧ ∃ f, RowsAre (s.engOf x.g) e f ∧ (∀ i l, ¬ (i = a.acc.val ∧ x.on.getLsbD l = true) → f i l = (s.engOf x.g).row i l)
        ∧ ∀ l u j, x.on.getLsbD l = true → s.laneThread x.w l = some u → j < 64 → (f a.acc.val l).getD j 0
          = if colOf a.ix x u ≤ j ∧ j < colOf a.ix x u + nAcc a.n then opNth a.d (j - colOf a.ix x u) x.v u
            else ((s.engOf x.g).row a.acc.val l).getD j 0)
  ∧ (∀ n c, colCode n c = if c % n ≠ 0 then some 0x05E else if 64 < c + n then some 0x05F else none)
  ∧ (∀ a s x c, Issues (.accrd a) s x → EngineFree s x → s.tileUe x.g a.acc.val = false → CanTrap x →
    EachActive s x (fun _ u => colCode (nAcc a.n) (colOf a.ix x u) = some c) → ∃ t, Gives (.accrd a) s t ∧ Entered s t x x.on c)
  ∧ (∀ a s x, Issues (.accsclRow a) s x → EngineFree s x → s.tileUe x.g a.acc.val = false →
    slotC (s.slotWord x a.slot) = 0 → ∃ t e f, Gives (.accsclRow a) s t ∧ EngineIs s t x e ∧ RowsAre (s.engOf x.g) e f
      ∧ CkvCleared (s.engOf x.g) e a.acc.val
      ∧ (∀ i l, ¬ (i = a.acc.val ∧ x.on.getLsbD l = true) → f i l = (s.engOf x.g).row i l)
      ∧ ∀ l u, x.on.getLsbD l = true → s.laneThread x.w l = some u → f a.acc.val l
        = ((s.engOf x.g).row a.acc.val l).map (fun c => toF32 (FR.mul (ofF32 c) (ofF32 (opRead a.sc x.v u)))))
  ∧ (∀ a s x, Issues (.accredSum a) s x → EngineFree s x → s.tileUe x.g a.acc.val = false →
    (slotC (s.slotWord x a.slot) = 0 → ∃ t, Gives (.accredSum a) s t ∧ LaneResult s t x (fun l u =>
      opWrite a.d (toF32 (FR.sum (((s.engOf x.g).row a.acc.val l).map ofF32))) u))
    ∧ (slotC (s.slotWord x a.slot) = 7 → ∃ t, Gives (.accredSum a) s t ∧ LaneResult s t x (fun l u =>
      opWrite a.d (((s.engOf x.g).row a.acc.val l).foldl (· + ·) 0) u)))
  ∧ (∀ a s x, Issues (.accredMax a) s x → EngineFree s x → s.tileUe x.g a.acc.val = false →
    (slotC (s.slotWord x a.slot) = 0 → ∃ t, Gives (.accredMax a) s t ∧ LaneResult s t x (fun l u =>
      opWrite a.d (((s.engOf x.g).row a.acc.val l).tail.foldl fmaxBits (((s.engOf x.g).row a.acc.val l).headD 0)) u))
    ∧ (slotC (s.slotWord x a.slot) = 7 → ∃ t, Gives (.accredMax a) s t ∧ LaneResult s t x (fun l u =>
      opWrite a.d (((s.engOf x.g).row a.acc.val l).tail.foldl (fun m v => if m.toInt < v.toInt then v else m)
        (((s.engOf x.g).row a.acc.val l).headD 0)) u)))
  ∧ (∀ a s x, Issues (.accredTile a) s x → EngineFree s x → s.tileUe x.g a.acc.val = false → s.tileUe x.g a.src.val = false →
    let c := slotC (s.slotWord x a.slot)
    c = 0 ∨ c = 7 → ∃ t e, Gives (.accredTile a) s t ∧ EngineIs s t x e ∧ CkvCleared (s.engOf x.g) e a.acc.val
      ∧ RowsAre (s.engOf x.g) e (fun i l => if i = a.acc.val then List.zipWith (fun p q => if c = 7 then p + q else faddBits p q)
          ((s.engOf x.g).row i l) ((s.engOf x.g).row a.src.val l) else (s.engOf x.g).row i l))
  ∧ ∀ a s x, Issues (.swappl a) s x → EngineFree s x → Map.wf (s.engOf x.g).side = true → ∃ t e, Gives (.swappl a) s t ∧ EngineIs s t x e
    ∧ e = { s.engOf x.g with act := (s.engOf x.g).shd, shd := (s.engOf x.g).act, side := e.side }
    ∧ ∀ i, i < 8192 → Map.get e.side 0 i = Map.get (s.engOf x.g).side 0 (if i < 4096 then i + 4096 else i - 4096)

/-- Tile checks: `MCKV.base` takes the sums of rows and columns as checksums and makes them valid; `MCKV.chk` compares,
and writes each lane its row's residue, its two columns' and the status, with the failing rows and columns in
`sr.mckrows` and `sr.mckcols`; `MCKV.fix` corrects the element where exactly one row and one column fail; a tile
without valid checksums takes 0x05D (spec 09, R260; spec 03, R75; spec 18, R422). (The engine order by waiting is a
reading: log 31.) -/
def Obligations.TileChecks : Prop :=
  let free (i : Instr) (a : MckvArgs) (s : State) (x : Iss) (k : Fin 255) : Prop :=
    Issues i s x ∧ EngineFree s x ∧ s.tileUe x.g a.acc.val = false ∧ a.d = .g k
  let row (a : MckvArgs) (s : State) (x : Iss) (l : Nat) : W32 × Bool :=
    residue (ofF32 x.g.mcktol) ((s.engOf x.g).row a.acc.val l) (((s.engOf x.g).rcs a.acc.val).getD l 0)
  let col (a : MckvArgs) (s : State) (x : Iss) (n : Nat) : W32 × Bool :=
    residue (ofF32 x.g.mcktol) (tileColumn ((s.engOf x.g).tile a.acc.val) n) (((s.engOf x.g).ccs a.acc.val).getD n 0)
  let lanes (a : MckvArgs) (s t : State) (x : Iss) (k : Fin 255) (status : W32) : Prop :=
    (∀ n u, Map.find s.threads n = some u → ¬ x.active u → Map.find t.threads n = some u)
      ∧ ∀ n u l, Map.find s.threads n = some u → u.place = some (x.w, l) → x.on.getLsbD l = true → l < 32 →
        ∃ u', Map.find t.threads n = some u' ∧ u'.reg k.val = (row a s x l).1 ∧ u'.reg (k.val + 1) = (col a s x l).1
          ∧ u'.reg (k.val + 2) = (col a s x (l + 32)).1 ∧ u'.reg (k.val + 3) = status
          ∧ ∀ r, r < k.val ∨ k.val + 4 ≤ r → u'.reg r = u.reg r
  (∀ a s x k, free (.mckvBase a) a s x k → ∃ t e, Gives (.mckvBase a) s t ∧ GoneOn x t
    ∧ t.core x.g.core = { s.core x.g.core with eng := e } ∧ e.ckv.getLsbD a.acc.val = true ∧ e.acc = (s.engOf x.g).acc
    ∧ (∀ l, l < 32 → (e.rcs a.acc.val).getD l 0 = toF32 (FR.sum (((s.engOf x.g).row a.acc.val l).map ofF32)))
    ∧ (∀ n, n < 64 → (e.ccs a.acc.val).getD n 0
        = toF32 (FR.sum ((tileColumn ((s.engOf x.g).tile a.acc.val) n).map ofF32)))
    ∧ Map.find t.groups x.gid = some { x.g with mckrows := 0, mckcols := 0 }
    ∧ ∀ n u, Map.find s.threads n = some u → ∃ u', Map.find t.threads n = some u' ∧ (¬ x.active u → u' = u)
        ∧ (x.active u → ∀ r, u'.reg r = if k.val ≤ r ∧ r < k.val + 4 then 0 else u.reg r))
  ∧ (∀ a s x k, free (.mckvChk a) a s x k → (s.engOf x.g).ckv.getLsbD a.acc.val = true →
    ∃ t rows cols, Gives (.mckvChk a) s t ∧ GoneOn x t ∧ t.cores = s.cores
      ∧ Map.find t.groups x.gid = some { x.g with mckrows := rows, mckcols := cols }
      ∧ (∀ l, l < 32 → rows.getLsbD l = (row a s x l).2) ∧ (∀ n, n < 64 → cols.getLsbD n = (col a s x n).2)
      ∧ lanes a s t x k (if rows = 0 ∧ cols = 0 then 0 else 2))
  ∧ (∀ a s x k, free (.mckvFix a) a s x k → (s.engOf x.g).ckv.getLsbD a.acc.val = true →
    (∀ l n, l < 32 → n < 64 → (∀ i, i < 32 → (row a s x i).2 = decide (i = l)) → (∀ j, j < 64 → (col a s x j).2 = decide (j = n)) →
      ∃ t e, Gives (.mckvFix a) s t ∧ GoneOn x t ∧ t.core x.g.core = { s.core x.g.core with eng := e }
        ∧ (∀ i j, i < 32 → e.row j i = if j = a.acc.val ∧ i = l then ((s.engOf x.g).row j i).set n
            (toF32 (FR.sub (ofF32 (((s.engOf x.g).row j i).getD n 0)) (ofF32 (col a s x n).1))) else (s.engOf x.g).row j i)
        ∧ lanes a s t x k 1)
    ∧ ((∀ i, i < 32 → (row a s x i).2 = false) → (∀ j, j < 64 → (col a s x j).2 = false) →
      ∃ t, Gives (.mckvFix a) s t ∧ GoneOn x t ∧ t.cores = s.cores ∧ lanes a s t x k 0))
  ∧ ∀ a s x k, (s.engOf x.g).ckv.getLsbD a.acc.val = false → CanTrap x →
    (free (.mckvChk a) a s x k → ∃ t, Gives (.mckvChk a) s t ∧ Entered s t x x.on 0x05D)
    ∧ (free (.mckvFix a) a s x k → ∃ t, Gives (.mckvFix a) s t ∧ Entered s t x x.on 0x05D)

/-- Tile operations with memory: `LDSTAT`, `LDSTATW` and `MDLD` load a plane or the side memory once for the fragment,
`ACCLD` and `ACCST` a row for each active lane, and `ACCSCL.col` the scales of the columns; each is in flight until
`tileOperationComplete` gives it its effect on the engine or on memory (spec 04, R103; spec 09, R251, R253 to R255,
R263, R264). (The engine order by waiting is a reading: log 31.) -/
def Obligations.TileMemory : Prop :=
  (let once (i : Instr) (brec : Nat) (ix : Opnd) (str : Nat) (sp : Space) (n : Nat) (ok : State → Iss → Prop)
      (recv : State → Iss → Thread → List W128) : Prop :=
      ∀ s x l k u ls q, Issues i s x → EngineFree s x → s.lead x = some (l, k, u) → ok s x →
        s.mtxElems x.gid x.g (x.g.buf brec) sp 128 (opRead ix x.v u).toNat n = (.ok ls, q) →
        ∃ t, Gives i s t ∧ Accessed s t q x 2 (streamMask str)
          (chunkParts k l u.call ls [] ++ s.countParts x.w x.on) (recv s x u) 3 [];
    (∀ a, once (.ldstat a) a.brec.val a.ix a.str.val .scr 128
      (fun s x => slotB (s.slotWord x a.slot) ≠ 0 ∧ slotB (s.slotWord x a.slot) ≠ 7 ∧ mtxRecOk (x.g.buf a.brec.val) 7 = true)
      (fun s x u => [planeScales (s.slotWord x a.slot) a.sc x u]))
    ∧ (∀ a, once (.ldstatw a) a.brec.val a.ix a.str.val .ws 128
      (fun s x => slotB (s.slotWord x a.slot) ≠ 0 ∧ slotB (s.slotWord x a.slot) ≠ 7 ∧ mtxRecOk (x.g.buf a.brec.val) 7 = true)
      (fun s x u => [planeScales (s.slotWord x a.slot) a.sc x u]))
    ∧ ∀ a, once (.mdld a) a.brec.val a.ix a.str.val .scr 32 (fun _ x => mtxRecOk (x.g.buf a.brec.val) 7 = true)
      (fun _ _ _ => []))
  ∧ (∀ a s x, Issues (.accld a) s x → EngineFree s x → mtxRecOk (x.g.buf a.brec.val) 7 = true →
    let q := s.rowLanes x (x.g.buf a.brec.val) (if a.scr then .scr else .virt .read) a.ix 128 2 (fun _ => []) (lanesOf x.on)
    (∀ e ∈ q.1, e.2.takesPart = true) →
    ∃ t, Gives (.accld a) s t ∧ Accessed s t q.2.2 x 2 (streamMask a.str.val) q.2.1 [] 3 [])
  ∧ (∀ a s x, Issues (.accst a) s x → EngineFree s x → s.tileUe x.g a.acc.val = false →
    let w := s.slotWord x a.slot
    let b := slotBytes (slotO w)
    let q := s.rowLanes x (x.g.buf a.brec.val) (if a.scr then .scr else .virt .write) a.ix (if b = 1 then 64 else 128)
      (if b = 4 then 2 else 1) (fun l => rowBytes w ((s.engOf x.g).row a.acc.val l)) (lanesOf x.on)
    outOk (slotC w) (slotO w) = true → mtxRecOk (x.g.buf a.brec.val) (if b = 1 then 6 else 7) = true →
    (∀ e ∈ q.1, e.2.takesPart = true) →
    ∃ t, Gives (.accst a) s t ∧ Accessed s t q.2.2 x 2 (streamMask a.str.val) q.2.1 [] 3 [])
  ∧ (∀ a s x l k u ls q, Issues (.accsclCol a) s x → EngineFree s x → s.tileUe x.g a.acc.val = false →
    s.lead x = some (l, k, u) → slotC (s.slotWord x a.slot) = 0 → mtxRecOk (x.g.buf a.brec.val) 7 = true →
    s.mtxElems x.gid x.g (x.g.buf a.brec.val) (.virt .read) 128 (opRead a.ix x.v u).toNat 2 = (.ok ls, q) → ls ≠ [] →
    ∃ t f, Gives (.accsclCol a) s t ∧ GoneOn x t ∧ Translated s q ∧ Map.find t.flights s.nextKey = some f
      ∧ f.instr = .accsclCol a ∧ f.path = 2 ∧ f.parts = chunkParts k l u.call ls [] ∧ t.threads = s.threads
      ∧ t.mem = q.mem)
  ∧ ∀ (s : State) key f g, Map.find s.flights key = some f → Map.find s.groups f.gid = some g → s.mayPerform f = true →
    f.core = g.core → (s.engOf g).owner = some f.gid → (s.partyFor f).core = some f.core → LinesOk s →
    s.flightErrors f [] = [] → s.waitingAt f.gid isSelfInit = [] →
    (∀ p ∈ f.parts, p.loc.remote = false ∧ PagesHeld s p.loc p.len ∧ ∀ pa, p.loc ≠ .reg pa) →
    let bytes := f.parts.flatMap (fun p => if p.loc = .nil then List.replicate p.len 0 else s.readLoc (some f.core) p.loc p.len)
    let e := s.engOf g
    let reads (t : State) : Prop := Map.find t.flights key = none ∧ t.mem = { s.mem with l2 := t.mem.l2 }
    (∀ a, f.instr = .ldstat a ∨ f.instr = .ldstatw a → ∃ t, Gives (.tileOperationComplete key) s t
      ∧ reads t ∧ (t.core g.core).eng = { e with shd := planeOf (lrSlot (s.recOf g) a.slot.val) (f.recv.headD 0) bytes })
    ∧ (∀ a, f.instr = .mdld a → bytes.length = 4096 → ∃ t, Gives (.tileOperationComplete key) s t
      ∧ reads t ∧ (t.core g.core).eng = { e with side := (t.core g.core).eng.side }
      ∧ ∀ i, Map.get (t.core g.core).eng.side 0 i = if 4096 ≤ i ∧ i < 8192 then bytes.getD (i - 4096) 0 else Map.get e.side 0 i)
    ∧ (∀ a, f.instr = .accsclCol a → bytes.length = 256 → ∃ t, Gives (.tileOperationComplete key) s t
      ∧ reads t ∧ CkvCleared e (t.core g.core).eng a.acc.val
      ∧ RowsAre e (t.core g.core).eng (fun i l => if i = a.acc.val then (e.row i l).zipIdx.map (fun c =>
          toF32 (FR.mul (ofF32 c.1) (ofF32 (BitVec.ofNat 32 (ofBytes ((bytes.drop (4 * c.2)).take 4)))))) else e.row i l))
    ∧ (∀ a l, f.instr = .accld a → (∀ p ∈ f.parts, p.lane = l) → f.parts ≠ [] → bytes.length = 256 → l < 32 →
      ∃ t, Gives (.tileOperationComplete key) s t ∧ reads t
        ∧ CkvCleared e (t.core g.core).eng a.acc.val
        ∧ RowsAre e (t.core g.core).eng (fun i j => if i = a.acc.val ∧ j = l then (List.range 64).map (fun c =>
            BitVec.ofNat 32 (ofBytes ((bytes.drop (4 * c)).take 4))) else e.row i j))
    ∧ ∀ a, f.instr = .accst a → (∀ p ∈ f.parts, (∃ pa, p.loc = .mem pa) ∨ p.loc = .nil) →
      ∃ t, Gives (.tileOperationComplete key) s t ∧ Map.find t.flights key = none
        ∧ (∀ c, t.core c = { s.core c with l1 := (t.core c).l1 })
        ∧ (∀ k l p r b, f.parts = l ++ p :: r → p.writes k b → (∀ q ∈ r, ∀ c, ¬ q.writes k c) →
            cellAt t.mem.cells k = b ∧ t.byteAt (some f.core) k = b)
        ∧ ∀ k, (∀ p ∈ f.parts, ∀ c, ¬ p.writes k c) → t.byteAt (some f.core) k = s.byteAt (some f.core) k

/-- Matrix streams: a stream with a slot and a plane that agree takes its rows into flight and waits with its done mask;
each `matrixRow` does the lowest row that is left, which adds its dot products to the tile's row (from +0 with `.z`),
clears CKV or keeps the checksums, and marks the row done; after the last row the lanes receive 0 in their progress
register and go on (spec 05, R125 to R131; spec 09, R256 to R259; spec 18, R422). (The engine order by waiting is a
reading: log 31.) -/
def Obligations.MatrixStreams : Prop :=
  (let streams (i : Instr) (f : StreamForm) : Prop := streamForm i = some f ∧ ∀ s x l k u q rows, Issues i s x →
      EngineFree s x → (f.z = true ∨ s.tileUe x.g f.acc = false) → s.lead x = some (l, k, u) →
      f.codes (s.slotWord x f.slot) (x.g.buf f.brec) (s.engOf x.g) = [] →
      let done := (opRead f.gp x.v u).toNat
      s.streamRows x f ((lanesOf x.on).filter (fun l => !done.testBit l)) = (rows, q) → rows ≠ [] →
      (∀ e ∈ rows, ∃ ls, e.2 = .ok ls ∧ ls ≠ []) →
      ∃ t fl, Gives i s t
        ∧ WaitsHere x [s.nextKey, done, (opNth f.sc 0 x.v u).toNat, (opNth f.sc 1 x.v u).toNat] t ∧ Translated s q ∧ Map.find t.flights s.nextKey = some fl
        ∧ fl.instr = x.i ∧ fl.path = 2 ∧ fl.parts = rows.flatMap (fun e => match e.2 with
            | .ok ls => (match s.laneTid x.w e.1, s.laneThread x.w e.1 with
              | some k, some t => chunkParts k e.1 t.call ls []
              | _, _ => [])
            | .error _ => []);
    (∀ a, streams (.mstream a) (StreamForm.mk 2 false false a.z a.acc.val a.slot a.brec.val a.ix a.gp a.sc a.str.val 0x052))
    ∧ (∀ a, streams (.mstreams a) (StreamForm.mk 4 true false a.z a.acc.val a.slot a.brec.val a.ix a.gp a.sc a.str.val 0x053))
    ∧ ∀ a, streams (.mstreamc a) (StreamForm.mk 2 false true false a.acc.val a.slot a.brec.val a.ix a.gp a.sc a.str.val 0x054))
  ∧ (∀ (s : State) w i r g l more fl u, s.streamAt w i = some r → Map.find s.groups r.v.gid = some g → r.v.resident = true →
    (s.engOf g).owner = some r.v.gid → r.left = l :: more → Map.find s.flights r.key = some fl →
    s.laneThread w l = some u → s.mayPerform fl = true →
    let ps := fl.parts.filter (fun p => p.lane == l)
    s.flightErrors { fl with parts := ps } [] = [] → (∀ p ∈ ps, PagesHeld s p.loc p.len) →
    let e := (s.engOf g).doRow r.f (lrSlot (s.recOf g) r.f.slot.val) l (ps.flatMap (fun p => s.readLoc (some g.core) p.loc p.len))
      (fun j => match r.f.sc with
        | .g n => u.reg (n.val + j)
        | _ => BitVec.ofNat 32 (r.wt.aux.getD (2 + j) 0))
    (more ≠ [] → ∃ t, Gives (.matrixRow w i) s t ∧ (t.core g.core).eng = e ∧ t.threads = s.threads ∧ SameMemory s t
      ∧ t.frag w i = some { r.fr with st := .wait { r.wt with aux := r.key :: (r.done ||| 2 ^ l) :: r.wt.aux.drop 2 } })
    ∧ (more = [] → r.wt.vals = [] → r.fr.mask ≠ 0 → ∃ t, Gives (.matrixRow w i) s t ∧ (t.core g.core).eng = e
      ∧ SameMemory s t ∧ t.frag w i = some { r.fr with st := .ready, pc := r.fr.pc + 8 } ∧ Map.find t.flights r.key = none
      ∧ ∀ n u l, Map.find s.threads n = some u → u.place = some (w, l) → (r.wt.on &&& r.fr.mask).getLsbD l = true →
          ∃ u', Map.find t.threads n = some u' ∧ u'.regs = (opWrite r.f.gp 0 u).regs))
  ∧ (∀ (s : State) w i r g, s.streamAt w i = some r → Map.find s.groups r.v.gid = some g → r.v.resident = true →
    (s.engOf g).owner = some r.v.gid → r.left = [] → r.wt.vals = [] → r.fr.mask ≠ 0 →
    ∃ t, Gives (.matrixRow w i) s t ∧ t.frag w i = some { r.fr with st := .ready, pc := r.fr.pc + 8 } ∧ t.cores = s.cores)
  ∧ (∀ (e : Eng) f w l bytes sa, f.ck = false → l < 32 →
    let af := slotA w
    let cols := (List.range 64).map (fun n =>
      if f.sparse then sparseColumn e.act.rows e.activeSide e.act.k n else Plane.column e.act.rows n)
    let scale (j : Nat) : FR := if slotScale w = 0 then .fin false 1 0 else FR.mul (ofF32 (sa j)) (ofF32 (e.act.sb.getD j 0))
    CkvCleared e (e.doRow f w l bytes sa) f.acc ∧ RowsAre e (e.doRow f w l bytes sa) (fun i j =>
      if i = f.acc ∧ j = l then List.zipWith (fun c b =>
        if af = 5 ∨ af = 6 ∨ af = 7 then dotInt af (slotB w) c (elemsOf af bytes) b
        else addTerms c (dotTerms af (slotB w) scale (elemsOf af bytes) b))
          (if f.z then List.replicate 64 0 else e.row i j) cols else e.row i j))
  ∧ ∀ c a b, dotInt 5 5 c a b = c + BitVec.ofInt 32 ((List.zipWith (fun x (y : Option Nat) =>
      (BitVec.ofNat 8 x).toInt * (match y with | some v => (BitVec.ofNat 8 v).toInt | none => 0)) a b).sum)

/-! ### Macro-instructions (spec 10) -/

/-- spec 10, R270; spec 03, R73; spec 18, R424. Each macro-instruction that the sequencer carries out in steps (`RASTRI`,
`TRAVERSE`, `FILTER`, `OBLEND`, `SHADEQ`, the four `ANYHIT`, `GQPUSH`, `GQPUSH.close`, `GQPOP`, `HIZQ`, `MACRO`,
`BOP`), by the headers of its active lanes: with STATUS 3 it completes at once; with STATUS above 3 the lanes take
0x027; with a cause in the operands, that cause; otherwise every active lane is at work, with the operands captured.
(That STATUS 3 and above 3 come before the causes of the operands is a reading: log 32.) (Which causes come before
STATUS 3 is a reading: log 32.) -/
def Obligations.MacroIssue : Prop :=
  ∀ i m s x, macOp i = some m → Issues i s x →
    (EachActive s x (fun _ u => hdrStatus (u.reg m.base) = 3) →
      ∃ t, Gives i s t ∧ AllGoOn x t ∧ SameThreads s t ∧ SameMemory s t)
    ∧ (CanTrap x → EachActive s x (fun _ u => 4 ≤ hdrStatus (u.reg m.base)) → ∃ t, Gives i s t ∧ Entered s t x x.on 0x027)
    ∧ (∀ c, CanTrap x → EachActive s x (fun _ u => hdrStatus (u.reg m.base) < 3
        ∧ minCode (macCauses i s x u) = some c) → ∃ t, Gives i s t ∧ Entered s t x x.on c)
    ∧ (EachActive s x (fun _ u => hdrStatus (u.reg m.base) < 3
        ∧ minCode (macCauses i s x u) = none) →
      ∃ t vals, Gives i s t ∧ SameThreads s t ∧ SameMemory s t
        ∧ t.frag x.w x.f = some { x.fr with st := .wait (macWaitOf i x.on vals (m.recs.map (fun r => x.g.buf r.val)) []) }
        ∧ (∀ w, w ≠ x.w → Map.find t.waves w = Map.find s.waves w)
        ∧ ∀ l u, x.on.getLsbD l = true → s.laneThread x.w l = some u →
            (Map.get vals 0 l).toNat % 2 ^ 32 = (opRead m.opx x.v u).toNat)

/-- spec 10, R270, R271, R283, R297. One step of a lane at work (`sequencerStep`; and `macroWaitSatisfied` for the
instructions that wait for a ticket or a queue): a step that is performed writes its registers and its memory, and the
lane goes on or, if it ends, leaves once no lane is at work; a step that must wait changes nothing but what
translation leaves; a step that meets a cause is not performed, and the lane's STATUS shows that it stopped. spec 10,
R283, R293, R296, R297. Steps whose result needs no more than the block and the words read: an `OBLEND` of an empty
mask; `ANYHIT.next` with every entry handed out; a `GQPOP` of a queue that is closed and empty; a `GQPUSH` to a closed
queue; a `GQPUSH` to a full one. (What a stop leaves is a reading: log 32.) -/
def Obligations.SequencerSteps : Prop :=
  ((∀ s w f l fr wt c o q, AtWork s w f l fr wt c → (macStep c).run s = (Except.ok o, q) → (∀ e ∈ o.regs, e.1 = l) →
    (∀ e ∈ o.ws, e.1.remote = false ∧ ∀ a, e.1 ≠ .reg a) → (o.ends = [] ∨ wt.aux.length = 3) →
    ∃ t, Gives (.sequencerStep w f l) s t
      ∧ t.mem = (q.macWrites c o.ws).mem
      ∧ (∃ u, Map.find t.threads c.tid = some u
        ∧ ∀ r, u.reg r = match o.regs.reverse.find? (fun e => e.2.1 == r) with | some e => e.2.2 | none => c.t.reg r)
      ∧ (o.ends = [] → t.frag w f = some { fr with st := .wait (wt.macRan l) })
      ∧ (o.ends = [l] → wt.on &&& fr.mask = 1#32 <<< l →
          ∀ j, fr.mask.getLsbD j = true → ∃ v fr', Map.find t.waves w = some v ∧ fr' ∈ v.frags ∧ fr'.mask.getLsbD j = true
            ∧ fr'.pc = fr.pc + 8 ∧ fr'.st = .ready))
  ∧ (∀ s w f l fr wt c q, AtWork s w f l fr wt c → (macStep c).run s = (Except.error .wait, q) → Gives (.sequencerStep w f l) s q)
  ∧ (∀ s w f l fr wt c code a keep q, AtWork s w f l fr wt c → (macStep c).run s = (Except.error (.cause code a keep), q) →
    wt.on &&& fr.mask ≠ 1#32 <<< l →
    ∃ t, Gives (.sequencerStep w f l) s t ∧ t.frag w f = some { fr with st := .wait (wt.macEnd l 2 code a) }
      ∧ t.mem = q.mem
      ∧ ∃ u, Map.find t.threads c.tid = some u ∧ (c.unset = false → ∀ r, r ≠ c.op.base → u.reg r = c.t.reg r)
        ∧ (u.reg c.op.base = c.reg 0 ∨ u.reg c.op.base = hdrWith (c.reg 0) 1 0))
  ∧ ∀ s w f l fr wt c, AtWork s w f l fr wt c → macWaits wt.instr = true →
      exec (.macroWaitSatisfied w f l) s = exec (.sequencerStep w f l) s)
  ∧ ((∀ a c s, c.i = .oblend a → bits (c.nat 1) 13 10 = 0 → (macStep c).run s = (Except.ok { regs := c.head c.idata 3 0, ends := [c.lane] }, s))
  ∧ (∀ a c s, c.i = .anyhitNext a → (∀ i, i < c.ccnt → c.hout.testBit i = true) →
    (macStep c).run s = (Except.ok { regs := c.put 29 [BitVec.ofNat 32 (c.nat 29 ||| 2 ^ 6)], ends := [c.lane] }, s))
  ∧ (∀ c s q h n, (macRead c (c.record 0) false 0 16).run s = (Except.ok h, q) → bits h 31 0 = 2 ^ n → 1 ≤ n → n ≤ 20 →
    c.idata.testBit 0 = false →
    (∀ a, c.i = .gqpop a → bits h 95 64 = bits h 127 96 → h.testBit 32 = true →
      (macStep c).run s = (Except.ok { regs := c.head (gqIdata c false true) 3 0, ends := [c.lane] }, q))
    ∧ (∀ a, c.i = .gqpop a → bits h 95 64 = bits h 127 96 → h.testBit 32 = false → (macStep c).run s = (Except.error .wait, q))
    ∧ (∀ a, c.i = .gqpush a → h.testBit 32 = true → (macStep c).run s = (Except.error (.cause 0x112 0 false), q))
    ∧ (∀ a, c.i = .gqpush a → h.testBit 32 = false → bits h 95 64 = bits h 127 96 + 2 ^ n → (macStep c).run s = (Except.error .wait, q))))

/-- spec 10, R294, R295. `HITSORT`: each active thread whose STATUS is not 3 leaves its wave with STATUS 3 and the core it
came from in its block, and is filed by its shader key or released with others at the next instruction; with STATUS 3
a lane goes on. A bucket releases its earliest threads after 512 cycles (`bucketAgeRelease`), and passes a thread to
the next core once it has held fewer than 16 for 256 cycles (`pourRingPass`). (The filing order is a reading: log 20.) -/
def Obligations.SortingAndPouring : Prop :=
  (∀ a s x, Issues (.hitsort a) s x →
    let base := MacOp.base { sb := a.sb, recs := [], opx := .z, str := 0 }
    (EachActive s x (fun _ u => hdrStatus (u.reg base) = 3) → (∀ fr ∈ x.v.frags, fr.join = none) → x.v.asyncs = [] →
      ∃ t, Gives (.hitsort a) s t ∧ AllGoOn x t ∧ SameThreads s t)
    ∧ (EachActive s x (fun _ u => hdrStatus (u.reg base) < 3) → (∀ fr ∈ x.v.frags, fr.join = none) → x.v.asyncs = [] →
      Map.wf s.threads = true →
      (∀ b ∈ (s.core x.g.core).buckets, ∀ k ∈ s.tidsOf x.w x.on, k ∉ b.tids.map Prod.fst) →
      ∃ t, Gives (.hitsort a) s t ∧ SameMemory s t ∧ ∀ k ∈ s.tidsOf x.w x.on, ∀ u, Map.find s.threads k = some u →
        ∃ u', Map.find t.threads k = some u'
          ∧ u' = { u.sorted base x.g.core false with passed := false, place := u'.place, pc := x.fr.pc + 8 }
          ∧ ((u'.place = none ∧ ∃ b ∈ (t.core x.g.core).buckets, k ∈ b.tids.map Prod.fst ∧ b.gid = x.gid ∧ b.pc = x.fr.pc + 8
              ∧ b.key = (u.reg (base + 1)).toNat % 2 ^ 16)
            ∨ ∃ w l v fr, u'.place = some (w, l) ∧ Map.find t.waves w = some v ∧ v.gid = x.gid ∧ fr ∈ v.frags
              ∧ fr.mask.getLsbD l = true ∧ fr.pc = x.fr.pc + 8 ∧ fr.st = .ready)))
  ∧ (∀ s c i b e, (s.core c).buckets[i]? = some b → b.tids.head? = some e → e.2 + 512 ≤ s.tick →
    ∃ t, Gives (.bucketAgeRelease c i) s t ∧ WaveFormed s t c b.gid b.pc ((b.tids.take 32).map Prod.fst)
      ∧ (t.core c).buckets = (s.core c).buckets.take i
          ++ (if b.tids.length ≤ 32 then [] else [{ b with tids := b.tids.drop 32 }]) ++ (s.core c).buckets.drop (i + 1))
  ∧ ∀ s c i b k τ g u n, (s.core c).buckets[i]? = some b → b.tids = [(k, τ)] → τ + 256 ≤ s.tick →
    Map.find s.groups b.gid = some g → g.gates = [] → Map.find s.threads k = some u → u.gid = b.gid → u.passed = false →
    s.pourTarget g (nextCore c) = some n → n ≠ b.gid → 2 ≤ (s.groupTids b.gid).length → s.waitingAt b.gid (fun _ => true) = [] →
    (∀ b' ∈ (s.core (nextCore c)).buckets, k ∉ b'.tids.map Prod.fst) →
    ∃ t u', Gives (.pourRingPass c i) s t ∧ Map.find t.threads k = some u'
      ∧ u' = { u.sorted b.base c true with gid := n, passed := true, place := u'.place, pc := b.pc }

/-! ### The system block -/

/-- spec 03, R78; spec 04, R84, R85; spec 18, R426. `SRWRP` writes a privileged special register, and refuses the others
with 0x139. Each `TLBINV` refuses reserved bits with 0x13A; otherwise the entries it covers leave the TLB, no other
does, and the fragment goes on once every access that may have used one of them has been performed (`tlbinvComplete`).
(For what a TLBINV waits is a reading: log 40.) -/
def Obligations.PrivilegedWritesAndTlb : Prop :=
  (∀ a s x l u, Issues (.srwrp a) s x → lowLane x.on = some l → s.laneThread x.w l = some u →
    (0x300 ≤ a.idx.val → ∃ t, Gives (.srwrp a) s t ∧ GoneOn x t
      ∧ t = { s with mgmt := { s.mgmt with sysregs := t.mgmt.sysregs }, waves := t.waves }
      ∧ ∀ n, Map.get t.mgmt.sysregs 0 n
        = if n = a.idx.val then BitVec.ofNat 64 (opNat a.wide a.a x.v u) else Map.get s.mgmt.sysregs 0 n)
    ∧ (a.idx.val < 0x300 → CanTrap x → ∃ t, Gives (.srwrp a) s t ∧ Entered s t x x.on 0x139))
  ∧ (let drops (i : Instr) (bad : Iss → Thread → Prop) (cover : Iss → Thread → TlbEntry → Bool)
        (user : Iss → Thread → Flight → Bool) : Prop :=
      ∀ s x l u, Issues i s x → lowLane x.on = some l → s.laneThread x.w l = some u →
        (bad x u → CanTrap x → ∃ t, Gives i s t ∧ Entered s t x x.on 0x13A)
        ∧ (¬ bad x u → ∃ t, Gives i s t ∧ (∀ e, e ∈ t.mmu.tlb ↔ e ∈ s.mmu.tlb ∧ cover x u e = false)
          ∧ t = { s with mmu := { s.mmu with tlb := t.mmu.tlb }, waves := t.waves }
          ∧ (s.usersOf (user x u) = [] → GoneOn x t)
          ∧ (s.usersOf (user x u) ≠ [] → WaitsHere x (s.usersOf (user x u)) t));
    (∀ a : Sys2Proof.Ab, drops (.tlbinvPage a) (fun x u => bits (opRead a.a x.v u).toNat 31 26 ≠ 0 ∨ 2 ^ 57 ≤ (opRead64 a.b x.v u).toNat)
      (fun x u e => e.func == bits (opRead a.a x.v u).toNat 25 20 && e.pasid == bits (opRead a.a x.v u).toNat 19 0
        && decide (e.vbase ≤ (opRead64 a.b x.v u).toNat) && decide ((opRead64 a.b x.v u).toNat < e.vbase + e.size))
      (fun x u => Flight.inPasid (bits (opRead a.a x.v u).toNat 25 20) (bits (opRead a.a x.v u).toNat 19 0)))
    ∧ (∀ a : Ax, drops (.tlbinvPasid a) (fun x u => bits (opRead a.a x.v u).toNat 31 26 ≠ 0)
      (fun x u e => e.func == bits (opRead a.a x.v u).toNat 25 20 && e.pasid == bits (opRead a.a x.v u).toNat 19 0)
      (fun x u => Flight.inPasid (bits (opRead a.a x.v u).toNat 25 20) (bits (opRead a.a x.v u).toNat 19 0)))
    ∧ (∀ a : Sys2Proof.Ab, drops (.tlbinvIpa a) (fun x u => bits (opRead a.a x.v u).toNat 31 26 ≠ 0
        ∨ bits (opRead a.a x.v u).toNat 19 0 ≠ 0 ∨ 2 ^ 57 ≤ (opRead64 a.b x.v u).toNat)
      (fun x u e => e.func == bits (opRead a.a x.v u).toNat 25 20
        && decide (e.ibase ≤ (opRead64 a.b x.v u).toNat) && decide ((opRead64 a.b x.v u).toNat < e.ibase + e.isize))
      (fun x u g => g.func == bits (opRead a.a x.v u).toNat 25 20))
    ∧ (∀ a : Ax, drops (.tlbinvFunc a) (fun x u => bits (opRead a.a x.v u).toNat 31 26 ≠ 0)
      (fun x u e => e.func == bits (opRead a.a x.v u).toNat 25 20) (fun x u g => g.func == bits (opRead a.a x.v u).toNat 25 20))
    ∧ (∀ a : Ax, drops (.tlbinvDom a) (fun x u => bits (opRead a.a x.v u).toNat 31 12 ≠ 0)
      (fun x u e => e.domain == (opRead a.a x.v u).toNat)
      (fun x u f => f.domain == (opRead a.a x.v u).toNat))
    ∧ ∀ a, drops (.tlbinvAll a) (fun _ _ => False) (fun _ _ _ => true) (fun _ _ _ => true))
  ∧ ∀ (s : State) w i fr wt, s.frag w i = some fr → fr.st = .wait wt → isTlbinv wt.instr = true → fr.mask ≠ 0 →
      ((∀ k ∈ wt.aux, Map.find s.flights k = none) → ∃ t, Gives (.tlbinvComplete w i) s t
        ∧ t.frag w i = some { fr with st := .ready, pc := fr.pc + 8 } ∧ t = { s with waves := t.waves })
      ∧ ((∃ k f, k ∈ wt.aux ∧ Map.find s.flights k = some f) → Gives (.tlbinvComplete w i) s s)

/-- spec 19, R436, R437, R449, R450; spec 21, R472; spec 18, R426. `DOMSET.end` adds a domain to those being ended and
`DOMSET.stat` reads whether one is; `HALT` begins the eviction of the gang under a halt identifier, but in a region
takes 0x13F; `SIGCMP` compares or reads the write signature; each `FINJ` leaves the error it names; and what each
refuses. (The injections that address memory are readings: log 41; `HALT`: log 42.) -/
def Obligations.DomainsAndInjections : Prop :=
  (let bad (v : W32) (own : Nat) : Prop := 2 ^ 12 ≤ v.toNat ∨ v = 0 ∨ v.toNat = own;
    (∀ a s x l u, Issues (.domsetEnd a) s x → lowLane x.on = some l → s.laneThread x.w l = some u →
      (bad (opRead a.a x.v u) x.g.domain → CanTrap x → ∃ t, Gives (.domsetEnd a) s t ∧ Entered s t x x.on 0x13B)
      ∧ (¬ bad (opRead a.a x.v u) x.g.domain → ∃ t, Gives (.domsetEnd a) s t ∧ GoneOn x t
        ∧ (∀ d, d ∈ t.rep.ending ↔ d ∈ s.rep.ending ∨ d = (opRead a.a x.v u).toNat)
        ∧ t = { s with rep := { s.rep with ending := t.rep.ending }, waves := t.waves }))
    ∧ (∀ a s x l u, Issues (.domsetStat a) s x → lowLane x.on = some l → s.laneThread x.w l = some u →
      (bad (opRead a.b x.v u) x.g.domain → CanTrap x → ∃ t, Gives (.domsetStat a) s t ∧ Entered s t x x.on 0x13B)
      ∧ (¬ bad (opRead a.b x.v u) x.g.domain → ∃ t, Gives (.domsetStat a) s t ∧ LaneResult s t x (fun _ q =>
        opWrite a.a (if (opRead a.b x.v u).toNat ∈ s.rep.ending then 1 else 0) q))))
  ∧ (∀ a s x, Issues (.halt a) s x →
    (x.g.noPre ≠ none → CanTrap x → ∃ t, Gives (.halt a) s t ∧ Entered s t x x.on 0x13F)
    ∧ (x.g.noPre = none → (∀ e ∈ s.waves, ∀ fr ∈ e.2.frags, fr.st = .ready) → ∃ t d, Gives (.halt a) s t ∧ AllGoOn x t
      ∧ Map.find t.rep.halting x.g.gang = some (s.rep.nextHalt % 2 ^ 16) ∧ t.rep.nextHalt = s.rep.nextHalt % 2 ^ 16 + 1
      ∧ (t.core x.g.core).drain = some d ∧ x.g.gang ∈ d.whole ∧ SameThreads s t
      ∧ ∀ w ∈ s.gangWaves x.g.gang, ∀ v, Map.find t.waves w = some v → v.draining = true))
  ∧ (∀ a, ActsAs (.sigcmpCmp a) (fun x _ u => { opWrite a.a (if u.sig = opRead64 a.b x.v u then 0 else 1) u with sig := 0 }))
  ∧ (∀ a, ActsAs (.sigcmpRd a) (fun _ _ u => opWrite64 a.a u.sig u))
  ∧ (∀ a s x, Issues (.finjReplay a) s x → ∃ t, Gives (.finjReplay a) s t ∧ WaveResult s t x (fun v => { v with replay := true }))
  ∧ (∀ a s x, Issues (.finjSig a) s x → ∃ t, Gives (.finjSig a) s t
    ∧ WaveResult s t x (fun v => { v with sigFlip := v.sigFlip || lrPaired (s.recOf x.g) }))
  ∧ (∀ a s x l u, Issues (.finjAcc a) s x → lowLane x.on = some l → s.laneThread x.w l = some u →
    let v := (opRead a.a x.v u).toNat
    ((2 ^ 20 ≤ v ∨ s.kindOfGroup x.g ≠ .matrix) → CanTrap x → ∃ t, Gives (.finjAcc a) s t ∧ Entered s t x x.on 0x13C)
    ∧ (v < 2 ^ 20 → s.kindOfGroup x.g = .matrix → EngineFree s x → ∃ t e, Gives (.finjAcc a) s t ∧ EngineIs s t x e
      ∧ e = { s.engOf x.g with acc := e.acc }
      ∧ ∀ i r c, r < 32 → c < 64 → Map.get e.acc 0 (2048 * i + 64 * r + c) = Map.get (s.engOf x.g).acc 0 (2048 * i + 64 * r + c)
        ^^^ (if i = bits v 3 0 ∧ r = bits v 8 4 ∧ c = bits v 14 9 then 1#32 <<< bits v 19 15 else 0)))
  ∧ (∀ a s x l u, Issues (.finjAccue a) s x → lowLane x.on = some l → s.laneThread x.w l = some u →
    let v := (opRead a.a x.v u).toNat
    ((2 ^ 4 ≤ v ∨ s.kindOfGroup x.g ≠ .matrix) → CanTrap x → ∃ t, Gives (.finjAccue a) s t ∧ Entered s t x x.on 0x13C)
    ∧ (v < 2 ^ 4 → s.kindOfGroup x.g = .matrix → EngineFree s x → ∃ t e, Gives (.finjAccue a) s t ∧ EngineIs s t x e
      ∧ e = { s.engOf x.g with uncorr := e.uncorr, injected := e.injected }
      ∧ ∀ i, i < 16 → e.uncorr.getLsbD i = (i == v || (s.engOf x.g).uncorr.getLsbD i)
          ∧ e.injected.getLsbD i = (i == v || (s.engOf x.g).injected.getLsbD i)))
  ∧ (∀ a s x l u, Issues (.finjSpue a) s x → lowLane x.on = some l → s.laneThread x.w l = some u →
    (s.scrLoc x.gid x.g (opRead a.a x.v u).toNat 1 = none → CanTrap x →
      ∃ t, Gives (.finjSpue a) s t ∧ Entered s t x x.on 0x0B1)
    ∧ ∀ k o g, s.scrLoc x.gid x.g (opRead a.a x.v u).toNat 1 = some (k, o) → Map.find s.groups k = some g →
      ∃ t g', Gives (.finjSpue a) s t ∧ GoneOn x t ∧ Map.find t.groups k = some g'
        ∧ g' = { g with scrPoison := g'.scrPoison, scrInjected := g'.scrInjected }
        ∧ (∀ n, n ∈ g'.scrPoison ↔ n = o / 128 ∨ n ∈ g.scrPoison) ∧ (∀ n, n ∈ g'.scrInjected ↔ n = o / 128 ∨ n ∈ g.scrInjected)
        ∧ t = { s with groups := t.groups, waves := t.waves })
  ∧ ∀ a s x l u, Issues (.finjLineue a) s x → lowLane x.on = some l → s.laneThread x.w l = some u →
      let v := (opRead64 a.a x.v u).toNat
      (2 ^ 57 ≤ v → CanTrap x → ∃ t, Gives (.finjLineue a) s t ∧ Entered s t x x.on 0x13C)
      ∧ ∀ pa ad q, v < 2 ^ 57 → s.placeVirt x.g .write 1 v 1 = (.at' (.mem pa) ad, q) →
        ∃ t, Gives (.finjLineue a) s t ∧ AllGoOn x t ∧ SameThreads q t
          ∧ (∀ n, n ∈ t.mem.poison ↔ n = pa / 128 ∨ n ∈ q.mem.poison)
          ∧ (∀ n, n ∈ t.mem.l2Poison ↔ n = pa / 128 ∨ n ∈ q.mem.l2Poison)
          ∧ (∀ n, n ∈ t.mem.injected ↔ n = pa / 128 ∨ n ∈ q.mem.injected) ∧ t.mem.cells = q.mem.cells

/-- spec 06, R153; spec 14, R360, R361; spec 18, R426. `MCLOAD` refuses an address that is no multiple of 4 KiB or has bits
[63:57] set (log 39: a model's reading) with 0x13D, and else waits; the management core serves the first that waits
(`mcloadDone`): status 4 where the image cannot be read, 3 where its length is out of range, else the status of its checks;
and only an accepted image becomes the binding, at once or once no launch uses the one before. -/
def Obligations.MicrocodeLoads : Prop :=
  (∀ a s x l u, Issues (.mcload a) s x → lowLane x.on = some l → s.laneThread x.w l = some u →
    let v := (opRead64 a.b x.v u).toNat
    (v % 4096 ≠ 0 ∨ 2 ^ 57 ≤ v → CanTrap x → ∃ t, Gives (.mcload a) s t ∧ Entered s t x x.on 0x13D)
    ∧ (v % 4096 = 0 → v < 2 ^ 57 → ∃ t, Gives (.mcload a) s t ∧ WaitsHere x [s.nextKey, v] t
      ∧ t = { s with nextKey := s.nextKey + 1, waves := t.waves }))
  ∧ (∀ s w i v g fr wt a, Map.find s.waves w = some v → v.frags[i]? = some fr → Map.find s.groups v.gid = some g →
    fr.st = .wait wt → wt.instr = .mcload a → fr.mask ≠ 0 → (∀ k ∈ s.mcloads, wt.aux.headD 0 ≤ k) →
    ∃ t, Gives (.mcloadDone w i) s t ∧ t.frag w i = some { fr with st := .ready, pc := fr.pc + 8 }
      ∧ ∀ k u l, Map.find s.threads k = some u → u.place = some (w, l) → wt.on.getLsbD l = true →
        Map.find t.threads k = some (opWrite a.a (BitVec.ofNat 32 (s.loadImage g.ctx (wt.aux.getD 1 0)).1) u))
  ∧ (∀ (s : State) c va e q, s.readVirt c va 8 = (Except.error e, q) → s.loadImage c va = (4, q))
  ∧ (∀ (s : State) c va h q, s.readVirt c va 8 = (Except.ok h, q) →
    let n := ofBytes (h.take 4)
    ((n % 8 ≠ 0 ∨ n < 792 ∨ 2 ^ 20 < n) → s.loadImage c va = (3, q))
    ∧ (n % 8 = 0 → 792 ≤ n → n ≤ 2 ^ 20 →
      (∀ e q', q.readVirt c va n = (Except.error e, q') → s.loadImage c va = (4, q'))
      ∧ ∀ l q', q.readVirt c va n = (Except.ok l, q') →
        ((q'.mgmt.signed l = false ∨ q'.mgmt.revoked l = true) → s.loadImage c va = (1, q'))
        ∧ (q'.mgmt.signed l = true → q'.mgmt.revoked l = false → imageVer l < q'.mgmt.svn → s.loadImage c va = (2, q'))
        ∧ (q'.mgmt.signed l = true → q'.mgmt.revoked l = false → q'.mgmt.svn ≤ imageVer l → imageFormed l = false →
          s.loadImage c va = (3, q'))
        ∧ (q'.mgmt.signed l = true → q'.mgmt.revoked l = false → q'.mgmt.svn ≤ imageVer l → imageFormed l = true →
          ∃ t, s.loadImage c va = (0, t) ∧ Map.find t.mgmt.images (ofBytesBE (sha256 l)) = some (imagePrims l)
            ∧ if q'.launches ≠ [] then t.mgmt.nextBinding = some (ofBytesBE (sha256 l))
                ∧ t.mgmt.binding = q'.mgmt.binding
              else t.mgmt.binding = some (ofBytesBE (sha256 l)) ∧ t.mgmt.nextBinding = none)))

/-! ### Scheduling (spec 11) -/

/-- spec 11, R300; spec 20, R465; spec 03, R79. The engine reads the packet at HEAD of an enabled queue (`packetAccept`):
a reserved bit or type is answered with status 3, an invalid PASID or one of a domain being ended with 4 and a record
of 0x135, a record that cannot be read with 6, one that is refused with 5; a launch that passes is registered with its
class capped by the queue, and its first gang is offered. No packet of a peer comes
before it in its queue (log 63). (The order of checks around STATUS 4 follows log 50.) -/
def Obligations.PacketsAccepted : Prop :=
  (∀ s f q l r, s.queueOn f q = true → s.queueFill f q ≠ 0 → f * 2048 + q ∉ s.host.stalled → f ∉ s.host.frst →
    (∀ k ∈ s.host.peerq, k.func = f → k.queue = q → s.peerTurn k = false) →
    s.readVirt (s.engineCtx f (s.queuePasid f q)) (s.queueSlot f q (s.queueHead f q)) 64 = (Except.ok l, r) →
    let ws := wordsOf 8 l
    let p := r.queuePath f q
    let h := r.queueTake f q
    let pe := h.pasidEntry f (pkPasid ws)
    let dom := bits pe 63 52
    (packetOk ws = false → Gives (.packetAccept (.queue f q)) s (h.answer p ws 3))
    ∧ (packetOk ws = true → pkOrd ws = true → r.queueBusy p = true → Gives (.packetAccept (.queue f q)) s r)
    ∧ (packetOk ws = true → (pkOrd ws = true → r.queueBusy p = false) →
      ((pe.testBit 0 = false ∨ dom ∈ h.rep.ending) → ∃ e : ErrInfo, e.cause = 0x135 ∧ e.func = f ∧ e.pasid = pkPasid ws
        ∧ e.queue = q ∧ e.lrec = pkLrec ws ∧ e.action = 6 ∧ Gives (.packetAccept (.queue f q)) s ((h.hostReport e).answer p ws 4))
      ∧ (pe.testBit 0 = true → dom ∉ h.rep.ending → pkType ws ≠ 0 →
        (∀ e v, h.readRecord (h.engineCtx f (pkPasid ws)) (pkLrec ws) = (Except.error e, v) →
          Gives (.packetAccept (.queue f q)) s (v.answer p ws 6))
        ∧ ∀ ws' b v, h.readRecord (h.engineCtx f (pkPasid ws)) (pkLrec ws) = (Except.ok (ws', b), v) →
          (v.recordFits f (pkPasid ws) dom p.priv ws' b = false → Gives (.packetAccept (.queue f q)) s (v.answer p ws 5))
          ∧ (v.recordFits f (pkPasid ws) dom p.priv ws' b = true → (∀ e ∈ v.gangs, e.2.lid ≠ v.nextKey) →
            ∃ t n, Gives (.packetAccept (.queue f q)) s t ∧ Map.find t.launches v.nextKey = some n
              ∧ n.words = ws' ∧ n.binds = b ∧ n.args = (List.range 8).map (pkArg ws) ∧ n.func = f ∧ n.pasid = pkPasid ws
              ∧ n.domain = dom ∧ n.lrec = pkLrec ws ∧ n.queue = q ∧ n.etag = pkEtag ws ∧ n.vec = pkVec ws
              ∧ n.cdep = pkCdep ws ∧ n.cls = min (lrPrio ws') p.ceil ∧ n.ended = false ∧ n.failed = false
              ∧ (lrTsen ws' = false → 0 < lrGangs ws' → ∃ g, Map.find t.gangs (v.nextKey + 1) = some g ∧ g.lid = v.nextKey
                ∧ g.num = 0 ∧ g.st = .waiting ∧ g.groups = [] ∧ g.parent = none)
              ∧ t.threads = v.threads ∧ t.mem = v.mem))))
  ∧ (∀ s f q, (s.queueOn f q = false ∨ s.queueFill f q = 0 ∨ f * 2048 + q ∈ s.host.stalled ∨ f ∈ s.host.frst) →
    Gives (.packetAccept (.queue f q)) s s)
  ∧ ∀ s lid l, Map.find s.launches lid = some l → l.src.answers = true → s.launchDone lid l = true → l.cdep = 0 →
      Gives (.launchCompletion lid) s { s.writeEvent l.func l.vec (some l.pasid)
        (if l.ended then 2 else if l.failed then 1 else 0) l.queue l.etag with launches := Map.del s.launches lid }

/-- spec 11, R302, R306 to R308; spec 03, R79; spec 02, R39. The gang served next starts on the cores its placement names,
one group on each, every thread with its arguments and nothing else in its registers (`gangAdmission`); after a phase
end its groups are on cores again, each thread with the registers it carried (`phaseAdmission`). The admission
throttle is counted once for each wait (`admissionThrottle`), a bin releases its earliest threads after 64 cycles
(`binAgeRelease`), and a gang that has waited a time slice counts as class 7 (`waitingWorkClass7`). (Which agent moves
next is the model's own order: log 1; filing: log 20.) -/
def Obligations.Admissions : Prop :=
  (∀ s gk g l d c arc tw, Map.find s.gangs gk = some g → g.st = .waiting → s.nextServed = some gk → gk < s.nextKey →
    Map.find s.launches g.lid = some l → s.placeFor g = some (d, c, arc, tw) → g.parent = none →
    (∀ e ∈ s.cores, ∀ b ∈ e.2.bins, ∀ q ∈ b.tids, q.1 < s.nextKey) →
    ∃ t g' ks, Gives (.gangAdmission gk) s t ∧ Map.find t.gangs gk = some g' ∧ g'.st = .resident ∧ g'.die = d ∧ g'.cluster = c
      ∧ g'.groups = ks ∧ ks.length = arc.length ∧ SameMemory s t
      ∧ ∀ i k e, ks[i]? = some k → arc[i]? = some e → ∃ r, Map.find t.groups k = some r ∧ r.gang = gk ∧ r.lid = g.lid
        ∧ r.core = e ∧ r.rank = i ∧ r.num = g.num * lrGroups l.words + i ∧ r.st = .resident ∧ r.hvec = 0 ∧ r.full = false
        ∧ r.scr = [] ∧ r.func = l.func ∧ r.pasid = l.pasid ∧ r.domain = l.domain ∧ r.bars = [] ∧ r.noPre = none
        ∧ ∀ j, j < lrThreads l.words → ∃ u, Map.find t.threads (k + 1 + j) = some u ∧ u.gid = k
          ∧ u.wid = lrWid l.words g.num i j ∧ u.preds = 0 ∧ u.chain = [] ∧ u.sig = 0 ∧ u.pend = []
          ∧ u.pc = vaOf (lrEpc l.words (lrRoleOf l.words i))
          ∧ ∀ n, u.reg n = if n < 8 then l.args.getD n 0 else if n < 16 then lrCarg l.words (n - 8) else 0)
  ∧ (∀ s gk g d c arc tw, Map.find s.gangs gk = some g → g.st = .phase → s.nextServed = some gk →
    s.placeFor g = some (d, c, arc, tw) → arc.length = (g.groups.filter (s.returns g)).length →
    ∃ t g', Gives (.phaseAdmission gk) s t ∧ Map.find t.gangs gk = some g' ∧ g'.st = .resident ∧ g'.die = d
      ∧ (∀ k ∈ g.groups, s.returns g k = true → ∃ r, Map.find t.groups k = some r ∧ r.st = .resident)
      ∧ ∀ n u, Map.find s.threads n = some u → ∃ u', Map.find t.threads n = some u'
        ∧ u' = { u with place := u'.place, pc := u'.pc })
  ∧ (∀ s c k, s.throttleNew c = some k → ∃ t, Gives (.admissionThrottle c) s t ∧ t.throttleNew c ≠ some k
    ∧ (Map.get t.rep.counters 0 0x0FD).toNat = min (2 ^ 32 - 1) ((Map.get s.rep.counters 0 0x0FD).toNat + 1)
    ∧ SameThreads s t ∧ SameMemory s t)
  ∧ (∀ s c i b e, (s.core c).bins[i]? = some b → b.tids.head? = some e → e.2 + 64 ≤ s.tick → b.next ≤ s.tick →
    ∃ t, Gives (.binAgeRelease c i) s t ∧ WaveFormed s t c b.gid b.pc ((b.tids.take 32).map Prod.fst)
      ∧ (t.core c).bins = (s.core c).bins.take i
          ++ (if b.tids.length ≤ 32 then [] else [{ b with tids := b.tids.drop 32, next := s.tick + 1 }]) ++ (s.core c).bins.drop (i + 1))
  ∧ ∀ s gk g, Map.find s.gangs gk = some g → s.wantsCore g = true → g.class7 = false →
      g.since + sliceOf (s.classOf g) ≤ s.tick → ∃ t, Gives (.waitingWorkClass7 gk) s t
        ∧ Map.find t.gangs gk = some { g with class7 := true } ∧ t = { s with gangs := t.gangs }

/-- spec 11, R302, R303, R313 to R316; spec 09, R266. A gang whose time slice has ended is asked to leave its core
(`timeSliceEnd`); a gang that cannot be placed asks for waves of lower classes only (`preemptionRequest`); after 256
cycles a run that cannot issue is cut (`drainCut`); what has drained is saved whole, with its matrix engine
(`evictionSave`); and the evicted wave of the highest class that fits comes back (`waveRestore`). What is saved here is at work in no macro-instruction
and no stream, and its cluster does not migrate. (Which agent moves
next is the model's own order: log 1; readings of PECLASS: log 42.) -/
def Obligations.Preemption : Prop :=
  let still (s : State) : Prop := ∀ e ∈ s.waves, ∀ fr ∈ e.2.frags, ∀ wt, fr.st = .wait wt →
    macOp wt.instr = none ∧ streamForm wt.instr = none
  (∀ s gk g k r, Map.find s.gangs gk = some g → g.st = .resident → g.since + sliceOf (s.classOf g) ≤ s.tick →
    g.groups.any s.inRegion = false → (∃ e ∈ s.gangs, e.1 ≠ gk ∧ s.waitsFor (s.classOf g) g.die (s.peclassOf g) e.2 = true) →
    g.groups.filterMap (Map.find s.groups) = r :: k → (s.core r.core).drain = none →
    ∃ t d, Gives (.timeSliceEnd gk) s t ∧ (t.core r.core).drain = some d ∧ d.start = s.tick ∧ d.whole = [gk] ∧ d.waves = []
      ∧ ((∀ e ∈ s.waves, ∀ fr ∈ e.2.frags, fr.st = .ready) → SameThreads s t
        ∧ ∀ w ∈ s.gangWaves gk, ∀ v, Map.find t.waves w = some v → v.draining = true))
  ∧ (∀ (s : State) gk g l c n p, let q := s.refusedPlace gk
    Map.find q.gangs gk = some g → q.wantsCore g = true → q.placeFor g = none →
    (∀ e ∈ q.cores, ∀ d, e.2.drain = some d → ∀ k ∈ d.keeps, k.lid = g.lid → k.num = g.num → d.pending k = false) →
    Map.find q.launches g.lid = some l →
    let t₀ := q.requestServed g
    (t₀.clusterOrder (if g.st = .waiting then [0, 1] else [g.die])).findSome? (fun e => t₀.planCluster (t₀.classOf g) e.1 e.2
      (lrPack l.words) (lrPaired l.words) (if g.st = .waiting then firstNeeds l else t₀.laterNeeds g)) = some [(c, n)] →
    t₀.planCore (t₀.classOf g) c n = some p →
    ∃ t d, Gives (.preemptionRequest gk) s t ∧ (t.core c).drain = some d
      ∧ (∃ k ∈ d.keeps, k.lid = g.lid ∧ k.num = g.num ∧ k.need = n ∧ k.waves = p.waves ∧ k.whole = p.whole)
      ∧ (∀ w ∈ p.waves, w ∈ d.waves) ∧ (∀ k ∈ p.whole, k ∈ d.whole)
      ∧ ((t₀.core c).drain = none → d.start = s.tick ∧ d.waves = p.waves ∧ d.whole = p.whole))
  ∧ (∀ (s : State) cls c n p, s.planCore cls c n = some p →
    (∀ w ∈ p.waves, ∃ e ∈ s.groups, w ∈ s.groupWaves e.1 ∧ s.mayEvict cls e.2 = true)
    ∧ (∀ k ∈ p.whole, ∃ e ∈ s.groups, e.2.gang = k ∧ s.mayEvict cls e.2 = true))
  ∧ (∀ (s : State) cls g, s.mayEvict cls g = true ↔ g.st = .resident ∧ g.noPre = none
    ∧ ∃ q, Map.find s.gangs g.gang = some q ∧ s.classOf q < cls
      ∧ (s.peclassOf q = 0 ∨ s.peclassOf q = 1 ∧ 6 ≤ cls))
  ∧ (∀ s c d w, (s.core c).drain = some d → d.start + 256 ≤ s.tick → d.move = false → s.drainedBy d = [w] → s.runOpen w = true →
    s.pickFrag w = none → ∃ t, Gives (.drainCut c) s t ∧ t.runOpen w = false ∧ t = { s with cores := t.cores })
  ∧ (∀ s c d, (s.core c).drain = some d → d.move = false → Map.find s.mgmt.moving (dieOf c) = none → still s → d.whole = [] →
    ∃ t, Gives (.evictionSave c) s t ∧ SameThreads s t ∧ (Settled s → SameMemory s t)
    ∧ (∀ w v, Map.find s.waves w = some v → w ∈ d.waves → s.waveQuiet w = true →
        Map.find t.waves w = some { v with resident := false, draining := false }
        ∧ ∀ k, ∀ e ∈ (t.core k).l1, e.gid = v.gid → e.dirty = [])
    ∧ ∀ w, (w ∉ d.waves ∨ s.waveQuiet w = false) → Map.find t.waves w = Map.find s.waves w)
  ∧ (∀ s c d gk g, (s.core c).drain = some d → d.move = false → Map.find s.mgmt.moving (dieOf c) = none → still s →
    d.waves = [] → d.whole = [gk] → Map.find s.gangs gk = some g →
    s.gangQuiet gk = true → ∃ t g', Gives (.evictionSave c) s t ∧ SameThreads s t ∧ (Settled s → SameMemory s t)
      ∧ Map.find t.gangs gk = some g'
      ∧ g'.st = (match Map.find s.rep.halting gk with | some id => .halted id | none => .saved)
      ∧ Map.find t.rep.halting gk = none
      ∧ (∀ k ∈ g.groups, ∀ r, Map.find s.groups k = some r → (r.st = .resident ∨ r.st = .spilled) →
        ∃ r', Map.find t.groups k = some r' ∧ r'.st = .saved ∧ (t.core r.core).eng.owner ≠ some k
          ∧ (∀ n, ∀ e ∈ (t.core n).l1, e.gid = k → e.dirty = [])
          ∧ r'.savedEng = (if (s.core r.core).eng.owner = some k then some (s.core r.core).eng else none))
      ∧ ∀ w v, Map.find t.waves w = some v → v.gid ∈ g.groups → (∃ r, Map.find s.groups v.gid = some r ∧ r.st = .resident) →
        v.resident = false)
  ∧ ∀ s c, (s.core c).drain = none → s.restorable c ≠ [] → ∃ t, ∃ e ∈ s.restorable c, Gives (.waveRestore c) s t
      ∧ (∀ f ∈ s.restorable c, s.waveClass f.2 ≤ s.waveClass e.2)
      ∧ Map.find t.waves e.1 = (Map.find s.waves e.1).map (fun v => { v with resident := true, entry := s.freeEntry c })
      ∧ (∀ w, w ≠ e.1 → Map.find t.waves w = Map.find s.waves w) ∧ t = { s with waves := t.waves }

/-! ### Answers to faults, and what passes between the device and its hosts -/

/-- spec 20, R461, R462, R463. A response word resumes what is parked on the record it names, or, as a fatal answer or
after the timeout, gives it the record's cause; a word that names none, or with a reserved field, does nothing. A
remote access that is refused ends, and its cause arises asynchronously. spec 04, R97 to R99. One visit of a running
sweeper: an entry that is not to be swept changes nothing but the cursor; the entry of a descriptor in memory has its
A bit cleared and its age counted, and is queued once it is cold. -/
def Obligations.FaultsAndSweeping : Prop :=
  ((∀ s f w k r, s.mmu.resps.find? (fun p => p.1 == f) = some (f, w) → s.recOfFid f (bits w.toNat 31 0) = some (k, r) →
    w.toNat < 2 ^ 34 → bits w.toNat 33 32 = 0 → ∃ t, Gives (.faultResponse f) s t ∧ SameThreads s t ∧ SameMemory s t
      ∧ Map.find t.mmu.recs k = none ∧ (∀ j, j ≠ k → Map.find t.mmu.recs j = Map.find s.mmu.recs j)
      ∧ t.mmu.resps = s.mmu.resps.erase (f, w)
      ∧ (∀ v i fr, s.frag v i = some fr → t.frag v i = some (if fr.parkedOn k then { fr with st := .ready } else fr))
      ∧ ∀ c, ∀ q ∈ (t.core c).copyq, q.parked ≠ some k)
  ∧ (∀ s f w, s.mmu.resps.find? (fun p => p.1 == f) = some (f, w) →
    (s.recOfFid f (bits w.toNat 31 0) = none ∨ 2 ^ 34 ≤ w.toNat ∨ 1 < bits w.toNat 33 32) →
    Gives (.faultResponse f) s { s with mmu := { s.mmu with resps := s.mmu.resps.erase (f, w) } })
  ∧ (∀ s f w k r wv v fr g, s.mmu.resps.find? (fun p => p.1 == f) = some (f, w) →
    s.recOfFid f (bits w.toNat 31 0) = some (k, r) → w.toNat < 2 ^ 34 → bits w.toNat 33 32 = 1 →
    s.waves = [(wv, v)] → v.frags = [fr] → fr.parkedOn k = true → fr.mask ≠ 0 → fr.hnd = false → v.handler = none →
    Map.find s.groups v.gid = some g → hvecOk g.hvec = true → (∀ c ∈ s.cores, c.2.copyq = []) →
    ∃ t u h, Gives (.faultResponse f) s t ∧ SameThreads s t ∧ SameMemory s t ∧ Map.find t.mmu.recs k = none
      ∧ Map.find t.waves wv = some u ∧ u.handler = some h ∧ h.code = (if r.fetch then 0x02D else r.code) ∧ h.fault = fr.mask
      ∧ h.epc = fr.pc ∧ h.async = false)
  ∧ (∀ s f n k r, s.recOfFid f n = some (k, r) →
    (r.tmo ≠ 0 → r.written + r.tmo * 1750000 ≤ s.tick → ∃ t, Gives (.faultTmoExpiry f n) s t ∧ (t.fblock f).tmohit = true
      ∧ Map.find t.mmu.recs k = none)
    ∧ ((r.tmo = 0 ∨ s.tick < r.written + r.tmo * 1750000) → Gives (.faultTmoExpiry f n) s s))
  ∧ ∀ s key f a p k w l v u, Map.find s.flights key = some f → f.instr = .ld a → f.parts = [p] → p.loc.remote = true →
      p.tid = k → s.mayPerform f = true → Map.find s.threads k = some u → u.place = some (w, l) →
      Map.find s.waves w = some v → v.asyncs.length < 4 →
      ∃ t, Gives (.remoteAccessTimeout key true) s t ∧ Map.find t.flights key = none
        ∧ Map.find t.waves w = some { v with asyncs := v.asyncs ++ [{ code := 0x098, tids := [k], addr := BitVec.ofNat 64 p.addr }] })
  ∧ ((∀ s b, (2 ≤ b ∨ (s.sweeper b).ctl.getLsbD 0 = false ∨ (s.sweeper b).tcount = 0
      ∨ s.tick < (s.sweeper b).lastVisit + bits (s.sweeper b).ctl.toNat 31 16) → Gives (.sweeperVisit b) s s)
  ∧ ∀ s b, b < 2 →
    let w := s.sweeper b
    let a := w.tbase.toNat + 16 * w.cursor.toNat
    let lo := s.peekNat a 8
    let hi := s.peekNat (a + 8) 8
    let desc := bits hi 51 0
    let age := if descA (s.peekNat desc 8) then 0 else min (bits lo 7 4 + 1) 15
    let cold := decide (bits w.ctl.toNat 7 4 ≤ age)
    let slot := w.qbase.toNat + 8 * (w.qtail.toNat % w.qsize.toNat)
    w.ctl.getLsbD 0 = true → w.tcount ≠ 0 → w.lastVisit + bits w.ctl.toNat 31 16 ≤ s.tick → (w.running = true ∨ w.ready < w.low) →
    w.ready < w.high → w.ready < w.qsize.toNat → w.note.getLsbD 16 = false →
    (lo.testBit 0 = false → lo < 2 → ∃ t, Gives (.sweeperVisit b) s t ∧ SameMemory s t
      ∧ (t.sweeper b).cursor.toNat = (w.cursor.toNat + 1) % w.tcount.toNat ∧ (t.sweeper b).qtail = w.qtail)
    ∧ (lo.testBit 0 = true → lo < 256 → lo.testBit 1 = false → lo.testBit 2 = false → lo.testBit 3 = false → desc % 8 = 0 →
      s.isMem desc = true → s.poisoned desc 8 = false → (desc + 8 ≤ a ∨ a + 8 ≤ desc) → (slot + 8 ≤ a ∨ a + 8 ≤ slot) →
      (slot + 8 ≤ desc ∨ desc + 8 ≤ slot) →
      ∃ t, Gives (.sweeperVisit b) s t ∧ (t.sweeper b).cursor.toNat = (w.cursor.toNat + 1) % w.tcount.toNat
        ∧ descA (t.peekNat desc 8) = false
        ∧ t.peekNat desc 8 = s.peekNat desc 8 - (if descA (s.peekNat desc 8) then 4 else 0)
        ∧ t.peekNat a 8 = age * 16 + (if cold then 8 else 0) + 1
        ∧ (∀ e ∈ t.mmu.tlb, (e.leaf1 = desc ∨ e.leaf2 = desc) → e.aSet = false)
        ∧ (cold = true → (t.sweeper b).qtail = w.qtail + 1 ∧ t.peekNat slot 8 = w.cursor.toNat % 2 ^ 40)
        ∧ (cold = false → (t.sweeper b).qtail = w.qtail)))

/-- spec 13, R339, R340, R346, R350, R355; spec 20, R461, R467, R468; spec 19, R431, R438. A frame goes to the function
whose MAC and VLAN match; the requests of a QP are served in order: a WRITE writes memory through its rkey, a READ
returns it with what the L1s hold of it, a notify write moves a queue's tail, a fault-response write adds a response, and what may not be done is
answered with a NAK; a WRITE whose PSN is past the one that is due is refused once with a sequence NAK, and one that came before
is acknowledged without effect, while a READ that came before is answered again; an acknowledgement ends the requests it covers;
what is not acknowledged in time is sent again, in order; a QP whose retries have run out fails; a link goes down. What is sent
leaves the device while its links are up. (The NAK codes are readings: log 42; the timeout: log 58; the sequence: log 67.) -/
def Obligations.HostMessages : Prop :=
  let sends (s t : State) (l : List OutMsg) : Prop :=
    s.host.portsUp = 15#4 → t.host.outbox.map (·.msg) = s.host.outbox.map (·.msg) ++ l
  let taken (s : State) (r : Inbound) (due : Bool) : State := { s with host := { s.host with
    inbox := s.host.inbox.erase r,
    gapped := if due then s.host.gapped.filter (· != r.func * 4096 + r.qp) else s.host.gapped } }
  let asks (s : State) (r : Inbound) : Prop := s.headRequest r.func r.qp = some r ∧ r.func ∉ s.host.frst
    ∧ s.qpAccepts r.func r.qp = true
  let due (s : State) (f j : Nat) (q : RdmaReq) (h : State) : Prop :=
    asks s ⟨f, j, s.recvPsn f j, q⟩ ∧ h = taken s ⟨f, j, s.recvPsn f j, q⟩ true
  (∀ s fr, (4 ≤ fr.port ∨ s.host.portsUp.getLsbD fr.port = false) → Gives (.ethernetFrame fr) s s)
  ∧ (∀ s fr, fr.port < 4 → s.host.portsUp.getLsbD fr.port = true →
    ((∀ f, f < 64 → s.frameFor fr f = false) →
      Gives (.ethernetFrame fr) s { s with host := { s.host with dropped := s.host.dropped + 1 } })
    ∧ ∀ f j, f < 64 → s.frameFor fr f = true → (∀ g, g < f → s.frameFor fr g = false) → fr.qpn = f * 4096 + j → j < 4096 →
      j < s.qpCount f → (s.qpState f j = 2 ∨ s.qpState f j = 3) →
      (∀ psn, fr.req = .ack psn → ∃ t, Gives (.ethernetFrame fr) s t
        ∧ (∀ e, e ∈ t.host.sent ↔ e ∈ s.host.sent ∧ ¬ (e.func = f ∧ e.qp = j ∧ e.out = true ∧ psnLe e.last psn = true))
        ∧ Map.get t.host.retries 0 (f * 4096 + j) = 0
        ∧ t = { s with host := { s.host with sent := t.host.sent, retries := t.host.retries } })
      ∧ ((∀ psn, fr.req ≠ .ack psn) → (∀ psn b, fr.req ≠ .nak psn b) →
        Gives (.ethernetFrame fr) s { s with host := { s.host with inbox := s.host.inbox ++ [{ func := f, qp := j, psn := fr.psn % 2 ^ 24, req := fr.req }] } }))
  ∧ (∀ s f j k va d h, due s f j (.write k va d) h → (k < 2 ^ 31 ∨ 0x80000100 < k) →
    (∀ q, h.rdmaRange f k .write va d.length = (none, q) → ∃ t, Gives (.rdmaWrite f j) s t ∧ t.mem = q.mem
      ∧ sends s t [.nakAccess (f * 4096 + j)])
    ∧ ∀ q pa, h.rdmaRange f k .write va d.length = (some [(.mem pa, d.length)], q) →
      (pa + d.length ≤ h.qpAddr f j ∨ h.qpAddr f j + 64 ≤ pa) →
      ∃ t, Gives (.rdmaWrite f j) s t ∧ sends s t [.ack (f * 4096 + j)]
        ∧ t.peek pa d.length = d)
  ∧ (∀ s f j k va d psn, asks s ⟨f, j, psn, .write k va d⟩ → (k < 2 ^ 31 ∨ 0x80000100 < k) → psn ≠ s.recvPsn f j →
    (psnLe (s.recvPsn f j) psn = true → f * 4096 + j ∈ s.host.gapped →
      Gives (.rdmaWrite f j) s (taken s ⟨f, j, psn, .write k va d⟩ false))
    ∧ (psnLe (s.recvPsn f j) psn = true → f * 4096 + j ∉ s.host.gapped → ∃ t, Gives (.rdmaWrite f j) s t ∧ t.mem = s.mem
      ∧ f * 4096 + j ∈ t.host.gapped ∧ sends s t [.nakSequence (f * 4096 + j)])
    ∧ (psnLe (s.recvPsn f j) psn = false → ∃ t, Gives (.rdmaWrite f j) s t ∧ t.mem = s.mem
      ∧ sends s t [.ack (f * 4096 + j)]))
  ∧ (∀ s f j k va n psn h, asks s ⟨f, j, psn, .read k va n⟩ →
    (psn = s.recvPsn f j ∧ h = taken s ⟨f, j, psn, .read k va n⟩ true
      ∨ psnLe (s.recvPsn f j) psn = false ∧ h = taken s ⟨f, j, psn, .read k va n⟩ false) →
    (∀ q, h.rdmaRange f k .read va n = (none, q) → ∃ t, Gives (.rdmaRead f j) s t ∧ t.mem = q.mem
      ∧ sends s t [.nakAccess (f * 4096 + j)])
    ∧ ∀ q pa, h.rdmaRange f k .read va n = (some [(.mem pa, n)], q) →
      ((q.gather (.mem pa) n).poisonAt none (.mem pa) n = none → ∃ t, Gives (.rdmaRead f j) s t
        ∧ sends s t [.readResp (f * 4096 + j) ((q.gather (.mem pa) n).peek pa n)])
      ∧ ((q.gather (.mem pa) n).poisonAt none (.mem pa) n ≠ none → ∃ t m, Gives (.rdmaRead f j) s t
        ∧ (s.host.portsUp = 15#4 → t.host.outbox.map (·.msg) = m ++ [.nakOperational (f * 4096 + j)])))
  ∧ (∀ s f j k d h, due s f j (.write 0x80000100 k d) h →
    (k = 0 → d.length = 8 → ∃ t, Gives (.rdmaFaultResponseWrite f j) s t
      ∧ t.mmu.resps = s.mmu.resps ++ [(f, BitVec.ofNat 64 (ofBytes d))]
      ∧ sends s t [.ack (f * 4096 + j)])
    ∧ ((k ≠ 0 ∨ d.length ≠ 8) → ∃ t, Gives (.rdmaFaultResponseWrite f j) s t ∧ t.mmu.resps = s.mmu.resps
      ∧ sends s t [.nakAccess (f * 4096 + j)]))
  ∧ (∀ s f j k va d h, due s f j (.write k va d) h → 0x80000000 ≤ k → k < 0x80000100 →
    let w := h.iface f (k - 0x80000000)
    ((va % 8 ≠ 0 ∨ d.length % 8 ≠ 0 ∨ 4096 < va + d.length ∨ ifaceOn w = false) → ∃ t, Gives (.rdmaNotifyWrite f j) s t
      ∧ t.mem = s.mem ∧ sends s t [.nakAccess (f * 4096 + j)])
    ∧ (va % 8 = 0 → d.length = 8 → va < 4096 → ifaceOn w = true → va / 8 ≤ ifaceLast w →
      Gives (.rdmaNotifyWrite f j) s ((h.notifyWord f (ifaceFirst w + va / 8) (ofBytes d)).ackWrite f j 8)))
  ∧ (∀ (s : State) f q w, (s.tailOk f q w = true → (s.notifyWord f q w).queueTail f q = w
      ∧ f * 2048 + q ∉ (s.notifyWord f q w).host.stalled)
    ∧ (s.tailOk f q w = false → bits ((s.notifyWord f q w).queueWord f q 3) 15 0 = min (bits (s.queueWord f q 3) 15 0 + 1) 0xFFFF
      ∧ (s.notifyWord f q w).queueTail f q = s.queueTail f q))
  ∧ (∀ s f j n h, due s f j (.other n) h →
    ∃ t, Gives (.rdmaUnsupported f j) s t ∧ t.mem = s.mem ∧ sends s t [.nakUnsupported (f * 4096 + j)])
  ∧ (∀ s f j, s.qpState f j = 3 → s.qpLate f j = true → Map.get s.host.retries 0 (f * 4096 + j) < s.qpRetry f j →
    ∃ t, Gives (.qpRetransmitTimeout f j) s t ∧ sends s t ((s.unackedOf f j).map (·.msg)) ∧ t.mem = s.mem
      ∧ t.host.sent.map (·.psn) = s.host.sent.map (·.psn)
      ∧ Map.get t.host.retries 0 (f * 4096 + j) = Map.get s.host.retries 0 (f * 4096 + j) + 1)
  ∧ (∀ s f j, (s.qpState f j ≠ 3 ∨ s.qpLate f j = false) →
      Gives (.qpRetransmitTimeout f j) s s ∧ Gives (.qpRetryExceeded f j) s s)
  ∧ (∀ s f j, s.qpState f j = 3 → s.qpLate f j = true → s.qpRetry f j ≤ Map.get s.host.retries 0 (f * 4096 + j) →
    ∃ (q : State) (e : ErrInfo), e.cause = 0x16C ∧ e.func = f
      ∧ Gives (.qpRetryExceeded f j) s ((q.setQpState f j 4).hostReport e)
      ∧ q = { s with host := { s.host with retries := q.host.retries, sent := q.host.sent } }
      ∧ Map.get q.host.retries 0 (f * 4096 + j) = 0
      ∧ ∀ e ∈ q.host.sent, e.func = f → e.qp = j → e.out = false)
  ∧ ∀ s p, p < 4 → s.host.portsUp.getLsbD p = true → ∃ t, Gives (.hostPortLinkDown p) s t
      ∧ (∀ i, i < 4 → t.host.portsUp.getLsbD i = (i != p && s.host.portsUp.getLsbD i))
      ∧ (Map.get t.rep.counters 0 0x16F).toNat = min (2 ^ 32 - 1) ((Map.get s.rep.counters 0 0x16F).toNat + 1)

/-! ### Registers, and the device's own engines -/

/-- spec 13, R341; spec 04, R98; spec 14, R358; spec 19, R435 to R438, R442; spec 20, R458, R461. What writes of registers
by PF system software do: a function is enabled only with a well-formed entry and no MAC clash, a reset starts and
mutes the function, a region opens or begins to seal, a domain begins to end, a halted gang is queued again, sweepers
and fault queues take only values that R98 and R458 allow, flags and counters clear, ports retrain, the power cap is
clamped. (The widths of register accesses are the model's choice: log 18.) -/
def Obligations.RegisterWrites : Prop :=
  (∀ s f w (v : W64), f < 64 → 1 ≤ w → w < 8 → ∃ t, Gives (.functionTableWrite f w v) s t
    ∧ (∀ i, i < 512 → t.ftWord (i / 8) (i % 8) = if i = 8 * f + w then v.toNat else s.ftWord (i / 8) (i % 8))
    ∧ t = { s with host := { s.host with ftab := t.host.ftab } })
  ∧ (∀ s f (v : W64), f < 64 → v.getLsbD 62 = false →
    let h : State := { s with host := { s.host with ftab := Map.putD s.host.ftab 0 (8 * f) (BitVec.ofNat 64 (v.toNat % 2 ^ 62)) } }
    ∃ t, Gives (.functionTableWrite f 0 v) s t
      ∧ t.ftWord f 0 = (if v.getLsbD 63 = true ∧ h.ftReserved f = false ∧ h.macClash f = false then v.toNat else v.toNat % 2 ^ 62)
      ∧ t.host.frst = s.host.frst)
  ∧ (∀ s f, f < 64 → (s.ftWord f 0).testBit 62 = false → f ∉ s.host.frst → ∃ t, Gives (.frst f) s t
    ∧ f ∈ t.host.frst ∧ f ∈ t.host.muted ∧ SameThreads s t ∧ SameMemory s t)
  ∧ (∀ s f, f ∈ s.host.frst → ∃ t, Gives (.functionResetDone f) s t ∧ f ∉ t.host.frst
    ∧ (∀ p ∈ t.host.peerq, p.func ≠ f) ∧ (∀ k ∈ t.host.stalled, k / 2048 ≠ f)
    ∧ ∀ e ∈ t.mmu.recs, e.2.func = f → e.2.fid ≠ none)
  ∧ (∀ s n (v : W64), n < 64 → ∃ t r, Gives (.regionSealWrite n v) s t ∧ t.region n = r ∧ r.domain = bits v.toNat 11 0
    ∧ r.isSealed = ((s.region n).isSealed && v.getLsbD 63) ∧ r.sealing = (v.getLsbD 63 && !(s.region n).isSealed)
    ∧ (∀ m, m ≠ n → t.region m = s.region m) ∧ SameMemory s t)
  ∧ (∀ s n, (s.region n).sealing = true → (∀ c ∈ s.cores, ∀ q ∈ c.2.copyq, n ∉ q.regions) → ∃ t, Gives (.wsSealEffect n) s t
    ∧ (t.region n).isSealed = true ∧ (t.region n).sealing = false ∧ (t.region n).domain = (s.region n).domain)
  ∧ (∀ s (v : W64), s.rep.domend.getLsbD 63 = false → ∃ t, Gives (.domend v) s t
    ∧ (∀ d, d ∈ t.rep.ending ↔ d ∈ s.rep.ending ∨ v.getLsbD 63 = true ∧ d = bits v.toNat 11 0 ∧ d ≠ 0)
    ∧ t.rep.domend.toNat = bits v.toNat 11 0 + (if v.getLsbD 63 = true ∧ bits v.toNat 11 0 ≠ 0 then 2 ^ 63 else 0))
  ∧ (∀ s (v : W64), s.rep.domend.getLsbD 63 = true → Gives (.domend v) s s)
  ∧ (∀ s d r, s.rep.ending = d :: r → d ≠ 0 → ∃ t, Gives .domainEndingDone s t ∧ t.rep.ending = r
    ∧ (∀ e ∈ t.mmu.tlb, e.domain ≠ d) ∧ (∀ e ∈ t.launches, e.2.domain = d → e.2.ended = true)
    ∧ (bits s.rep.domend.toNat 11 0 = d → t.rep.domend.getLsbD 63 = false))
  ∧ (∀ s (v : W64), v.getLsbD 63 = true → ∃ t, Gives (.haltrel v) s t ∧ ∀ k g, Map.find s.gangs k = some g →
    Map.find t.gangs k = some (if g.st = .halted (bits v.toNat 15 0) then { g with st := .saved, since := s.tick } else g))
  ∧ (∀ s b (v : W64), b < 2 → ∃ t, Gives (.fswCtlWrite b v) s t ∧ t = { s with fsw := t.fsw }
    ∧ t.sweeper b = { s.sweeper b with ctl := (t.sweeper b).ctl }
    ∧ ((t.sweeper b).ctl.getLsbD 0 = true ↔ v.getLsbD 0 = true ∧ bits v.toNat 2 1 ≠ 3 ∧ bits v.toNat 7 4 ≠ 0
      ∧ (s.sweeper b).low < (s.sweeper b).high))
  ∧ (∀ s b (v : W64), b < 2 → ∃ t, Gives (.fswStatClear b v) s t ∧ t = { s with fsw := t.fsw }
    ∧ t.sweeper b = { s.sweeper b with dry := (s.sweeper b).dry && !v.getLsbD 0
                                       badent := (s.sweeper b).badent && !v.getLsbD 1 })
  ∧ (∀ s f (v : W64), f < 64 → ∃ t, Gives (.fqctlWrite f v) s t ∧ t.fblock f = { s.fblock f with ctl := (t.fblock f).ctl }
    ∧ ((t.fblock f).ctl.getLsbD 63 = true ↔ v.getLsbD 63 = true ∧ 4 ≤ bits v.toNat 4 0 ∧ bits v.toNat 4 0 ≤ 12)
    ∧ bits (t.fblock f).ctl.toNat 51 12 = bits v.toNat 51 12 ∧ bits (t.fblock f).ctl.toNat 4 0 = bits v.toNat 4 0)
  ∧ (∀ s f (v : W64), f < 64 → Gives (.fqrespWrite f v) s { s with mmu := { s.mmu with resps := s.mmu.resps ++ [(f, v)] } })
  ∧ (∀ s f (v : W64), f < 64 → ∃ t, Gives (.fqstatClear f v) s t ∧ t.fblock f = { s.fblock f with
    held := (s.fblock f).held && !v.getLsbD 0, tmohit := (s.fblock f).tmohit && !v.getLsbD 1 })
  ∧ (∀ s c, c < 512 → ∃ t, Gives (.counterClear (regBase + 0x481000 + 4 * c)) s t
    ∧ ∀ n, Map.get t.rep.counters 0 n = if n = c then 0 else Map.get s.rep.counters 0 n)
  ∧ (∀ s p, p < 18 → ∃ t, Gives (.fpctlRetrain p) s t ∧ t.fport p = { s.fport p with training := true })
  ∧ (∀ s (v : W64), ∃ t, Gives (.pwrcapWrite v) s t ∧ t.mgmt.pwrcap.toNat = max 1200 (min 2400 (bits v.toNat 11 0)))
  ∧ (∀ s (v : W64), Gives (.mrreadWrite v) s { s with mgmt := { s.mgmt with mrsel := bits v.toNat 5 3 * 4 + bits v.toNat 1 0 } })
  ∧ (∀ s f q w (v : W64), f < 64 → q < 2048 → w < 4 → ∃ t, Gives (.queueEntryWrite f q w v) s t ∧ t.queueWord f q w = v.toNat
    ∧ SameThreads s t)
  ∧ (∀ s (v : W64), ∃ t, Gives (.registerWrite (regBase + 0x440008) v) s t ∧ t.host.csp0 = v
    ∧ t.regWord 0x440008 = v ∧ t = { s with host := { s.host with csp0 := v } })
  ∧ ∀ s a (v : W64), (a < regBase ∨ regBase + regSize ≤ a) → Gives (.registerWrite a v) s s

/-- spec 19, R444, R445, R451 to R455; spec 11, R318; spec 04, R95. Spares: a late transition takes one cycle more and is
counted; a window of 64 replays raises a cluster's margin; a round begins the migration of the cluster tested longest ago, or
is put off four times for a region; a core that has drained hands over to the next, and after the eighth the clusters change
their roles; a test passes or retires a cluster; a failed channel of HBM4 has one spare; a worn bank of the
weight store four. -/
def Obligations.Spares : Prop :=
  let idle (s : State) : Prop := ∀ e ∈ s.waves, ∀ fr ∈ e.2.frags, ∀ wt, fr.st = .wait wt →
    macOp wt.instr = none ∧ streamForm wt.instr = none
  let moves (t : State) (c : Nat) : Prop := ∃ d, (t.core c).drain = some d ∧ d.move = true
  (∀ s c sl, sl < 4 → ∃ t, Gives (.lateTransition c sl) s t ∧ t.tick = s.tick + 1
    ∧ (Map.get t.rep.counters 0 0x158).toNat = min (2 ^ 32 - 1) ((Map.get s.rep.counters 0 0x158).toNat + 1)
    ∧ t = { s with tick := t.tick, rep := { s.rep with counters := t.rep.counters },
                   mgmt := { s.mgmt with clusters := t.mgmt.clusters } })
  ∧ (∀ s d, (s.tick / 1750000 ≤ Map.get s.mgmt.windows 0 d → Gives (.replayWindow d) s s)
    ∧ (Map.get s.mgmt.windows 0 d < s.tick / 1750000 → d < 2 → ∃ t, Gives (.replayWindow d) s t
      ∧ ∀ n, n < 19 → t.cluster d n = (s.cluster d n).window s.tick))
  ∧ (∀ (c : Cluster) τ, (c.window τ).replays = 0 ∧ (c.window τ).role = c.role
    ∧ (64 ≤ c.replays → c.margin < 4 → (c.window τ).margin = c.margin + 1)
    ∧ (64 ≤ c.replays → 4 ≤ c.margin → (c.window τ).margin = c.margin ∧ τ ∈ (c.window τ).hotWindows)
    ∧ (c.replays < 64 → (c.window τ).margin = if 0 < c.margin ∧ c.calm + 151200000000000 ≤ τ then c.margin - 1 else c.margin))
  ∧ (∀ s d n, d < 2 → s.clusterIn d (· == .cupping false) = some n →
    (∃ t, Gives (.cuppingTestDone d true) s t ∧ (t.cluster d n).role = .cupping true ∧ (t.cluster d n).tested = s.tick)
    ∧ ∃ t, Gives (.cuppingTestDone d false) s t ∧ (t.cluster d n).role = .failed
      ∧ (Map.get t.rep.counters 0 0x15B).toNat = min (2 ^ 32 - 1) ((Map.get s.rep.counters 0 0x15B).toNat + 1))
  ∧ (∀ s d q p l, s.mgmt.stopped = false → d < 2 → Map.get s.mgmt.rounds 0 d < s.roundsDue d → Map.find s.mgmt.moving d = none →
    s.clusterIn d ClusterRole.passed = some q → s.roundChoice d = some (p, l) → q ≠ p → q < 32 → p < 32 → idle s →
    ((s.regionsOn d l = [] ∨ 4 ≤ Map.get s.mgmt.skips 0 (d * 32 + p)) → ∃ t m, Gives (.rotationRound d) s t
      ∧ Map.find t.mgmt.moving d = some m ∧ m.logical = l ∧ m.source = p ∧ m.target = some q ∧ m.core = 0
      ∧ (t.cluster d q).role = .target ∧ (t.cluster d p).role = (s.cluster d p).role ∧ SameThreads s t ∧ SameMemory s t
      ∧ moves t (clusterBase d l) ∧ (∀ w ∈ s.wavesOn (clusterBase d l), ∀ v, Map.find t.waves w = some v → v.draining = true)
      ∧ ∀ e ∈ s.regionsOn d l, ∀ g, Map.find t.groups e.1 = some g → g.noPre = none)
    ∧ (s.regionsOn d l ≠ [] → Map.get s.mgmt.skips 0 (d * 32 + p) < 4 → ∃ t, Gives (.rotationRound d) s t
      ∧ Map.get t.mgmt.skips 0 (d * 32 + p) = Map.get s.mgmt.skips 0 (d * 32 + p) + 1 ∧ t.mgmt.clusters = s.mgmt.clusters
      ∧ (Map.get t.rep.counters 0 0x179).toNat = min (2 ^ 32 - 1) ((Map.get s.rep.counters 0 0x179).toNat + 1)))
  ∧ (∀ s c m q dr, Map.find s.mgmt.moving (dieOf c) = some m → m.target = some q → q ≠ m.source → q < 32 → m.source < 32 →
    c = clusterBase (dieOf c) m.logical + m.core → (s.core c).drain = some dr → dr.move = true → idle s → s.coreQuiet c = true →
    let emptied (t : State) : Prop := (t.core c).l1 = [] ∧ (t.core c).icache = [] ∧ (t.core c).pages = []
      ∧ ((s.core c).pages = [] → Settled s → SameMemory s t)
    (m.core < 7 → ∃ t, Gives (.evictionSave c) s t ∧ Map.find t.mgmt.moving (dieOf c) = some { m with core := m.core + 1 }
      ∧ moves t (c + 1) ∧ t.mgmt.clusters = s.mgmt.clusters ∧ SameThreads s t ∧ emptied t
      ∧ ∀ w ∈ s.wavesOn c, w ∉ s.drainedBy dr → ∀ v, Map.find t.waves w = some v → v.draining = false)
    ∧ (7 ≤ m.core → m.retire = false → ∃ t, Gives (.evictionSave c) s t ∧ Map.find t.mgmt.moving (dieOf c) = none
      ∧ (t.cluster (dieOf c) q).role = .logical m.logical ∧ (t.cluster (dieOf c) m.source).role = .cupping false
      ∧ SameThreads s t ∧ emptied t
      ∧ (Map.get t.rep.counters 0 0x178).toNat = min (2 ^ 32 - 1) ((Map.get s.rep.counters 0 0x178).toNat + 1)))
  ∧ (∀ s d n, (s.cluster d n).role = .degraded → (s.cluster d n).tested + 151200000000000 ≤ s.tick → n < 19 →
    (∃ t, Gives (.degradedClusterTest d n false) s t ∧ (t.cluster d n).role = .degraded ∧ (t.cluster d n).tested = s.tick)
    ∧ ∃ t, Gives (.degradedClusterTest d n true) s t ∧ (t.cluster d n).margin = 0
      ∧ ((t.cluster d n).role = .reserve ∨ (t.cluster d n).role = .cupping false ∨ ∃ l, (t.cluster d n).role = .logical l))
  ∧ (∀ s st ch, st < 8 → ch < 16 → Map.get s.mgmt.stackSpares 0 st = 0 → ∃ t, Gives (.memoryChannelFailure false st ch) s t
    ∧ Map.get t.mgmt.stackSpares 0 st = 1 ∧ (st, ch) ∈ t.mgmt.stackCopying ∧ SameMemory s t)
  ∧ (∀ s st ch, st < 8 → ch < 16 → Map.get s.mgmt.stackSpares 0 st ≠ 0 → ∃ t, Gives (.memoryChannelFailure false st ch) s t
    ∧ (Map.get t.rep.counters 0 0x172).toNat = min (2 ^ 32 - 1) ((Map.get s.rep.counters 0 0x172).toNat + 1))
  ∧ (∀ s ch, ch < 16 → ch ∉ s.mem.ddrFailed → ∃ t, Gives (.memoryChannelFailure true 0 ch) s t ∧ ch ∈ t.mem.ddrFailed
    ∧ (Map.get t.rep.counters 0 0x177).toNat = min (2 ^ 32 - 1) ((Map.get s.rep.counters 0 0x177).toNat + 1))
  ∧ (∀ s st ch, (st, ch) ∈ s.mgmt.stackCopying → ∃ t, Gives (.hbm4ChannelCopyDone st) s t ∧ SameMemory s t
    ∧ (∀ e ∈ t.mgmt.stackCopying, e.1 ≠ st)
    ∧ (Map.get t.rep.counters 0 0x171).toNat = min (2 ^ 32 - 1) ((Map.get s.rep.counters 0 0x171).toNat + 1))
  ∧ (∀ s d b n, d < 2 → b < 64 → n < 256 → s.inWindow d b = true → Map.get s.mem.wsFixed [] (d * 64 + b) = [] → ∃ t, Gives (.wsRefreshWindow d b n []) s t
    ∧ Map.get t.mem.scrub 0 (d * 64 + b) = (Map.get s.mem.scrub 0 (d * 64 + b) + 1) % 16384
    ∧ (Map.get t.rep.counters 0 0x156).toNat = min (2 ^ 32 - 1) ((Map.get s.rep.counters 0 0x156).toNat + n) ∧ SameMemory s t)
  ∧ (∀ (s : State) d b, Map.get s.mem.wsSpares 0 d < 4 → Map.has s.mem.wsCopied (d * 64 + b) = false → Map.get (s.spareBank d b).mem.wsSpares 0 d = Map.get s.mem.wsSpares 0 d + 1
    ∧ (s.spareBank d b).mem.wsPoison = s.mem.wsPoison)
  ∧ ∀ s c, ∃ t, Gives (.microcodeStoreReload c) s t ∧ (t.core c).ucode = true

/-- spec 13, R349, R350; spec 19, R440 to R442. What the device reports: a cause is counted, the count saturating; an
error record goes to the ring of its function, where that is enabled, and, for a VF, to that of function 0; a
completion event is sent through its vector, or counted as a remap miss. spec 19, R428, R430, R431, R434; spec 17,
R392. An uncorrectable error: in a memory unit, a line or a unit of the weight store it is poison, found by what reads
it; in a dirty line of an L1 it is a mark that stays there; in scratchpad, and in a tile that scrub finds, it is a mark and an
asynchronous cause; in a register, a plane, a tile, a barrier or saved state it kills the gang that owns it, with the cause of
its site; in queue state it ends the launch; what can be fetched again is only counted. (A notice has no owner to compare, a reading: log 16; how a final kill is counted: log 46.) -/
def Obligations.ReportsAndErrors : Prop :=
  ((∀ (s : State) c n, (Map.get (s.count c).rep.counters 0 n).toNat
    = if n = c then min (2 ^ 32 - 1) ((Map.get s.rep.counters 0 n).toNat + 1) else (Map.get s.rep.counters 0 n).toNat)
  ∧ (∀ (s : State) f r, let b := Map.get s.rep.er .init f
    b.ctl.getLsbD 63 = true → b.vec.getLsbD 16 = false →
    (s.ringRecord f r).peek (bits b.ctl.toNat 51 12 * 4096 + 64 * (b.seq.toNat % 2 ^ bits b.ctl.toNat 4 0)) 64
        = r.bytes b.seq.toNat s.tick
      ∧ (Map.get (s.ringRecord f r).rep.er .init f).seq = b.seq + 1)
  ∧ (∀ (s : State) f r, (Map.get s.rep.er .init f).ctl.getLsbD 63 = false → s.ringRecord f r = s)
  ∧ (∀ (s : State) (r : ErrInfo), s.errRecord r = if r.func = 0 then s.ringRecord 0 r else (s.ringRecord r.func r).ringRecord 0 r)
  ∧ (∀ (s : State) f vec o st q e, f ∈ s.host.muted → s.writeEvent f vec o st q e = s)
  ∧ ∀ (s : State) f vec o st q e, f ∉ s.host.muted →
      let a := s.ftBase f 5 + 32 * vec
      let w0 := s.peekNat a 8
      let w2 := s.peekNat (a + 16) 8
      let w3 := s.peekNat (a + 24) 8
      let hit := vec ≤ bits (s.ftWord f 1) 31 16 ∧ w0.testBit 0 = true ∧ (∀ p, o = some p → bits w0 51 32 = p)
        ∧ bits w0 31 20 = f ∧ bits w0 19 8 < s.qpCount f ∧ s.qpState f (bits w0 19 8) = 3
      (¬ hit → (s.writeEvent f vec o st q e).host.outbox = s.host.outbox
        ∧ ((s.writeEvent f vec o st q e).fblock f).irmiss.toNat = min (2 ^ 32 - 1) ((s.fblock f).irmiss.toNat + 1))
      ∧ (hit → s.host.portsUp = 15#4 → (s.writeEvent f vec o st q e).host.outbox.map (·.msg) = s.host.outbox.map (·.msg) ++ [.rdmaWrite (bits w0 31 8) (bits w2 31 0)
          (BitVec.ofNat 64 (s.peekNat (a + 8) 8 + 16 * (bits w3 63 32 % 2 ^ bits w3 4 0)))
          (toBytes 16 (e % 2 ^ 16 + q % 2 ^ 11 * 2 ^ 16 + f % 2 ^ 6 * 2 ^ 32 + st % 2 ^ 8 * 2 ^ 40 + bits w3 63 32 * 2 ^ 64
            + bits w2 63 32 * 2 ^ 96))]
        ∧ bits ((s.writeEvent f vec o st q e).peekNat (a + 24) 8) 63 32 = (bits w3 63 32 + 1) % 2 ^ 32))
  ∧ ((∀ s u, ∃ t, Gives (.ueDetected (.ddr u)) s t ∧ (∀ n, n ∈ t.mem.poison ↔ n = u ∨ n ∈ s.mem.poison) ∧ SameMemory s t
    ∧ t = { s with mem := { s.mem with poison := t.mem.poison } })
  ∧ (∀ s u, ∃ t, Gives (.ueDetected (.hbm u)) s t ∧ (∀ n, n ∈ t.mem.poison ↔ n = u ∨ n ∈ s.mem.poison) ∧ SameMemory s t
    ∧ (Map.get s.mem.hbmRows 0 (hbmChannel u * 65536 + Config.hbmBank u % 65536) < Config.hbmRepairRows →
      (Map.get t.rep.counters 0 0x170).toNat = min (2 ^ 32 - 1) ((Map.get s.rep.counters 0 0x170).toNat + 1))
    ∧ (Config.hbmRepairRows ≤ Map.get s.mem.hbmRows 0 (hbmChannel u * 65536 + Config.hbmBank u % 65536) →
      (Map.get t.rep.counters 0 0x172).toNat = min (2 ^ 32 - 1) ((Map.get s.rep.counters 0 0x172).toNat + 1)))
  ∧ (∀ s d u, ∃ t, Gives (.ueDetected (.l2Dirty d u)) s t ∧ u ∈ t.mem.poison ∧ u ∈ t.mem.l2Poison)
  ∧ (∀ s c, ∃ t, Gives (.ueDetected (.icache c)) s t ∧ (t.core c).icache = [] ∧ SameMemory s t ∧ SameThreads s t
    ∧ (Map.get t.rep.counters 0 0x153).toNat = min (2 ^ 32 - 1) ((Map.get s.rep.counters 0 0x153).toNat + 1))
  ∧ (∀ s c u, ∃ t, Gives (.ueDetected (.l1Dirty c u)) s t
    ∧ t = { s with mem := { s.mem with l1Poison := t.mem.l1Poison } }
    ∧ ∀ d n, (d, n) ∈ t.mem.l1Poison ↔ (d, n) ∈ s.mem.l1Poison
      ∨ d = c ∧ n = u ∧ ∃ e, (s.core c).l1.find? (fun e => e.unit == u) = some e ∧ e.dirty ≠ [])
  ∧ (∀ s i, ∃ t, Gives (.ueDetected (.tlb i)) s t ∧ t.mmu.tlb = s.mmu.tlb.eraseIdx i ∧ SameMemory s t ∧ SameThreads s t)
  ∧ (∀ s u, u < 2 ^ 23 → ∃ t, Gives (.ueDetected (.wsUnit u)) s t ∧ u ∈ t.mem.wsPoison
    ∧ 0 < (Map.get t.rep.counters 0 0x149).toNat)
  ∧ (∀ s k u g v w, Map.find s.groups k = some g → s.waves = [(w, v)] → v.gid = k → v.asyncs.length < 4 →
    ∃ t g' v', Gives (.ueDetected (.scratch k u)) s t ∧ Map.find t.groups k = some g' ∧ u ∈ g'.scrPoison
      ∧ Map.find t.waves w = some v' ∧ ∃ c, c ∈ v'.asyncs ∧ c.code = 0x141)
  ∧ (∀ s c i k g v w, (s.core c).eng.owner = some k → i < 16 → Map.find s.groups k = some g → s.waves = [(w, v)] → v.gid = k →
    v.asyncs.length < 4 → ∃ t v', Gives (.ueDetected (.accScrub c i)) s t ∧ (t.core c).eng.uncorr.getLsbD i = true
      ∧ Map.find t.waves w = some v' ∧ ∃ e, e ∈ v'.asyncs ∧ e.code = 0x142)
  ∧ (let kills (site : UeSite) (s : State) (k : Nat) (code : Nat) : Prop :=
      ∀ g gang l, Map.find s.groups k = some g → (∀ e ∈ s.groups, e.2.gates = []) → Map.find s.gangs g.gang = some gang → gang.st ≠ .ended →
        Map.find s.launches gang.lid = some l → k ∈ gang.groups → s.descendants g.gang = [] → ∃ t, Gives (.ueDetected site) s t
          ∧ Gone t k ∧ (Map.get t.rep.counters 0 code).toNat
            = min (2 ^ 32 - 1) ((Map.get s.rep.counters 0 code).toNat + 1);
    (∀ s n th, Map.find s.threads n = some th → kills (.regRow n) s th.gid 0x140)
    ∧ (∀ s c k, (s.core c).eng.owner = some k → kills (.plane c) s k 0x142 ∧ ∀ i, kills (.acc c i) s k 0x142)
    ∧ (∀ s c q r, (s.core c).copyq = q :: r → kills (.copyBox c q.key) s q.gid 0x146)
    ∧ (∀ s k b g, Map.find s.groups k = some g → Map.has g.bars b = true → kills (.barrier k b) s k 0x147)
    ∧ (∀ s w v, Map.find s.waves w = some v → kills (.waveEntry w) s v.gid (if v.handler.isSome then 0x163 else 0x147))
    ∧ (∀ s k g c, Map.find s.groups k = some g → g.st = .phase c → kills (.phaseRec k) s k 0x148)
    ∧ ∀ s k g, Map.find s.groups k = some g → g.st = .saved → kills (.saved k) s k 0x14E)
  ∧ (∀ s n l, Map.find s.launches n = some l → (∀ e ∈ s.gangs, e.2.lid ≠ n) → ∃ t, Gives (.ueDetected (.queueState n)) s t
    ∧ (∀ l', Map.find t.launches n = some l' → l'.ended = true) ∧ 0 < (Map.get t.rep.counters 0 0x145).toNat)
  ∧ ∀ s c, (∀ e ∈ s.groups, c ∉ s.coresOf e.2) → ∃ t, Gives (.ueDetected (.ucode c)) s t ∧ (t.core c).ucode = false ∧ SameThreads s t)

/-! ### The fabric and the Barista core -/

/-- spec 13, R351, R352; spec 11, R319, R320; spec 20, R463, R465, R470. A flit with a good CRC is delivered if its SEQ is
due, and its acknowledgement frees what it covers; an idle one that frees nothing has the unacknowledged flits sent again; one
with a bad CRC is replayed, the sixteenth time with a retrain.
A peer's packet waits if an entry admits it, and else is counted. Another device's access is performed in this
device's memory, where the stores released there and those that the L1s hold of the place come first, or refused, and the
answer leaves on the port that the line's hash picks of the device's route; without a route
none leaves. A port that comes back from a retrain with one lane failed uses its spare, with two runs
on seven lanes, and with three or more goes down. (Messages stand for flits, and the retry rules are readings: log
43.) -/
def Obligations.Fabric : Prop :=
  let answers (s t : State) (d a : Nat) (m : FabMsg) : Prop :=
    let p := s.fabPort d (a / 128)
    (Map.get s.fab.routes 0 d = 0 → t.fab = s.fab)
      ∧ (Map.get s.fab.routes 0 d ≠ 0 → (a / 128, m) ∈ (t.fport p).unacked.map Prod.snd ++ (t.fport p).waiting
        ∧ ((s.fport p).sends = true → (s.fport p).unacked.length < 2048 →
          t.fab.outbox.map (fun e => (e.port, e.msg)) = s.fab.outbox.map (fun e => (e.port, e.msg)) ++ [(p, m)]))
  let seen (s : State) (a n : Nat) : State := (s.pullBy (fun l => (Loc.mem a).overlaps n l 8)).gather (.mem a) n
  (∀ s p f, let v := s.fport p
    p < 18 → f.length = 64 → v.en = true → v.down = false → v.training = false → v.waiting = [] →
    (crcOk f = true →
      let free : List (Nat × Nat × FabMsg) := v.unacked.filter (fun e => 2048 ≤ (flitAck f + 4096 - e.1) % 4096)
      (flitSeq f ≠ v.recvSeq → ∃ t, Gives (.flitReceive p f) s t ∧ t.fport p = { v with unacked := free }
        ∧ t.fab.inbox = s.fab.inbox)
      ∧ (flitSeq f = v.recvSeq → ∃ t, Gives (.flitReceive p f) s t
        ∧ t.fport p = { v with unacked := free, recvSeq := (v.recvSeq + 1) % 4096, tries := 0 }
        ∧ t.fab.inbox = s.fab.inbox ++ (if 1 ≤ flitType f ∧ flitType f ≤ 5 then [(p, f)] else []))
      ∧ (flitType f = 0 → free ≠ [] → free.length = v.unacked.length → ∃ t, Gives (.flitReceive p f) s t
        ∧ t.fab.outbox.map (fun e => (e.port, e.msg)) = s.fab.outbox.map (fun e => (e.port, e.msg))
          ++ free.map (fun e => (p, e.2.2))))
    ∧ (crcOk f = false → ∃ t, Gives (.flitReceive p f) s t ∧ t.fab.inbox = s.fab.inbox
      ∧ (t.fport p).crc.toNat = min (2 ^ 32 - 1) (v.crc.toNat + 1) ∧ (t.fport p).replay.toNat = min (2 ^ 32 - 1) (v.replay.toNat + 1)
      ∧ (t.fport p).recvSeq = v.recvSeq ∧ (t.fport p).training = decide (15 ≤ v.tries)
      ∧ (Map.get t.rep.counters 0 0x154).toNat = min (2 ^ 32 - 1) ((Map.get s.rep.counters 0 0x154).toNat + 1)))
  ∧ (∀ s p f, (18 ≤ p ∨ f.length ≠ 64 ∨ (s.fport p).en = false ∨ (s.fport p).down = true ∨ (s.fport p).training = true) →
    Gives (.flitReceive p f) s s)
  ∧ (∀ s d f q ws, f < 64 → q < 2048 → ws.length = 8 →
    (∀ e, s.peerEntry d f q = some e → peerAdmits e ws = true → Gives (.peerLaunchPacket d f q ws) s
      { s with host := { s.host with peerq := s.host.peerq ++
        [{ sender := d, func := f, queue := q, words := ws, sysok := e.getLsbD 89, pmax := bits e.toNat 88 86,
           tail := s.queueTail f q }] } })
    ∧ ((∀ e, s.peerEntry d f q = some e → peerAdmits e ws = false) → ∃ t, Gives (.peerLaunchPacket d f q ws) s t
      ∧ t.host = s.host ∧ (t.fblock f).peerref.toNat = min (2 ^ 32 - 1) ((s.fblock f).peerref.toNat + 1)))
  ∧ (∀ s d a n, d < 144 → (n = 0 ∨ s.fab.domen = false ∨ s.inMemory a n = false) → ∃ t, Gives (.domainRequest d (.load a n)) s t
    ∧ answers s t d a (.refuse d) ∧ SameMemory s t)
  ∧ (∀ s d a n, d < 144 → n ≠ 0 → s.fab.domen = true → s.inMemory a n = true → let q := seen s a n
    ∃ t, Gives (.domainRequest d (.load a n)) s t
    ∧ answers s t d a (.resp d (q.peek a n) (q.poisoned a n)) ∧ SameMemory q t)
  ∧ (∀ s d a l, d < 144 → l ≠ [] → s.fab.domen = true → s.inMemory a l.length = true → LinesOk s →
    ∃ t, Gives (.domainRequest d (.store a l)) s t
    ∧ answers s t d a (.resp d [] false) ∧ t.peek a l.length = l
    ∧ ∀ k, k < a ∨ a + l.length ≤ k → cellAt t.mem.cells k = cellAt (seen s a l.length).mem.cells k)
  ∧ (∀ s d a c v, d < 144 → s.fab.domen = true → s.inMemory a 4 = true → let q := seen s a 4
    ∃ t, Gives (.domainRequest d (.cas a c v)) s t
    ∧ answers s t d a (.resp d (q.peek a 4) (q.poisoned a 4))
    ∧ t.peekNat a 4 = (if q.peekNat a 4 = c.toNat then v.toNat else q.peekNat a 4))
  ∧ (∀ s a n k, LinesOk s →
    ((∀ c, ∀ e ∈ (s.core c).l1, Map.find e.dirty k = none) → cellAt (seen s a n).mem.cells k = cellAt s.mem.cells k)
    ∧ ∀ c e b, a ≤ k → k < a + n → e ∈ (s.core c).l1 → Map.find e.dirty k = some b →
        (∀ d, d ≠ c → ∀ o ∈ (s.core d).l1, Map.find o.dirty k = none) → cellAt (seen s a n).mem.cells k = b)
  ∧ (∀ s p l, p < 18 → l < 9 → ∃ t, Gives (.frarokLaneFailure p l) s t ∧ (t.fport p).training = true
    ∧ ∀ i, i < 9 → (t.fport p).failed.getLsbD i = (i == l || (s.fport p).failed.getLsbD i))
  ∧ (∀ s p b d, p < 18 → (s.fport p).training = true →
    (popCount 9 b.toNat ≤ 1 → ∃ t, Gives (.retrainDone p b d) s t ∧ t.fab.routes = s.fab.routes
      ∧ t.fport p = { s.fport p with failed := b, training := false, down := false, peer := d, tries := 0 }
      ∧ (t.fport p).active = 8)
    ∧ (popCount 9 b.toNat = 2 → ∃ t, Gives (.retrainDone p b d) s t ∧ (t.fport p).active = 7
      ∧ (Map.get t.rep.counters 0 0x169).toNat = min (2 ^ 32 - 1) ((Map.get s.rep.counters 0 0x169).toNat + 1))
    ∧ (2 < popCount 9 b.toNat → (s.fport p).unacked = [] → ∃ t, Gives (.retrainDone p b d) s t ∧ (t.fport p).down = true
      ∧ (t.fport p).active = 0 ∧ (∀ n m, Map.find t.fab.routes n = some m → m.getLsbD p = false)
      ∧ (Map.get t.rep.counters 0 0x16A).toNat = min (2 ^ 32 - 1) ((Map.get s.rep.counters 0 0x16A).toNat + 1)))
  ∧ ∀ s p b d, (18 ≤ p ∨ (s.fport p).training = false) → Gives (.retrainDone p b d) s s

/-- spec 14, R356 to R358, R362 to R364; spec 01, R15. Power-on resets everything but the fuses and runs the five stages:
an image whose key, signature, version or form is refused ends boot in its stage with the code of FAIL; with every
image accepted DONE is set and new launches bind the base microcode. Each millisecond the throttle moves by at most
one step of 1/64 and is never above one half, which it is from 105 °C until the junction is below 100 °C; at 115 °C
the clocks stop. spec 14, R359. The SPDM responder answers each request with one message on the management port and
changes nothing else but the counter of free values; the codes are those of SPDM 1.2 (log 44: presumed). Until the
first stage of boot is past it answers that it is not ready. (Image layout: log 39; boot and throttle readings: log
43.) -/
def Obligations.BootPowerAttestation : Prop :=
  ((∀ s b, ∃ t, Gives (.powerOn b) s t ∧ t.waves = [] ∧ t.threads = [] ∧ t.groups = [] ∧ t.launches = []
    ∧ t.mgmt.keyhash = s.mgmt.keyhash ∧ (t.mgmt.done = true ↔ t.mgmt.fail = 0)
    ∧ (let m := s.poweredOn.mgmt
      (m.bootFail b.barista ≠ 0 → t.mgmt.stage = 1 ∧ t.mgmt.fail = m.bootFail b.barista ∧ t.mgmt.done = false
        ∧ t.mgmt.svn = s.mgmt.svn ∧ t.mgmt.keyrev = s.mgmt.keyrev)
      ∧ (t.mgmt.fail = 0 → t.mgmt.stage = 5 ∧ t.mgmt.binding = some (ofBytesBE (sha256 b.microcode))
        ∧ t.mgmt.keyrev = max s.mgmt.keyrev b.revto ∧ t.mgmt.svn = max s.mgmt.svn (b.svnto % 2 ^ 16)
        ∧ (dimmsOk b.dimms = true → t.mem.ddrBytes = 2 ^ 30 * ((b.dimms.flatMap id).foldl (· + ·) 0) ∧ t.mgmt.ddrx = false)
        ∧ (dimmsOk b.dimms = false → t.mgmt.ddrx = true ∧ t.mem.ddrBytes = 0))))
  ∧ (∀ (m : Mgmt) l, (l.length < 776 → m.bootFail l = 4)
    ∧ (776 ≤ l.length → (m.signed l = false → m.bootFail l = 1)
      ∧ (m.signed l = true → (m.revoked l = true → m.bootFail l = 2)
        ∧ (m.revoked l = false → m.bootFail l = if imageVer l < m.svn then 3 else 0))))
  ∧ (∀ s mw tj, ∃ t, Gives (.powerPeriod mw tj) s t ∧ t.mgmt.mw = BitVec.ofNat 32 mw ∧ t.mgmt.tjmax = BitVec.ofNat 16 tj
    ∧ (tj < 1840 → SameThreads s t ∧ SameMemory s t ∧ t.waves = s.waves) ∧ (1840 ≤ tj → t.mgmt.stopped = true)
    ∧ (t.mgmt.hot = true ↔ (s.mgmt.hot = true ∨ 1680 ≤ tj) ∧ 1600 ≤ tj)
    ∧ (t.mgmt.hot = true → t.mgmt.throt = 32768#16)
    ∧ (t.mgmt.hot = false → s.mgmt.hot = false → 1000 * s.mgmt.pwrcap.toNat < mw → s.mgmt.throt.toNat ≤ 32768 →
        t.mgmt.throt.toNat = min 32768 (s.mgmt.throt.toNat + 1024)
        ∧ (Map.get t.rep.counters 0 0x17C).toNat = min (2 ^ 32 - 1) ((Map.get s.rep.counters 0 0x17C).toNat + 1))
    ∧ (t.mgmt.hot = false → s.mgmt.hot = false → mw ≤ 1000 * s.mgmt.pwrcap.toNat →
        t.mgmt.throt = s.mgmt.throt ∨ t.mgmt.throt.toNat = s.mgmt.throt.toNat - 1024)
    ∧ (s.mgmt.throt.toNat ≤ 32768 → t.mgmt.throt.toNat ≤ 32768))
  ∧ (∀ s tj, (1680 ≤ tj → s.mgmt.hot = false → ∃ t, Gives (.thermal105 tj) s t ∧ t.mgmt.hot = true ∧ t.mgmt.throt = 32768#16
      ∧ (Map.get t.rep.counters 0 0x17D).toNat = min (2 ^ 32 - 1) ((Map.get s.rep.counters 0 0x17D).toNat + 1))
    ∧ ((tj < 1680 ∨ s.mgmt.hot = true ∧ (tj < 1840 ∨ s.mgmt.stopped = true)) → Gives (.thermal105 tj) s s)
    ∧ (1840 ≤ tj → ∃ t, Gives (.thermal105 tj) s t ∧ t.mgmt.stopped = true))
  ∧ (∀ s tj, 1840 ≤ tj → s.mgmt.stopped = false → ∃ t, Gives (.thermalStop tj) s t ∧ t.mgmt.stopped = true ∧ t.mgmt.done = false
      ∧ t.waves = [] ∧ t.threads = [] ∧ t.launches = [] ∧ (∀ a c u n, t.coreTakes a c u n = false)
      ∧ (Map.get t.rep.counters 0 0x17F).toNat = min (2 ^ 32 - 1) ((Map.get s.rep.counters 0 0x17F).toNat + 1)
      ∧ (let n := (s.launches.filter (fun e => !e.2.ended && (match e.2.src with | .fork _ => false | _ => true))).length
         (Map.get t.rep.counters 0 0x167).toNat = min (2 ^ 32 - 1) ((Map.get s.rep.counters 0 0x167).toNat + n + 1)))
  ∧ ∀ s tj, (tj < 1680 ∨ s.mgmt.hot = true ∧ (tj < 1840 ∨ s.mgmt.stopped = true)) → Gives (.thermalStop tj) s s)
  ∧ (let said (s t : State) (m : SpdmMsg) : Prop := t.mgmt.outbox = s.mgmt.outbox ++ [m]
    ∧ t = { s with freeCtr := t.freeCtr, mgmt := { s.mgmt with outbox := t.mgmt.outbox } }
  (∀ s i, i ∈ [Instr.getVersion, Instr.getCapabilities, Instr.negotiateAlgorithms, Instr.getDigests] → s.mgmt.stage ≤ 1 →
    ∃ t, Gives i s t ∧ said s t { code := 0x7F, fields := [0x42], data := [] })
  ∧ ∀ s, 1 < s.mgmt.stage →
    (∃ t, Gives .getVersion s t ∧ said s t { code := 0x04, fields := [0x12], data := [] })
    ∧ (∃ t m, Gives .getCapabilities s t ∧ said s t m ∧ m.code = 0x61)
    ∧ (∃ t m, Gives .negotiateAlgorithms s t ∧ said s t m ∧ m.code = 0x63)
    ∧ (∃ t, Gives .getDigests s t ∧ said s t { code := 0x01, fields := [0x01], data := sha256 (Config.certChain 0) })
    ∧ (∀ o n, ∃ t m, Gives (.getCertificate 0 o n) s t ∧ said s t m ∧ m.code = 0x02
      ∧ m.data = ((Config.certChain 0).drop o).take n)
    ∧ (∀ k o n, k ≠ 0 → ∃ t, Gives (.getCertificate k o n) s t ∧ said s t { code := 0x7F, fields := [0x01], data := [] })
    ∧ (∀ l, l.length = 32 → ∃ t m, Gives (.challenge 0 l) s t ∧ said s t m ∧ m.code = 0x03
      ∧ m.data.take 32 = sha256 (Config.certChain 0) ∧ m.data.length = 32 + 32 + 384)
    ∧ (∀ i, 1 ≤ i → i ≤ 8 → ∃ t, Gives (.getMeasurements i) s t
      ∧ said s t { code := 0x60, fields := [1], data := s.mgmt.mrOf (i - 1) })
    ∧ (∃ t, Gives (.getMeasurements 0xFF) s t ∧ said s t { code := 0x60, fields := [8], data := (List.range 8).flatMap s.mgmt.mrOf })
    ∧ ∀ c, ∃ t, Gives (.spdmUnsupportedRequest c) s t ∧ said s t { code := 0x7F, fields := [0x07], data := [BitVec.ofNat 8 c] })

/-! ### An invariant of every step -/

/-- What every step keeps: the canonical form of HBM4 and DDR-5 and of the weight store, in which equal memories are equal
data (a model's own form: log 3); and the form of the L1s, in which no unit has two lines in one of them, and a line holds
bytes of its own unit only, each once and in order, all 128 where it is whole (log 8). -/
def Obligations.StepKeepsMemory : Prop :=
  (∀ s t, Memory.wf s.mem.cells = true → Memory.wf s.mem.ws = true → step s = .next t →
    Memory.wf t.mem.cells = true ∧ Memory.wf t.mem.ws = true)
  ∧ ∀ s t, LinesOk s → step s = .next t → LinesOk t
end

