-- ==== Sys2Proof/Laws/Map.lean ====
section
/-!
SUPPORT. Laws of finite maps: what a lookup reads after each operation, and that each keeps the canonical form.
-/

namespace Sys2Proof.Machine.Map

variable {α : Type}

/-! ### Lookups -/

@[simp] theorem find_nil (k : Nat) : find ([] : Map α) k = none := rfl

theorem find_mem {m : Map α} {k : Nat} {v : α} (h : find m k = some v) : (k, v) ∈ m := by
  induction m with
  | nil => cases h
  | cons p r ih =>
    obtain ⟨a, x⟩ := p
    unfold find at h
    split at h
    · subst_vars; cases h; exact List.mem_cons_self
    · exact List.mem_cons_of_mem _ (ih h)

theorem find_put (m : Map α) (k j : Nat) (v : α) : find (put m k v) j = if k = j then some v else find m j := by
  induction m with
  | nil => simp [put, find]
  | cons p r ih =>
    obtain ⟨a, x⟩ := p
    unfold put
    split
    · simp [find]
    · split
      · rename_i h₁ h₂
        subst h₂
        by_cases h : k = j <;> simp [find, h]
      · rename_i h₁ h₂
        by_cases h : k = j
        · subst h
          have : a ≠ k := fun e => h₂ e.symm
          simp [find, ih, this]
        · by_cases ha : a = j <;> simp [find, ih, h, ha]

@[simp] theorem find_put_same (m : Map α) (k : Nat) (v : α) : find (put m k v) k = some v := by simp [find_put]

theorem find_put_other (m : Map α) {k j : Nat} (v : α) (h : k ≠ j) : find (put m k v) j = find m j := by
  simp [find_put, h]

theorem find_filter_keys (m : Map α) (p : Nat → Bool) (j : Nat) :
    find (List.filter (fun e => p e.1) m) j = if p j then find m j else none := by
  induction m with
  | nil => simp
  | cons e r ih =>
    obtain ⟨a, x⟩ := e
    by_cases ha : a = j
    · subst ha
      by_cases hp : p a <;> simp [hp, find, ih]
    · by_cases hp : p a <;> simp [hp, find, ih, ha]

theorem find_del (m : Map α) (k j : Nat) : find (del m k) j = if k = j then none else find m j := by
  rw [del, find_filter_keys m (fun a => !(a == k)) j]
  by_cases h : k = j
  · simp [h]
  · have : ¬ j = k := fun e => h e.symm
    simp [h, this]

theorem find_upd (m : Map α) (k j : Nat) (f : α → α) :
    find (upd m k f) j = if k = j then (find m j).map f else find m j := by
  induction m with
  | nil => simp [upd]
  | cons p r ih =>
    obtain ⟨a, x⟩ := p
    by_cases ha : a = k
    · subst ha
      by_cases h : a = j <;> simp [upd, find, h]
    · by_cases h : a = j
      · subst h
        have : ¬ k = a := fun e => ha e.symm
        simp [upd, find, ha, this]
      · simp [upd, find, ha, h, ih]

@[simp] theorem find_upd_same (m : Map α) (k : Nat) (f : α → α) : find (upd m k f) k = (find m k).map f := by
  simp [find_upd]

theorem find_mapv (m : Map α) (f : Nat → α → α) (j : Nat) : find (mapv m f) j = (find m j).map (f j) := by
  induction m with
  | nil => simp [mapv]
  | cons p r ih =>
    obtain ⟨a, x⟩ := p
    by_cases ha : a = j
    · simp [mapv, find, ha]
    · have := ih
      simp only [mapv] at this
      simp [mapv, find, ha, this]

theorem get_putD [DecidableEq α] (m : Map α) (d v : α) (k j : Nat) :
    get (putD m d k v) d j = if k = j then v else get m d j := by
  by_cases hv : v = d
  · subst hv
    by_cases h : k = j <;> simp [get, putD, find_del, h]
  · by_cases h : k = j <;> simp [get, putD, find_put, hv, h]

/-! ### Canonical form -/

/-- Every key of `m` is above `k`. -/
def above (m : Map α) (k : Nat) : Prop := ∀ p ∈ m, k < p.1

theorem wf_cons (a : Nat) (x : α) (m : Map α) : wf ((a, x) :: m) = true ↔ above m a ∧ wf m = true := by
  induction m generalizing a x with
  | nil => simp [wf, above]
  | cons p r ih =>
    obtain ⟨b, y⟩ := p
    simp only [wf, Bool.and_eq_true, decide_eq_true_eq]
    constructor
    · rintro ⟨h, hw⟩
      refine ⟨fun q hq => ?_, hw⟩
      rcases List.mem_cons.mp hq with rfl | hr
      · exact h
      · exact Nat.lt_trans h (((ih b y).mp hw).1 q hr)
    · rintro ⟨h, hw⟩
      exact ⟨h (b, y) (by simp), hw⟩

theorem wf_tail {a : Nat} {x : α} {m : Map α} (h : wf ((a, x) :: m) = true) : wf m = true := ((wf_cons a x m).mp h).2

theorem above_put {m : Map α} {a k : Nat} {v : α} (h : above m a) (hk : a < k) : above (put m k v) a := by
  induction m with
  | nil => simpa [put, above] using hk
  | cons p r ih =>
    obtain ⟨b, y⟩ := p
    have hb : a < b := h (b, y) (by simp)
    have hr : above r a := fun q hq => h q (by simp [hq])
    unfold put
    split
    · intro q hq
      rcases List.mem_cons.mp hq with rfl | hq
      · exact hk
      · exact h q hq
    · split
      · intro q hq
        rcases List.mem_cons.mp hq with rfl | hq
        · exact hk
        · exact hr q hq
      · intro q hq
        rcases List.mem_cons.mp hq with rfl | hq
        · exact hb
        · exact ih hr q hq

theorem put_wf (m : Map α) (k : Nat) (v : α) (h : wf m = true) : wf (put m k v) = true := by
  induction m with
  | nil => simp [put, wf]
  | cons p r ih =>
    obtain ⟨a, x⟩ := p
    obtain ⟨ha, hr⟩ := (wf_cons a x r).mp h
    unfold put
    split
    · rename_i hlt
      exact (wf_cons k v _).mpr ⟨fun q hq => by
        rcases List.mem_cons.mp hq with rfl | hq
        · exact hlt
        · exact Nat.lt_trans hlt (ha q hq), h⟩
    · split
      · subst_vars
        exact (wf_cons _ _ _).mpr ⟨ha, hr⟩
      · exact (wf_cons _ _ _).mpr ⟨above_put ha (by omega), ih hr⟩

theorem filter_wf (m : Map α) (p : Nat × α → Bool) (h : wf m = true) : wf (List.filter p m) = true := by
  induction m with
  | nil => rfl
  | cons e r ih =>
    obtain ⟨a, x⟩ := e
    obtain ⟨ha, hr⟩ := (wf_cons a x r).mp h
    rw [List.filter_cons]
    split
    · exact (wf_cons _ _ _).mpr ⟨fun q hq => ha q (List.mem_filter.mp hq).1, ih hr⟩
    · exact ih hr

theorem del_wf (m : Map α) (k : Nat) (h : wf m = true) : wf (del m k) = true := filter_wf m _ h

theorem putD_wf [DecidableEq α] (m : Map α) (d v : α) (k : Nat) (h : wf m = true) : wf (putD m d k v) = true := by
  unfold putD
  split
  · exact del_wf m k h
  · exact put_wf m k v h

end Sys2Proof.Machine.Map
end

