-- ==== Sys2Proof/Laws/Memory.lean ====
section
/-!
SUPPORT. Laws of memory: what a byte reads after a write, and that every memory operation keeps the canonical form.
-/

namespace Sys2Proof.Machine

/-! ### Reads after writes -/

theorem cellAt_setCell (m : List Host.Cell) (a b : Nat) (v : Byte) :
    cellAt (setCell m a v) b = if a = b then v else cellAt m b := Map.get_putD m blankByte v a b

@[simp] theorem cellAt_setCell_same (m : List Host.Cell) (a : Nat) (v : Byte) : cellAt (setCell m a v) a = v := by
  simp [cellAt_setCell]

theorem cellAt_setCell_other (m : List Host.Cell) {a b : Nat} (v : Byte) (h : a ≠ b) :
    cellAt (setCell m a v) b = cellAt m b := by simp [cellAt_setCell, h]

theorem cellAt_setCells_outside (l : List Byte) (m : List Host.Cell) (a b : Nat) (h : b < a ∨ a + l.length ≤ b) :
    cellAt (setCells m a l) b = cellAt m b := by
  induction l generalizing m a with
  | nil => rfl
  | cons v r ih =>
    simp only [List.length_cons] at h
    rw [setCells, ih _ _ (by omega), cellAt_setCell_other _ _ (by omega)]

theorem cellAt_setCells_inside (l : List Byte) (m : List Host.Cell) (a i : Nat) (h : i < l.length) :
    cellAt (setCells m a l) (a + i) = l[i] := by
  induction l generalizing m a i with
  | nil => simp at h
  | cons v r ih =>
    rw [setCells]
    cases i with
    | zero => rw [cellAt_setCells_outside _ _ _ _ (by omega)]; simp
    | succ j =>
      have := ih (setCell m a v) (a + 1) j (by simpa using h)
      rw [show a + 1 + j = a + (j + 1) by omega] at this
      simpa using this

/-! ### Canonical form -/

theorem setCell_wf (m : List Host.Cell) (a : Nat) (v : Byte) (h : Memory.wf m = true) :
    Memory.wf (setCell m a v) = true := by
  simp only [Memory.wf, Bool.and_eq_true, List.all_eq_true] at h ⊢
  refine ⟨Map.putD_wf m _ v a h.1, fun p hp => ?_⟩
  unfold setCell Map.putD at hp
  split at hp
  · exact h.2 p (List.mem_filter.mp hp).1
  · rename_i hv
    have key : ∀ (l : List Host.Cell), p ∈ Map.put l a v → p = (a, v) ∨ p ∈ l := by
      intro l
      induction l with
      | nil => intro hp; simpa [Map.put] using hp
      | cons q r ih =>
        obtain ⟨b, y⟩ := q
        intro hp
        unfold Map.put at hp
        split at hp
        · rcases List.mem_cons.mp hp with h | h
          · exact .inl h
          · exact .inr h
        · split at hp
          · rcases List.mem_cons.mp hp with h | h
            · exact .inl h
            · exact .inr (by simp [h])
          · rcases List.mem_cons.mp hp with h | h
            · exact .inr (by simp [h])
            · rcases ih h with h | h
              · exact .inl h
              · exact .inr (by simp [h])
    rcases key m hp with rfl | h'
    · simpa using hv
    · exact h.2 p h'

theorem setCells_wf (l : List Byte) (m : List Host.Cell) (a : Nat) (h : Memory.wf m = true) :
    Memory.wf (setCells m a l) = true := by
  induction l generalizing m a with
  | nil => exact h
  | cons v r ih => exact ih _ _ (setCell_wf m a v h)

theorem poke_wf (s : State) (pa : Nat) (l : List Byte) (h : Memory.wf s.mem.cells = true) :
    Memory.wf (s.poke pa l).mem.cells = true := setCells_wf l _ pa h

theorem writes_wf (ws : List (Nat × List Byte)) (m : List Host.Cell) (h : Memory.wf m = true) :
    Memory.wf (ws.foldl (fun m w => setCells m w.1 w.2) m) = true := by
  induction ws generalizing m with
  | nil => exact h
  | cons w r ih => exact ih _ (setCells_wf w.2 m w.1 h)

theorem pokes_wf (s : State) (ws : List (Nat × List Byte)) (h : Memory.wf s.mem.cells = true) :
    Memory.wf (s.pokes ws).mem.cells = true := writes_wf ws _ h

theorem reset_memory_wf : Memory.wf State.reset.mem.cells = true := rfl

theorem reset_weightStore_wf : Memory.wf State.reset.mem.ws = true := rfl

/-! ### Writes and what they leave -/

theorem writes_outside (ws : List (Nat × List Byte)) (m : List Host.Cell) (b : Nat)
    (h : ∀ w ∈ ws, b < w.1 ∨ w.1 + w.2.length ≤ b) :
    cellAt (ws.foldl (fun m w => setCells m w.1 w.2) m) b = cellAt m b := by
  induction ws generalizing m with
  | nil => rfl
  | cons w r ih =>
    rw [List.foldl_cons, ih _ (fun v hv => h v (by simp [hv])), cellAt_setCells_outside _ _ _ _ (h w (by simp))]

theorem pokes_outside (s : State) (ws : List (Nat × List Byte)) (b : Nat)
    (h : ∀ w ∈ ws, b < w.1 ∨ w.1 + w.2.length ≤ b) :
    cellAt (s.pokes ws).mem.cells b = cellAt s.mem.cells b := writes_outside ws _ b h

theorem ofBytes_toBytes (n v : Nat) : ofBytes (toBytes n v) = v % 256 ^ n := by
  induction n generalizing v with
  | zero => simp [toBytes, ofBytes, Nat.mod_one]
  | succ k ih =>
    have : v % 256 ^ (k + 1) = v % 256 + 256 * (v / 256 % 256 ^ k) := by
      rw [Nat.pow_succ, Nat.mul_comm (256 ^ k) 256, Nat.mod_mul]
    rw [this, toBytes, ofBytes, ih, BitVec.toNat_ofNat]

theorem cellsAt_setCells (l : List Byte) (m : List Host.Cell) (a : Nat) : cellsAt (setCells m a l) a l.length = l := by
  have key : ∀ (k : Nat) (i : Nat), i + k = l.length →
      cellsAt (setCells m a l) (a + i) k = l.drop i := by
    intro k
    induction k with
    | zero => intro i h; simp [cellsAt, List.drop_of_length_le (show l.length ≤ i by omega)]
    | succ k ih =>
      intro i h
      have hi : i < l.length := by omega
      rw [cellsAt, cellAt_setCells_inside l m a i hi, show a + i + 1 = a + (i + 1) by omega, ih (i + 1) (by omega),
        List.drop_eq_getElem_cons hi]
  simpa using key l.length 0 (by omega)

end Sys2Proof.Machine
end

