-- ==== Sys2Proof/Laws/Caches.lean ====
section
/-!
SUPPORT. Laws of the caches and of the physical scratchpad: what moves a line leaves the rest of the state alone, every write of a
line keeps the canonical form of memory, and a line that has left holds nothing more.
-/

namespace Sys2Proof.Machine

/-! ### The L2 slices -/

@[simp] theorem fillL2_threads (s : State) (d u : Nat) (b l : Bool) : (s.fillL2 d u b l).threads = s.threads := rfl

@[simp] theorem fillL2_waves (s : State) (d u : Nat) (b l : Bool) : (s.fillL2 d u b l).waves = s.waves := rfl

@[simp] theorem fillL2_groups (s : State) (d u : Nat) (b l : Bool) : (s.fillL2 d u b l).groups = s.groups := rfl

@[simp] theorem fillL2_cores (s : State) (d u : Nat) (b l : Bool) : (s.fillL2 d u b l).cores = s.cores := rfl

@[simp] theorem fillL2_cells (s : State) (d u : Nat) (b l : Bool) : (s.fillL2 d u b l).mem.cells = s.mem.cells := rfl

@[simp] theorem dropL2_cells (s : State) (d u : Nat) : (s.dropL2 d u).mem.cells = s.mem.cells := rfl

@[simp] theorem atHome_cells (s : State) (pa : Nat) (b : Bool) : (s.atHome pa b).mem.cells = s.mem.cells := rfl

@[simp] theorem unstall_mem (s : State) (pa n : Nat) : (s.unstall pa n).mem = s.mem := by
  unfold State.unstall
  split <;> rfl

@[simp] theorem updCore_mem (s : State) (c : Nat) (f : Core → Core) : (s.updCore c f).mem = s.mem := rfl

theorem foldl_fillL2_cells (us : List Nat) (s : State) (d : Nat) (b : Bool) :
    (us.foldl (fun (s : State) u => s.fillL2 d u b) s).mem.cells = s.mem.cells := by
  induction us generalizing s with
  | nil => rfl
  | cons u r ih => rw [List.foldl_cons, ih, fillL2_cells]

/-! ### The canonical form of memory -/

/-- `t` keeps the canonical form of memory that `s` has. -/
def KeepsForm (s t : State) : Prop := Memory.wf s.mem.cells = true → Memory.wf t.mem.cells = true

theorem KeepsForm.refl (s : State) : KeepsForm s s := id

theorem KeepsForm.trans {s t u : State} (a : KeepsForm s t) (b : KeepsForm t u) : KeepsForm s u := fun h => b (a h)

theorem KeepsForm.of_cells {s t : State} (h : t.mem.cells = s.mem.cells) : KeepsForm s t := fun w => h ▸ w

theorem keepsForm_foldl {α : Type} (l : List α) (f : State → α → State) (h : ∀ s a, KeepsForm s (f s a)) (s : State) :
    KeepsForm s (l.foldl f s) := by
  induction l generalizing s with
  | nil => exact .refl s
  | cons a r ih => exact (h s a).trans (ih (f s a))

theorem poke_keepsForm (s : State) (pa : Nat) (l : List Byte) : KeepsForm s (s.poke pa l) := poke_wf s pa l

theorem pokes_keepsForm (s : State) (ws : List (Nat × List Byte)) : KeepsForm s (s.pokes ws) := pokes_wf s ws

theorem poisonUnit_cells (s : State) (pa : Nat) : (s.poisonUnit pa).mem.cells = s.mem.cells := by
  unfold State.poisonUnit
  split <;> rfl

theorem leaveL1_keepsForm (s : State) (c : Nat) (e : Line) : KeepsForm s (s.leaveL1 c e) := by
  have mark : ∀ q : State, KeepsForm q (if q.mem.l1Poison.contains (c, e.unit) then
      { q.poisonUnit (e.unit * 128) with mem := { (q.poisonUnit (e.unit * 128)).mem with
          l1Poison := q.mem.l1Poison.filter (· != (c, e.unit)) } } else q) := by
    intro q
    split
    · exact .of_cells (poisonUnit_cells q _)
    · exact .refl q
  have bytes : ∀ q : State, KeepsForm q (if e.whole then q.pokes [(e.unit * 128, e.dirty.map Prod.snd)]
      else e.dirty.foldl (fun (s : State) b => s.poke b.1 [b.2]) q) := by
    intro q
    split
    · exact pokes_keepsForm q _
    · exact keepsForm_foldl e.dirty _ (fun s b => poke_keepsForm s b.1 [b.2]) q
  unfold State.leaveL1
  split
  · exact .refl s
  · exact (KeepsForm.trans (.of_cells (by simp)) (bytes ((s.fillL2 (dieOf c) e.unit true).unstall (e.unit * 128) 128))).trans (mark _)

theorem cleanBy_keepsForm (s : State) (c : Nat) (p : Line → Bool) : KeepsForm s (s.cleanBy c p) := by
  unfold State.cleanBy
  dsimp only
  split
  · exact .refl s
  · exact (keepsForm_foldl _ _ (fun s e => leaveL1_keepsForm s c e) s).trans (.of_cells rfl)

theorem cleanAt_keepsForm (s : State) (c : Option Nat) (pa n : Nat) : KeepsForm s (s.cleanAt c pa n) := by
  unfold State.cleanAt
  cases c with
  | none => exact keepsForm_foldl _ _ (fun s c => cleanBy_keepsForm s c _) s
  | some c => exact cleanBy_keepsForm s c _

theorem flushGroup_keepsForm (s : State) (g : Nat) : KeepsForm s (s.flushGroup g) := by
  have rels : ∀ q : State, KeepsForm q (if q.mem.rels.isEmpty then q
      else { q with mem := { q.mem with rels := q.mem.rels.filter (fun e => e.2 != g) } }) := by
    intro q
    split
    · exact .refl q
    · exact .of_cells rfl
  exact (keepsForm_foldl _ _ (fun s c => cleanBy_keepsForm s c (fun e => e.gid == g)) s).trans (rels _)

theorem trimL1_keepsForm (s : State) (c : Nat) : KeepsForm s (s.trimL1 c) := by
  unfold State.trimL1
  split
  · exact .refl s
  · exact (keepsForm_foldl _ _ (fun s e => leaveL1_keepsForm s c e) s).trans (.of_cells rfl)

theorem trimLines_keepsForm (s : State) : KeepsForm s s.trimLines := keepsForm_foldl _ _ trimL1_keepsForm s

theorem writeMem_keepsForm (s : State) (c : Option Nat) (ws : List (Nat × List Byte)) : KeepsForm s (s.writeMem c ws) := by
  have fills : ∀ q : State, KeepsForm q (match c with
      | some c => (unitsWritten ws).foldl (fun (s : State) u => s.fillL2 (dieOf c) u true) q
      | none => q) := by
    intro q
    split
    · exact .of_cells (foldl_fillL2_cells _ _ _ _)
    · exact .refl q
  unfold State.writeMem
  split
  · exact .refl s
  · exact (((keepsForm_foldl ws _ (fun s w => cleanAt_keepsForm s c w.1 w.2.length) s).trans (fills _)).trans
      (pokes_keepsForm _ ws)).trans (keepsForm_foldl ws _ (fun s w => .of_cells (by simp)) _)

theorem pullBy_keepsForm (s : State) (p : Loc → Bool) : KeepsForm s (s.pullBy p) :=
  keepsForm_foldl _ _ flushGroup_keepsForm s

theorem freePages_keepsForm (s : State) (g : Nat) (b : Bool) : KeepsForm s (s.freePages g b) := by
  unfold State.freePages
  exact (KeepsForm.of_cells (by rfl)).trans (keepsForm_foldl _ _ (fun s e => pokes_keepsForm s _) _)

theorem storeLine_keepsForm (s : State) (c g : Nat) (ws : List (Nat × List Byte)) (u : Nat) :
    KeepsForm s (s.storeLine c g ws u) := by
  unfold State.storeLine
  refine (cleanBy_keepsForm s c (fun e => e.unit == u && e.gid != g)).trans ?_
  dsimp only
  split
  · exact .of_cells rfl
  · exact .of_cells rfl

theorem storeL1_keepsForm (s : State) (c g : Nat) (ws : List (Nat × List Byte)) : KeepsForm s (s.storeL1 c g ws) :=
  keepsForm_foldl _ _ (fun s u => storeLine_keepsForm s c g ws u) s

/-! ### Lines that have left -/

@[simp] theorem clean_dirty (e : Line) : e.clean.dirty = [] := rfl

@[simp] theorem clean_unit (e : Line) : e.clean.unit = e.unit := rfl

/-- Without the L1's own bytes a core reads what has left the L1s. -/
theorem byteAt_settled (s : State) (c a : Nat) (h : ∀ e ∈ (s.core c).l1, e.dirty = []) :
    s.byteAt (some c) a = cellAt s.mem.cells a := by
  have : (s.core c).l1.findSome? (fun e => Map.find e.dirty a) = none :=
    List.findSome?_eq_none_iff.mpr (fun e he => by rw [h e he]; rfl)
  simp [State.byteAt, this]

end Sys2Proof.Machine
end

