-- ==== Sys2Proof/Laws/Lanes.lean ====
section
/-!
SUPPORT. Laws of lane masks, of fragments, and of how lanes leave an instruction.
-/

namespace Sys2Proof.Machine

/-! ### Masks and lists of lanes -/

theorem bitOf_lane (i j : Nat) : (BitVec.ofNat 32 (2 ^ i)).getLsbD j = (decide (j < 32) && decide (i = j)) := by
  rw [BitVec.getLsbD_ofNat, Nat.testBit_two_pow]

theorem maskOf_fold (l : List Nat) (m : Mask) (j : Nat) :
    (l.foldl (fun (m : Mask) i => m ||| BitVec.ofNat 32 (2 ^ i)) m).getLsbD j
      = (m.getLsbD j || (decide (j < 32) && l.contains j)) := by
  induction l generalizing m with
  | nil => simp
  | cons a r ih =>
    rw [List.foldl_cons, ih, BitVec.getLsbD_or, bitOf_lane, List.contains_cons]
    by_cases h : j < 32 <;> by_cases ha : a = j
    · simp [h, ha]
    · have : (j == a) = false := by simpa using fun e : j = a => ha e.symm
      simp [h, ha, this]
    · simp [h]
    · simp [h]

theorem maskOf_bit (l : List Nat) (j : Nat) : (maskOf l).getLsbD j = (decide (j < 32) && l.contains j) := by
  have := maskOf_fold l 0 j
  simpa [maskOf] using this

theorem mem_lanesOf (m : Mask) (i : Nat) : i ∈ lanesOf m ↔ m.getLsbD i = true := by
  unfold lanesOf
  simp only [List.mem_filter, List.mem_range]
  exact ⟨fun h => h.2, fun h => ⟨BitVec.lt_of_getLsbD h, h⟩⟩

@[simp] theorem maskOf_lanesOf (m : Mask) : maskOf (lanesOf m) = m := by
  apply BitVec.eq_of_getLsbD_eq
  intro i hi
  rw [maskOf_bit]
  by_cases h : m.getLsbD i = true
  · simp [hi, h, (mem_lanesOf m i).mpr h]
  · have : i ∉ lanesOf m := fun e => h ((mem_lanesOf m i).mp e)
    simp [this, h]

/-- The lanes of `m` that satisfy `p`, as a mask, when `p` reads a mask inside `m`. -/
theorem maskOf_filter (m b : Mask) (h : b &&& m = b) : maskOf ((lanesOf m).filter (fun l => b.getLsbD l)) = b := by
  apply BitVec.eq_of_getLsbD_eq
  intro i hi
  have hb : b.getLsbD i = (b.getLsbD i && m.getLsbD i) := by
    conv => lhs; rw [← h]
    exact BitVec.getLsbD_and
  rw [maskOf_bit]
  by_cases hx : b.getLsbD i = true
  · have hm : m.getLsbD i = true := by rw [hx] at hb; simpa using hb.symm
    have : i ∈ (lanesOf m).filter (fun l => b.getLsbD l) := List.mem_filter.mpr ⟨(mem_lanesOf m i).mpr hm, hx⟩
    simp [hi, hx, this]
  · have : i ∉ (lanesOf m).filter (fun l => b.getLsbD l) := fun e => hx (List.mem_filter.mp e).2
    simp [this, hx]

/-- A selection of lanes of `m` lies in `m`. -/
theorem maskOf_filter_sub (m : Mask) (p : Nat → Bool) :
    maskOf ((lanesOf m).filter p) &&& m = maskOf ((lanesOf m).filter p) := by
  apply BitVec.eq_of_getLsbD_eq
  intro i hi
  rw [BitVec.getLsbD_and, maskOf_bit]
  by_cases hm : m.getLsbD i = true
  · rw [hm, Bool.and_true]
  · have : i ∉ (lanesOf m).filter p := fun e => hm ((mem_lanesOf m i).mp (List.mem_filter.mp e).1)
    rw [Bool.eq_false_iff.mpr hm, Bool.and_false, List.contains_eq_mem, decide_eq_false this, Bool.and_false]

theorem lanesOf_eq_nil (m : Mask) : lanesOf m = [] ↔ m = 0 := by
  constructor
  · intro h
    have := maskOf_lanesOf m
    rw [h] at this
    simpa [maskOf] using this.symm
  · rintro rfl
    simp [lanesOf]

/-! ### Fragments -/

theorem spliceAt_one {α : Type} (l : List α) (i : Nat) (a : α) (h : i < l.length) : spliceAt l i [a] = l.set i a := by
  unfold spliceAt
  rw [List.set_eq_take_append_cons_drop, if_pos h]
  simp

/-- Lanes that all stand at one address form one group. -/
theorem groupByPc_uniform (l : List Nat) (pc : VA) (h : l ≠ []) :
    groupByPc (l.map (fun i => (i, pc))) = [(l.foldr (fun i (m : Mask) => m ||| BitVec.ofNat 32 (2 ^ i)) 0, pc)] := by
  induction l with
  | nil => exact absurd rfl h
  | cons a r ih =>
    cases r with
    | nil => simp [groupByPc]
    | cons b q =>
      have := ih (by simp)
      simp only [List.map_cons] at this ⊢
      rw [groupByPc, this]
      simp

theorem fold_foldr (l : List Nat) :
    l.foldr (fun i (m : Mask) => m ||| BitVec.ofNat 32 (2 ^ i)) 0 = maskOf l := by
  apply BitVec.eq_of_getLsbD_eq
  intro j hj
  rw [maskOf_bit]
  induction l with
  | nil => simp
  | cons a r ih =>
    rw [List.foldr_cons, BitVec.getLsbD_or, ih, bitOf_lane, List.contains_cons]
    by_cases ha : a = j
    · simp [hj, ha]
    · have : ¬ j = a := fun e => ha e.symm
      simp [hj, ha, this]

theorem filterMap_nothing {α β : Type} (l : List α) : List.filterMap (fun _ => (none : Option β)) l = [] := by
  induction l with
  | nil => rfl
  | cons a r ih => simp [ih]

/-- Every lane of the issuing fragment goes on to one address: the fragment moves there. -/
theorem finish_uniform (s : State) (x : Iss) (pc : VA) (h : x.fr.mask ≠ 0) :
    s.finish x none ((lanesOf x.fr.mask).map (fun l => (l, .go pc)))
      = s.spliceFrag x.w x.f [{ mask := x.fr.mask, pc := pc, st := .ready, hnd := x.fr.hnd }] := by
  have hl : lanesOf x.fr.mask ≠ [] := fun e => h ((lanesOf_eq_nil _).mp e)
  have hg : goFrags ((lanesOf x.fr.mask).map (fun l => (l, LaneEnd.go pc))) = [(x.fr.mask, pc)] := by
    have e : goFrags ((lanesOf x.fr.mask).map (fun l => (l, LaneEnd.go pc)))
        = groupByPc ((lanesOf x.fr.mask).map (fun l => (l, pc))) := by
      simp [goFrags, List.filterMap_map, Function.comp_def]
    rw [e, groupByPc_uniform _ _ hl, fold_foldr, maskOf_lanesOf]
  have hc : causesOf ((lanesOf x.fr.mask).map (fun l => (l, LaneEnd.go pc))) = [] := by
    simp [causesOf, List.filterMap_map, Function.comp_def, filterMap_nothing]
  have hs : stayFrags x none ((lanesOf x.fr.mask).map (fun l => (l, LaneEnd.go pc))) = [] := by
    simp [stayFrags, List.filterMap_map, Function.comp_def, filterMap_nothing]
  unfold State.finish
  rw [hc, hg, hs]
  have hb : (x.fr.mask != 0) = true := by simpa using h
  simp only [List.map_nil, minCode, readyFrags, List.filter_cons, List.filter_nil, hb, if_true, List.map_cons,
    List.append_nil]

end Sys2Proof.Machine
end

