-- ==== Sys2Proof/Laws/State.lean ====
section
/-!
SUPPORT. What each named update of the state leaves: one lemma for each field it does not touch, and what it does to the one it
touches.
-/

namespace Sys2Proof.Machine

/-! ### `updThread` -/

@[simp] theorem State.updThread_tick (s : State) (t : Nat) (f : Thread → Thread) : (s.updThread t f).tick = s.tick := rfl
@[simp] theorem State.updThread_mem (s : State) (t : Nat) (f : Thread → Thread) : (s.updThread t f).mem = s.mem := rfl
@[simp] theorem State.updThread_mmu (s : State) (t : Nat) (f : Thread → Thread) : (s.updThread t f).mmu = s.mmu := rfl
@[simp] theorem State.updThread_threads (s : State) (t : Nat) (f : Thread → Thread) : (s.updThread t f).threads = Map.upd s.threads t f := rfl
@[simp] theorem State.updThread_waves (s : State) (t : Nat) (f : Thread → Thread) : (s.updThread t f).waves = s.waves := rfl
@[simp] theorem State.updThread_groups (s : State) (t : Nat) (f : Thread → Thread) : (s.updThread t f).groups = s.groups := rfl
@[simp] theorem State.updThread_gangs (s : State) (t : Nat) (f : Thread → Thread) : (s.updThread t f).gangs = s.gangs := rfl
@[simp] theorem State.updThread_launches (s : State) (t : Nat) (f : Thread → Thread) : (s.updThread t f).launches = s.launches := rfl
@[simp] theorem State.updThread_cores (s : State) (t : Nat) (f : Thread → Thread) : (s.updThread t f).cores = s.cores := rfl
@[simp] theorem State.updThread_flights (s : State) (t : Nat) (f : Thread → Thread) : (s.updThread t f).flights = s.flights := rfl
@[simp] theorem State.updThread_host (s : State) (t : Nat) (f : Thread → Thread) : (s.updThread t f).host = s.host := rfl
@[simp] theorem State.updThread_rep (s : State) (t : Nat) (f : Thread → Thread) : (s.updThread t f).rep = s.rep := rfl
@[simp] theorem State.updThread_fsw (s : State) (t : Nat) (f : Thread → Thread) : (s.updThread t f).fsw = s.fsw := rfl
@[simp] theorem State.updThread_fab (s : State) (t : Nat) (f : Thread → Thread) : (s.updThread t f).fab = s.fab := rfl
@[simp] theorem State.updThread_mgmt (s : State) (t : Nat) (f : Thread → Thread) : (s.updThread t f).mgmt = s.mgmt := rfl
@[simp] theorem State.updThread_agenda (s : State) (t : Nat) (f : Thread → Thread) : (s.updThread t f).agenda = s.agenda := rfl
@[simp] theorem State.updThread_cur (s : State) (t : Nat) (f : Thread → Thread) : (s.updThread t f).cur = s.cur := rfl
@[simp] theorem State.updThread_freeCtr (s : State) (t : Nat) (f : Thread → Thread) : (s.updThread t f).freeCtr = s.freeCtr := rfl
@[simp] theorem State.updThread_nextKey (s : State) (t : Nat) (f : Thread → Thread) : (s.updThread t f).nextKey = s.nextKey := rfl

/-! ### `updWave` -/

@[simp] theorem State.updWave_tick (s : State) (w : Nat) (f : Wave → Wave) : (s.updWave w f).tick = s.tick := rfl
@[simp] theorem State.updWave_mem (s : State) (w : Nat) (f : Wave → Wave) : (s.updWave w f).mem = s.mem := rfl
@[simp] theorem State.updWave_mmu (s : State) (w : Nat) (f : Wave → Wave) : (s.updWave w f).mmu = s.mmu := rfl
@[simp] theorem State.updWave_threads (s : State) (w : Nat) (f : Wave → Wave) : (s.updWave w f).threads = s.threads := rfl
@[simp] theorem State.updWave_waves (s : State) (w : Nat) (f : Wave → Wave) : (s.updWave w f).waves = Map.upd s.waves w f := rfl
@[simp] theorem State.updWave_groups (s : State) (w : Nat) (f : Wave → Wave) : (s.updWave w f).groups = s.groups := rfl
@[simp] theorem State.updWave_gangs (s : State) (w : Nat) (f : Wave → Wave) : (s.updWave w f).gangs = s.gangs := rfl
@[simp] theorem State.updWave_launches (s : State) (w : Nat) (f : Wave → Wave) : (s.updWave w f).launches = s.launches := rfl
@[simp] theorem State.updWave_cores (s : State) (w : Nat) (f : Wave → Wave) : (s.updWave w f).cores = s.cores := rfl
@[simp] theorem State.updWave_flights (s : State) (w : Nat) (f : Wave → Wave) : (s.updWave w f).flights = s.flights := rfl
@[simp] theorem State.updWave_host (s : State) (w : Nat) (f : Wave → Wave) : (s.updWave w f).host = s.host := rfl
@[simp] theorem State.updWave_rep (s : State) (w : Nat) (f : Wave → Wave) : (s.updWave w f).rep = s.rep := rfl
@[simp] theorem State.updWave_fsw (s : State) (w : Nat) (f : Wave → Wave) : (s.updWave w f).fsw = s.fsw := rfl
@[simp] theorem State.updWave_fab (s : State) (w : Nat) (f : Wave → Wave) : (s.updWave w f).fab = s.fab := rfl
@[simp] theorem State.updWave_mgmt (s : State) (w : Nat) (f : Wave → Wave) : (s.updWave w f).mgmt = s.mgmt := rfl
@[simp] theorem State.updWave_agenda (s : State) (w : Nat) (f : Wave → Wave) : (s.updWave w f).agenda = s.agenda := rfl
@[simp] theorem State.updWave_cur (s : State) (w : Nat) (f : Wave → Wave) : (s.updWave w f).cur = s.cur := rfl
@[simp] theorem State.updWave_freeCtr (s : State) (w : Nat) (f : Wave → Wave) : (s.updWave w f).freeCtr = s.freeCtr := rfl
@[simp] theorem State.updWave_nextKey (s : State) (w : Nat) (f : Wave → Wave) : (s.updWave w f).nextKey = s.nextKey := rfl

/-! ### `updGroup` -/

@[simp] theorem State.updGroup_tick (s : State) (g : Nat) (f : Group → Group) : (s.updGroup g f).tick = s.tick := rfl
@[simp] theorem State.updGroup_mem (s : State) (g : Nat) (f : Group → Group) : (s.updGroup g f).mem = s.mem := rfl
@[simp] theorem State.updGroup_mmu (s : State) (g : Nat) (f : Group → Group) : (s.updGroup g f).mmu = s.mmu := rfl
@[simp] theorem State.updGroup_threads (s : State) (g : Nat) (f : Group → Group) : (s.updGroup g f).threads = s.threads := rfl
@[simp] theorem State.updGroup_waves (s : State) (g : Nat) (f : Group → Group) : (s.updGroup g f).waves = s.waves := rfl
@[simp] theorem State.updGroup_groups (s : State) (g : Nat) (f : Group → Group) : (s.updGroup g f).groups = Map.upd s.groups g f := rfl
@[simp] theorem State.updGroup_gangs (s : State) (g : Nat) (f : Group → Group) : (s.updGroup g f).gangs = s.gangs := rfl
@[simp] theorem State.updGroup_launches (s : State) (g : Nat) (f : Group → Group) : (s.updGroup g f).launches = s.launches := rfl
@[simp] theorem State.updGroup_cores (s : State) (g : Nat) (f : Group → Group) : (s.updGroup g f).cores = s.cores := rfl
@[simp] theorem State.updGroup_flights (s : State) (g : Nat) (f : Group → Group) : (s.updGroup g f).flights = s.flights := rfl
@[simp] theorem State.updGroup_host (s : State) (g : Nat) (f : Group → Group) : (s.updGroup g f).host = s.host := rfl
@[simp] theorem State.updGroup_rep (s : State) (g : Nat) (f : Group → Group) : (s.updGroup g f).rep = s.rep := rfl
@[simp] theorem State.updGroup_fsw (s : State) (g : Nat) (f : Group → Group) : (s.updGroup g f).fsw = s.fsw := rfl
@[simp] theorem State.updGroup_fab (s : State) (g : Nat) (f : Group → Group) : (s.updGroup g f).fab = s.fab := rfl
@[simp] theorem State.updGroup_mgmt (s : State) (g : Nat) (f : Group → Group) : (s.updGroup g f).mgmt = s.mgmt := rfl
@[simp] theorem State.updGroup_agenda (s : State) (g : Nat) (f : Group → Group) : (s.updGroup g f).agenda = s.agenda := rfl
@[simp] theorem State.updGroup_cur (s : State) (g : Nat) (f : Group → Group) : (s.updGroup g f).cur = s.cur := rfl
@[simp] theorem State.updGroup_freeCtr (s : State) (g : Nat) (f : Group → Group) : (s.updGroup g f).freeCtr = s.freeCtr := rfl
@[simp] theorem State.updGroup_nextKey (s : State) (g : Nat) (f : Group → Group) : (s.updGroup g f).nextKey = s.nextKey := rfl

/-! ### `updGang` -/

@[simp] theorem State.updGang_tick (s : State) (g : Nat) (f : Gang → Gang) : (s.updGang g f).tick = s.tick := rfl
@[simp] theorem State.updGang_mem (s : State) (g : Nat) (f : Gang → Gang) : (s.updGang g f).mem = s.mem := rfl
@[simp] theorem State.updGang_mmu (s : State) (g : Nat) (f : Gang → Gang) : (s.updGang g f).mmu = s.mmu := rfl
@[simp] theorem State.updGang_threads (s : State) (g : Nat) (f : Gang → Gang) : (s.updGang g f).threads = s.threads := rfl
@[simp] theorem State.updGang_waves (s : State) (g : Nat) (f : Gang → Gang) : (s.updGang g f).waves = s.waves := rfl
@[simp] theorem State.updGang_groups (s : State) (g : Nat) (f : Gang → Gang) : (s.updGang g f).groups = s.groups := rfl
@[simp] theorem State.updGang_gangs (s : State) (g : Nat) (f : Gang → Gang) : (s.updGang g f).gangs = Map.upd s.gangs g f := rfl
@[simp] theorem State.updGang_launches (s : State) (g : Nat) (f : Gang → Gang) : (s.updGang g f).launches = s.launches := rfl
@[simp] theorem State.updGang_cores (s : State) (g : Nat) (f : Gang → Gang) : (s.updGang g f).cores = s.cores := rfl
@[simp] theorem State.updGang_flights (s : State) (g : Nat) (f : Gang → Gang) : (s.updGang g f).flights = s.flights := rfl
@[simp] theorem State.updGang_host (s : State) (g : Nat) (f : Gang → Gang) : (s.updGang g f).host = s.host := rfl
@[simp] theorem State.updGang_rep (s : State) (g : Nat) (f : Gang → Gang) : (s.updGang g f).rep = s.rep := rfl
@[simp] theorem State.updGang_fsw (s : State) (g : Nat) (f : Gang → Gang) : (s.updGang g f).fsw = s.fsw := rfl
@[simp] theorem State.updGang_fab (s : State) (g : Nat) (f : Gang → Gang) : (s.updGang g f).fab = s.fab := rfl
@[simp] theorem State.updGang_mgmt (s : State) (g : Nat) (f : Gang → Gang) : (s.updGang g f).mgmt = s.mgmt := rfl
@[simp] theorem State.updGang_agenda (s : State) (g : Nat) (f : Gang → Gang) : (s.updGang g f).agenda = s.agenda := rfl
@[simp] theorem State.updGang_cur (s : State) (g : Nat) (f : Gang → Gang) : (s.updGang g f).cur = s.cur := rfl
@[simp] theorem State.updGang_freeCtr (s : State) (g : Nat) (f : Gang → Gang) : (s.updGang g f).freeCtr = s.freeCtr := rfl
@[simp] theorem State.updGang_nextKey (s : State) (g : Nat) (f : Gang → Gang) : (s.updGang g f).nextKey = s.nextKey := rfl

/-! ### `updLaunch` -/

@[simp] theorem State.updLaunch_tick (s : State) (l : Nat) (f : Launch → Launch) : (s.updLaunch l f).tick = s.tick := rfl
@[simp] theorem State.updLaunch_mem (s : State) (l : Nat) (f : Launch → Launch) : (s.updLaunch l f).mem = s.mem := rfl
@[simp] theorem State.updLaunch_mmu (s : State) (l : Nat) (f : Launch → Launch) : (s.updLaunch l f).mmu = s.mmu := rfl
@[simp] theorem State.updLaunch_threads (s : State) (l : Nat) (f : Launch → Launch) : (s.updLaunch l f).threads = s.threads := rfl
@[simp] theorem State.updLaunch_waves (s : State) (l : Nat) (f : Launch → Launch) : (s.updLaunch l f).waves = s.waves := rfl
@[simp] theorem State.updLaunch_groups (s : State) (l : Nat) (f : Launch → Launch) : (s.updLaunch l f).groups = s.groups := rfl
@[simp] theorem State.updLaunch_gangs (s : State) (l : Nat) (f : Launch → Launch) : (s.updLaunch l f).gangs = s.gangs := rfl
@[simp] theorem State.updLaunch_launches (s : State) (l : Nat) (f : Launch → Launch) : (s.updLaunch l f).launches = Map.upd s.launches l f := rfl
@[simp] theorem State.updLaunch_cores (s : State) (l : Nat) (f : Launch → Launch) : (s.updLaunch l f).cores = s.cores := rfl
@[simp] theorem State.updLaunch_flights (s : State) (l : Nat) (f : Launch → Launch) : (s.updLaunch l f).flights = s.flights := rfl
@[simp] theorem State.updLaunch_host (s : State) (l : Nat) (f : Launch → Launch) : (s.updLaunch l f).host = s.host := rfl
@[simp] theorem State.updLaunch_rep (s : State) (l : Nat) (f : Launch → Launch) : (s.updLaunch l f).rep = s.rep := rfl
@[simp] theorem State.updLaunch_fsw (s : State) (l : Nat) (f : Launch → Launch) : (s.updLaunch l f).fsw = s.fsw := rfl
@[simp] theorem State.updLaunch_fab (s : State) (l : Nat) (f : Launch → Launch) : (s.updLaunch l f).fab = s.fab := rfl
@[simp] theorem State.updLaunch_mgmt (s : State) (l : Nat) (f : Launch → Launch) : (s.updLaunch l f).mgmt = s.mgmt := rfl
@[simp] theorem State.updLaunch_agenda (s : State) (l : Nat) (f : Launch → Launch) : (s.updLaunch l f).agenda = s.agenda := rfl
@[simp] theorem State.updLaunch_cur (s : State) (l : Nat) (f : Launch → Launch) : (s.updLaunch l f).cur = s.cur := rfl
@[simp] theorem State.updLaunch_freeCtr (s : State) (l : Nat) (f : Launch → Launch) : (s.updLaunch l f).freeCtr = s.freeCtr := rfl
@[simp] theorem State.updLaunch_nextKey (s : State) (l : Nat) (f : Launch → Launch) : (s.updLaunch l f).nextKey = s.nextKey := rfl

/-! ### `setCore` -/

@[simp] theorem State.setCore_tick (s : State) (n : Nat) (c : Core) : (s.setCore n c).tick = s.tick := rfl
@[simp] theorem State.setCore_mem (s : State) (n : Nat) (c : Core) : (s.setCore n c).mem = s.mem := rfl
@[simp] theorem State.setCore_mmu (s : State) (n : Nat) (c : Core) : (s.setCore n c).mmu = s.mmu := rfl
@[simp] theorem State.setCore_threads (s : State) (n : Nat) (c : Core) : (s.setCore n c).threads = s.threads := rfl
@[simp] theorem State.setCore_waves (s : State) (n : Nat) (c : Core) : (s.setCore n c).waves = s.waves := rfl
@[simp] theorem State.setCore_groups (s : State) (n : Nat) (c : Core) : (s.setCore n c).groups = s.groups := rfl
@[simp] theorem State.setCore_gangs (s : State) (n : Nat) (c : Core) : (s.setCore n c).gangs = s.gangs := rfl
@[simp] theorem State.setCore_launches (s : State) (n : Nat) (c : Core) : (s.setCore n c).launches = s.launches := rfl
@[simp] theorem State.setCore_cores (s : State) (n : Nat) (c : Core) : (s.setCore n c).cores = Map.put s.cores n c := rfl
@[simp] theorem State.setCore_flights (s : State) (n : Nat) (c : Core) : (s.setCore n c).flights = s.flights := rfl
@[simp] theorem State.setCore_host (s : State) (n : Nat) (c : Core) : (s.setCore n c).host = s.host := rfl
@[simp] theorem State.setCore_rep (s : State) (n : Nat) (c : Core) : (s.setCore n c).rep = s.rep := rfl
@[simp] theorem State.setCore_fsw (s : State) (n : Nat) (c : Core) : (s.setCore n c).fsw = s.fsw := rfl
@[simp] theorem State.setCore_fab (s : State) (n : Nat) (c : Core) : (s.setCore n c).fab = s.fab := rfl
@[simp] theorem State.setCore_mgmt (s : State) (n : Nat) (c : Core) : (s.setCore n c).mgmt = s.mgmt := rfl
@[simp] theorem State.setCore_agenda (s : State) (n : Nat) (c : Core) : (s.setCore n c).agenda = s.agenda := rfl
@[simp] theorem State.setCore_cur (s : State) (n : Nat) (c : Core) : (s.setCore n c).cur = s.cur := rfl
@[simp] theorem State.setCore_freeCtr (s : State) (n : Nat) (c : Core) : (s.setCore n c).freeCtr = s.freeCtr := rfl
@[simp] theorem State.setCore_nextKey (s : State) (n : Nat) (c : Core) : (s.setCore n c).nextKey = s.nextKey := rfl

/-! ### `updCore` -/

@[simp] theorem State.updCore_tick (s : State) (n : Nat) (f : Core → Core) : (s.updCore n f).tick = s.tick := rfl
@[simp] theorem State.updCore_mem (s : State) (n : Nat) (f : Core → Core) : (s.updCore n f).mem = s.mem := rfl
@[simp] theorem State.updCore_mmu (s : State) (n : Nat) (f : Core → Core) : (s.updCore n f).mmu = s.mmu := rfl
@[simp] theorem State.updCore_threads (s : State) (n : Nat) (f : Core → Core) : (s.updCore n f).threads = s.threads := rfl
@[simp] theorem State.updCore_waves (s : State) (n : Nat) (f : Core → Core) : (s.updCore n f).waves = s.waves := rfl
@[simp] theorem State.updCore_groups (s : State) (n : Nat) (f : Core → Core) : (s.updCore n f).groups = s.groups := rfl
@[simp] theorem State.updCore_gangs (s : State) (n : Nat) (f : Core → Core) : (s.updCore n f).gangs = s.gangs := rfl
@[simp] theorem State.updCore_launches (s : State) (n : Nat) (f : Core → Core) : (s.updCore n f).launches = s.launches := rfl
@[simp] theorem State.updCore_cores (s : State) (n : Nat) (f : Core → Core) : (s.updCore n f).cores = Map.put s.cores n (f (s.core n)) := rfl
@[simp] theorem State.updCore_flights (s : State) (n : Nat) (f : Core → Core) : (s.updCore n f).flights = s.flights := rfl
@[simp] theorem State.updCore_host (s : State) (n : Nat) (f : Core → Core) : (s.updCore n f).host = s.host := rfl
@[simp] theorem State.updCore_rep (s : State) (n : Nat) (f : Core → Core) : (s.updCore n f).rep = s.rep := rfl
@[simp] theorem State.updCore_fsw (s : State) (n : Nat) (f : Core → Core) : (s.updCore n f).fsw = s.fsw := rfl
@[simp] theorem State.updCore_fab (s : State) (n : Nat) (f : Core → Core) : (s.updCore n f).fab = s.fab := rfl
@[simp] theorem State.updCore_mgmt (s : State) (n : Nat) (f : Core → Core) : (s.updCore n f).mgmt = s.mgmt := rfl
@[simp] theorem State.updCore_agenda (s : State) (n : Nat) (f : Core → Core) : (s.updCore n f).agenda = s.agenda := rfl
@[simp] theorem State.updCore_cur (s : State) (n : Nat) (f : Core → Core) : (s.updCore n f).cur = s.cur := rfl
@[simp] theorem State.updCore_freeCtr (s : State) (n : Nat) (f : Core → Core) : (s.updCore n f).freeCtr = s.freeCtr := rfl
@[simp] theorem State.updCore_nextKey (s : State) (n : Nat) (f : Core → Core) : (s.updCore n f).nextKey = s.nextKey := rfl

/-! ### `mapLanes` -/

@[simp] theorem State.mapLanes_tick (s : State) (w : Nat) (m : Mask) (f : Nat → Thread → Thread) : (s.mapLanes w m f).tick = s.tick := rfl
@[simp] theorem State.mapLanes_mem (s : State) (w : Nat) (m : Mask) (f : Nat → Thread → Thread) : (s.mapLanes w m f).mem = s.mem := rfl
@[simp] theorem State.mapLanes_mmu (s : State) (w : Nat) (m : Mask) (f : Nat → Thread → Thread) : (s.mapLanes w m f).mmu = s.mmu := rfl
@[simp] theorem State.mapLanes_waves (s : State) (w : Nat) (m : Mask) (f : Nat → Thread → Thread) : (s.mapLanes w m f).waves = s.waves := rfl
@[simp] theorem State.mapLanes_groups (s : State) (w : Nat) (m : Mask) (f : Nat → Thread → Thread) : (s.mapLanes w m f).groups = s.groups := rfl
@[simp] theorem State.mapLanes_gangs (s : State) (w : Nat) (m : Mask) (f : Nat → Thread → Thread) : (s.mapLanes w m f).gangs = s.gangs := rfl
@[simp] theorem State.mapLanes_launches (s : State) (w : Nat) (m : Mask) (f : Nat → Thread → Thread) : (s.mapLanes w m f).launches = s.launches := rfl
@[simp] theorem State.mapLanes_cores (s : State) (w : Nat) (m : Mask) (f : Nat → Thread → Thread) : (s.mapLanes w m f).cores = s.cores := rfl
@[simp] theorem State.mapLanes_flights (s : State) (w : Nat) (m : Mask) (f : Nat → Thread → Thread) : (s.mapLanes w m f).flights = s.flights := rfl
@[simp] theorem State.mapLanes_host (s : State) (w : Nat) (m : Mask) (f : Nat → Thread → Thread) : (s.mapLanes w m f).host = s.host := rfl
@[simp] theorem State.mapLanes_rep (s : State) (w : Nat) (m : Mask) (f : Nat → Thread → Thread) : (s.mapLanes w m f).rep = s.rep := rfl
@[simp] theorem State.mapLanes_fsw (s : State) (w : Nat) (m : Mask) (f : Nat → Thread → Thread) : (s.mapLanes w m f).fsw = s.fsw := rfl
@[simp] theorem State.mapLanes_fab (s : State) (w : Nat) (m : Mask) (f : Nat → Thread → Thread) : (s.mapLanes w m f).fab = s.fab := rfl
@[simp] theorem State.mapLanes_mgmt (s : State) (w : Nat) (m : Mask) (f : Nat → Thread → Thread) : (s.mapLanes w m f).mgmt = s.mgmt := rfl
@[simp] theorem State.mapLanes_agenda (s : State) (w : Nat) (m : Mask) (f : Nat → Thread → Thread) : (s.mapLanes w m f).agenda = s.agenda := rfl
@[simp] theorem State.mapLanes_cur (s : State) (w : Nat) (m : Mask) (f : Nat → Thread → Thread) : (s.mapLanes w m f).cur = s.cur := rfl
@[simp] theorem State.mapLanes_freeCtr (s : State) (w : Nat) (m : Mask) (f : Nat → Thread → Thread) : (s.mapLanes w m f).freeCtr = s.freeCtr := rfl
@[simp] theorem State.mapLanes_nextKey (s : State) (w : Nat) (m : Mask) (f : Nat → Thread → Thread) : (s.mapLanes w m f).nextKey = s.nextKey := rfl

/-! ### `spliceFrag` -/

@[simp] theorem State.spliceFrag_tick (s : State) (w i : Nat) (r : List Frag) : (s.spliceFrag w i r).tick = s.tick := rfl
@[simp] theorem State.spliceFrag_mem (s : State) (w i : Nat) (r : List Frag) : (s.spliceFrag w i r).mem = s.mem := rfl
@[simp] theorem State.spliceFrag_mmu (s : State) (w i : Nat) (r : List Frag) : (s.spliceFrag w i r).mmu = s.mmu := rfl
@[simp] theorem State.spliceFrag_threads (s : State) (w i : Nat) (r : List Frag) : (s.spliceFrag w i r).threads = s.threads := rfl
@[simp] theorem State.spliceFrag_waves (s : State) (w i : Nat) (r : List Frag) : (s.spliceFrag w i r).waves = Map.upd s.waves w (fun v => { v with frags := spliceAt v.frags i r }) := rfl
@[simp] theorem State.spliceFrag_groups (s : State) (w i : Nat) (r : List Frag) : (s.spliceFrag w i r).groups = s.groups := rfl
@[simp] theorem State.spliceFrag_gangs (s : State) (w i : Nat) (r : List Frag) : (s.spliceFrag w i r).gangs = s.gangs := rfl
@[simp] theorem State.spliceFrag_launches (s : State) (w i : Nat) (r : List Frag) : (s.spliceFrag w i r).launches = s.launches := rfl
@[simp] theorem State.spliceFrag_cores (s : State) (w i : Nat) (r : List Frag) : (s.spliceFrag w i r).cores = s.cores := rfl
@[simp] theorem State.spliceFrag_flights (s : State) (w i : Nat) (r : List Frag) : (s.spliceFrag w i r).flights = s.flights := rfl
@[simp] theorem State.spliceFrag_host (s : State) (w i : Nat) (r : List Frag) : (s.spliceFrag w i r).host = s.host := rfl
@[simp] theorem State.spliceFrag_rep (s : State) (w i : Nat) (r : List Frag) : (s.spliceFrag w i r).rep = s.rep := rfl
@[simp] theorem State.spliceFrag_fsw (s : State) (w i : Nat) (r : List Frag) : (s.spliceFrag w i r).fsw = s.fsw := rfl
@[simp] theorem State.spliceFrag_fab (s : State) (w i : Nat) (r : List Frag) : (s.spliceFrag w i r).fab = s.fab := rfl
@[simp] theorem State.spliceFrag_mgmt (s : State) (w i : Nat) (r : List Frag) : (s.spliceFrag w i r).mgmt = s.mgmt := rfl
@[simp] theorem State.spliceFrag_agenda (s : State) (w i : Nat) (r : List Frag) : (s.spliceFrag w i r).agenda = s.agenda := rfl
@[simp] theorem State.spliceFrag_cur (s : State) (w i : Nat) (r : List Frag) : (s.spliceFrag w i r).cur = s.cur := rfl
@[simp] theorem State.spliceFrag_freeCtr (s : State) (w i : Nat) (r : List Frag) : (s.spliceFrag w i r).freeCtr = s.freeCtr := rfl
@[simp] theorem State.spliceFrag_nextKey (s : State) (w i : Nat) (r : List Frag) : (s.spliceFrag w i r).nextKey = s.nextKey := rfl

/-! ### `advance` -/

@[simp] theorem State.advance_tick (s : State) (x : Iss) : (s.advance x).tick = s.tick := rfl
@[simp] theorem State.advance_mem (s : State) (x : Iss) : (s.advance x).mem = s.mem := rfl
@[simp] theorem State.advance_mmu (s : State) (x : Iss) : (s.advance x).mmu = s.mmu := rfl
@[simp] theorem State.advance_threads (s : State) (x : Iss) : (s.advance x).threads = s.threads := rfl
@[simp] theorem State.advance_waves (s : State) (x : Iss) : (s.advance x).waves = Map.upd s.waves x.w (fun v => { v with frags := spliceAt v.frags x.f [{ x.fr with pc := x.next }] }) := rfl
@[simp] theorem State.advance_groups (s : State) (x : Iss) : (s.advance x).groups = s.groups := rfl
@[simp] theorem State.advance_gangs (s : State) (x : Iss) : (s.advance x).gangs = s.gangs := rfl
@[simp] theorem State.advance_launches (s : State) (x : Iss) : (s.advance x).launches = s.launches := rfl
@[simp] theorem State.advance_cores (s : State) (x : Iss) : (s.advance x).cores = s.cores := rfl
@[simp] theorem State.advance_flights (s : State) (x : Iss) : (s.advance x).flights = s.flights := rfl
@[simp] theorem State.advance_host (s : State) (x : Iss) : (s.advance x).host = s.host := rfl
@[simp] theorem State.advance_rep (s : State) (x : Iss) : (s.advance x).rep = s.rep := rfl
@[simp] theorem State.advance_fsw (s : State) (x : Iss) : (s.advance x).fsw = s.fsw := rfl
@[simp] theorem State.advance_fab (s : State) (x : Iss) : (s.advance x).fab = s.fab := rfl
@[simp] theorem State.advance_mgmt (s : State) (x : Iss) : (s.advance x).mgmt = s.mgmt := rfl
@[simp] theorem State.advance_agenda (s : State) (x : Iss) : (s.advance x).agenda = s.agenda := rfl
@[simp] theorem State.advance_cur (s : State) (x : Iss) : (s.advance x).cur = s.cur := rfl
@[simp] theorem State.advance_freeCtr (s : State) (x : Iss) : (s.advance x).freeCtr = s.freeCtr := rfl
@[simp] theorem State.advance_nextKey (s : State) (x : Iss) : (s.advance x).nextKey = s.nextKey := rfl

/-! ### `poke` -/

@[simp] theorem State.poke_tick (s : State) (a : Nat) (l : List Byte) : (s.poke a l).tick = s.tick := rfl
@[simp] theorem State.poke_mmu (s : State) (a : Nat) (l : List Byte) : (s.poke a l).mmu = s.mmu := rfl
@[simp] theorem State.poke_threads (s : State) (a : Nat) (l : List Byte) : (s.poke a l).threads = s.threads := rfl
@[simp] theorem State.poke_waves (s : State) (a : Nat) (l : List Byte) : (s.poke a l).waves = s.waves := rfl
@[simp] theorem State.poke_groups (s : State) (a : Nat) (l : List Byte) : (s.poke a l).groups = s.groups := rfl
@[simp] theorem State.poke_gangs (s : State) (a : Nat) (l : List Byte) : (s.poke a l).gangs = s.gangs := rfl
@[simp] theorem State.poke_launches (s : State) (a : Nat) (l : List Byte) : (s.poke a l).launches = s.launches := rfl
@[simp] theorem State.poke_cores (s : State) (a : Nat) (l : List Byte) : (s.poke a l).cores = s.cores := rfl
@[simp] theorem State.poke_flights (s : State) (a : Nat) (l : List Byte) : (s.poke a l).flights = s.flights := rfl
@[simp] theorem State.poke_host (s : State) (a : Nat) (l : List Byte) : (s.poke a l).host = s.host := rfl
@[simp] theorem State.poke_rep (s : State) (a : Nat) (l : List Byte) : (s.poke a l).rep = s.rep := rfl
@[simp] theorem State.poke_fsw (s : State) (a : Nat) (l : List Byte) : (s.poke a l).fsw = s.fsw := rfl
@[simp] theorem State.poke_fab (s : State) (a : Nat) (l : List Byte) : (s.poke a l).fab = s.fab := rfl
@[simp] theorem State.poke_mgmt (s : State) (a : Nat) (l : List Byte) : (s.poke a l).mgmt = s.mgmt := rfl
@[simp] theorem State.poke_agenda (s : State) (a : Nat) (l : List Byte) : (s.poke a l).agenda = s.agenda := rfl
@[simp] theorem State.poke_cur (s : State) (a : Nat) (l : List Byte) : (s.poke a l).cur = s.cur := rfl
@[simp] theorem State.poke_freeCtr (s : State) (a : Nat) (l : List Byte) : (s.poke a l).freeCtr = s.freeCtr := rfl
@[simp] theorem State.poke_nextKey (s : State) (a : Nat) (l : List Byte) : (s.poke a l).nextKey = s.nextKey := rfl

/-! ### `pokes` -/

@[simp] theorem State.pokes_tick (s : State) (ws : List (Nat × List Byte)) : (s.pokes ws).tick = s.tick := rfl
@[simp] theorem State.pokes_mmu (s : State) (ws : List (Nat × List Byte)) : (s.pokes ws).mmu = s.mmu := rfl
@[simp] theorem State.pokes_threads (s : State) (ws : List (Nat × List Byte)) : (s.pokes ws).threads = s.threads := rfl
@[simp] theorem State.pokes_waves (s : State) (ws : List (Nat × List Byte)) : (s.pokes ws).waves = s.waves := rfl
@[simp] theorem State.pokes_groups (s : State) (ws : List (Nat × List Byte)) : (s.pokes ws).groups = s.groups := rfl
@[simp] theorem State.pokes_gangs (s : State) (ws : List (Nat × List Byte)) : (s.pokes ws).gangs = s.gangs := rfl
@[simp] theorem State.pokes_launches (s : State) (ws : List (Nat × List Byte)) : (s.pokes ws).launches = s.launches := rfl
@[simp] theorem State.pokes_cores (s : State) (ws : List (Nat × List Byte)) : (s.pokes ws).cores = s.cores := rfl
@[simp] theorem State.pokes_flights (s : State) (ws : List (Nat × List Byte)) : (s.pokes ws).flights = s.flights := rfl
@[simp] theorem State.pokes_host (s : State) (ws : List (Nat × List Byte)) : (s.pokes ws).host = s.host := rfl
@[simp] theorem State.pokes_rep (s : State) (ws : List (Nat × List Byte)) : (s.pokes ws).rep = s.rep := rfl
@[simp] theorem State.pokes_fsw (s : State) (ws : List (Nat × List Byte)) : (s.pokes ws).fsw = s.fsw := rfl
@[simp] theorem State.pokes_fab (s : State) (ws : List (Nat × List Byte)) : (s.pokes ws).fab = s.fab := rfl
@[simp] theorem State.pokes_mgmt (s : State) (ws : List (Nat × List Byte)) : (s.pokes ws).mgmt = s.mgmt := rfl
@[simp] theorem State.pokes_agenda (s : State) (ws : List (Nat × List Byte)) : (s.pokes ws).agenda = s.agenda := rfl
@[simp] theorem State.pokes_cur (s : State) (ws : List (Nat × List Byte)) : (s.pokes ws).cur = s.cur := rfl
@[simp] theorem State.pokes_freeCtr (s : State) (ws : List (Nat × List Byte)) : (s.pokes ws).freeCtr = s.freeCtr := rfl
@[simp] theorem State.pokes_nextKey (s : State) (ws : List (Nat × List Byte)) : (s.pokes ws).nextKey = s.nextKey := rfl

/-! ### `count` -/

@[simp] theorem State.count_tick (s : State) (c : Nat) : (s.count c).tick = s.tick := rfl
@[simp] theorem State.count_mem (s : State) (c : Nat) : (s.count c).mem = s.mem := rfl
@[simp] theorem State.count_mmu (s : State) (c : Nat) : (s.count c).mmu = s.mmu := rfl
@[simp] theorem State.count_threads (s : State) (c : Nat) : (s.count c).threads = s.threads := rfl
@[simp] theorem State.count_waves (s : State) (c : Nat) : (s.count c).waves = s.waves := rfl
@[simp] theorem State.count_groups (s : State) (c : Nat) : (s.count c).groups = s.groups := rfl
@[simp] theorem State.count_gangs (s : State) (c : Nat) : (s.count c).gangs = s.gangs := rfl
@[simp] theorem State.count_launches (s : State) (c : Nat) : (s.count c).launches = s.launches := rfl
@[simp] theorem State.count_cores (s : State) (c : Nat) : (s.count c).cores = s.cores := rfl
@[simp] theorem State.count_flights (s : State) (c : Nat) : (s.count c).flights = s.flights := rfl
@[simp] theorem State.count_host (s : State) (c : Nat) : (s.count c).host = s.host := rfl
@[simp] theorem State.count_fsw (s : State) (c : Nat) : (s.count c).fsw = s.fsw := rfl
@[simp] theorem State.count_fab (s : State) (c : Nat) : (s.count c).fab = s.fab := rfl
@[simp] theorem State.count_mgmt (s : State) (c : Nat) : (s.count c).mgmt = s.mgmt := rfl
@[simp] theorem State.count_agenda (s : State) (c : Nat) : (s.count c).agenda = s.agenda := rfl
@[simp] theorem State.count_cur (s : State) (c : Nat) : (s.count c).cur = s.cur := rfl
@[simp] theorem State.count_freeCtr (s : State) (c : Nat) : (s.count c).freeCtr = s.freeCtr := rfl
@[simp] theorem State.count_nextKey (s : State) (c : Nat) : (s.count c).nextKey = s.nextKey := rfl

/-! ### `openRun` -/

@[simp] theorem State.openRun_tick (s : State) (w : Nat) (v : Wave) (fr : Frag) : (s.openRun w v fr).tick = s.tick := rfl
@[simp] theorem State.openRun_mem (s : State) (w : Nat) (v : Wave) (fr : Frag) : (s.openRun w v fr).mem = s.mem := rfl
@[simp] theorem State.openRun_mmu (s : State) (w : Nat) (v : Wave) (fr : Frag) : (s.openRun w v fr).mmu = s.mmu := rfl
@[simp] theorem State.openRun_threads (s : State) (w : Nat) (v : Wave) (fr : Frag) : (s.openRun w v fr).threads = s.threads := rfl
@[simp] theorem State.openRun_waves (s : State) (w : Nat) (v : Wave) (fr : Frag) : (s.openRun w v fr).waves = s.waves := rfl
@[simp] theorem State.openRun_groups (s : State) (w : Nat) (v : Wave) (fr : Frag) : (s.openRun w v fr).groups = s.groups := rfl
@[simp] theorem State.openRun_gangs (s : State) (w : Nat) (v : Wave) (fr : Frag) : (s.openRun w v fr).gangs = s.gangs := rfl
@[simp] theorem State.openRun_launches (s : State) (w : Nat) (v : Wave) (fr : Frag) : (s.openRun w v fr).launches = s.launches := rfl
@[simp] theorem State.openRun_flights (s : State) (w : Nat) (v : Wave) (fr : Frag) : (s.openRun w v fr).flights = s.flights := rfl
@[simp] theorem State.openRun_host (s : State) (w : Nat) (v : Wave) (fr : Frag) : (s.openRun w v fr).host = s.host := rfl
@[simp] theorem State.openRun_rep (s : State) (w : Nat) (v : Wave) (fr : Frag) : (s.openRun w v fr).rep = s.rep := rfl
@[simp] theorem State.openRun_fsw (s : State) (w : Nat) (v : Wave) (fr : Frag) : (s.openRun w v fr).fsw = s.fsw := rfl
@[simp] theorem State.openRun_fab (s : State) (w : Nat) (v : Wave) (fr : Frag) : (s.openRun w v fr).fab = s.fab := rfl
@[simp] theorem State.openRun_mgmt (s : State) (w : Nat) (v : Wave) (fr : Frag) : (s.openRun w v fr).mgmt = s.mgmt := rfl
@[simp] theorem State.openRun_agenda (s : State) (w : Nat) (v : Wave) (fr : Frag) : (s.openRun w v fr).agenda = s.agenda := rfl
@[simp] theorem State.openRun_cur (s : State) (w : Nat) (v : Wave) (fr : Frag) : (s.openRun w v fr).cur = s.cur := rfl
@[simp] theorem State.openRun_freeCtr (s : State) (w : Nat) (v : Wave) (fr : Frag) : (s.openRun w v fr).freeCtr = s.freeCtr := rfl
@[simp] theorem State.openRun_nextKey (s : State) (w : Nat) (v : Wave) (fr : Frag) : (s.openRun w v fr).nextKey = s.nextKey := rfl

/-! ### Time -/

@[simp] theorem State.idle_tick (s : State) (n : Nat) : (s.idle n).tick = s.tick + n := rfl

end Sys2Proof.Machine
end

