-- ==== Sys2Proof/Laws/Issue.lean ====
section
/-!
SUPPORT. Laws of the issue of a word: who issues, the shared form of every meaning, per-lane instructions, and the entry into
a handler.
-/

namespace Sys2Proof.Machine

/-! ### Who issues -/

/-- Everything that an issuer is. -/
theorem issuer_facts {s : State} {i : Instr} {x : Iss} (h : s.issuer i = some x) :
    x.i = i ∧ x.w = s.cur.1 ∧ x.f = s.cur.2 ∧ Map.find s.waves x.w = some x.v ∧ x.v.frags[x.f]? = some x.fr
      ∧ Map.find s.groups x.v.gid = some x.g ∧ s.eligible x.w x.v x.fr = true
      ∧ x.on = (match hdrOfInstr i with | some h => s.guardLanes x.w x.fr.mask h | none => x.fr.mask) := by
  unfold State.issuer at h
  split at h
  · cases h
  · split at h
    · cases h
    · split at h
      · cases h
      · split at h
        · cases h
          exact ⟨rfl, rfl, rfl, ‹_›, ‹_›, ‹_›, ‹_›, rfl⟩
        · cases h

theorem guardLanes_sub (s : State) (w : Nat) (m : Mask) (h : Hdr) : s.guardLanes w m h &&& m = s.guardLanes w m h :=
  maskOf_filter_sub m _

/-- The lanes with a true guard are lanes of the fragment. -/
theorem issuer_on {s : State} {i : Instr} {x : Iss} (h : s.issuer i = some x) : x.on &&& x.fr.mask = x.on := by
  obtain ⟨-, -, -, -, -, -, -, hon⟩ := issuer_facts h
  rw [hon]
  cases hdrOfInstr i with
  | none => simp
  | some k => exact guardLanes_sub s x.w x.fr.mask k

/-! ### The shared form of every meaning -/

theorem takeReplay_plain {s : State} {x : Iss} (h : x.v.replay = false) : s.takeReplay x = s := by
  simp [State.takeReplay, h]

/-- Under `Issues`, an instruction does its own effect and nothing else. -/
theorem issue_runs {i : Instr} {s : State} {x : Iss} (h : Issues i s x) (body : Iss → State → State) :
    issue i body s = .next (body x s) := by
  obtain ⟨hi, hf, hp, hl, hc, hn, hv, ha, he⟩ := h
  simp only [issue, issueNow, hi, hf, hp, hc, hn, ha, he, hl, if_false, Bool.false_eq_true, minCode, ite_self,
    decide_false, Bool.false_and]
  have : (x.on ≠ 0 && strictReads i && (usesOf i).any (Use.invalid x.v)) = false := by
    rw [Bool.and_assoc, hv, Bool.and_false]
  split
  · rename_i h'
    rw [this] at h'
    cases h'
  · rfl

/-- An instruction that the scoreboard holds changes nothing. -/
theorem issue_stalled {i : Instr} {s : State} {x : Iss} (hi : s.issuer i = some x) (hs : s.stalled x = true)
    (body : Iss → State → State) : issue i body s = .next s := by
  simp [issue, hi, hs]

/-- Without an injected replay, an instruction that the scoreboard lets issue does what `issueNow` says. -/
theorem issue_plain {i : Instr} {s : State} {x : Iss} (hi : s.issuer i = some x) (hs : s.stalled x = false)
    (hp : x.v.replay = false) (body : Iss → State → State) : issue i body s = .next (issueNow i body x s) := by
  simp [issue, hi, hs, hp]

/-- With no true guard, the fragment goes on. -/
theorem issue_guarded {i : Instr} {s : State} {x : Iss} (hi : s.issuer i = some x) (hs : s.stalled x = false)
    (hp : x.v.replay = false) (ho : x.on = 0) (hj : (isJoin i || isCollective i) = false) (body : Iss → State → State) :
    issue i body s = .next (s.advance x) := by
  simp [issue_plain hi hs hp, issueNow, ho, hj]

/-- A cause of stage 1 falls on every lane with a true guard, the lowest code first. -/
theorem issue_stage1 {i : Instr} {s : State} {x : Iss} {c : Nat} (hi : s.issuer i = some x) (hs : s.stalled x = false)
    (hp : x.v.replay = false) (ho : x.on ≠ 0) (hc : minCode (s.stage1 x.g x.fr.hnd i) = some c)
    (body : Iss → State → State) : issue i body s = .next (s.faultLanes x x.on c) := by
  have ho' : ¬ x.on = 0#32 := ho
  simp [issue_plain hi hs hp, issueNow, ho', hc]

/-- Every meaning of an encoded instruction answers a next state wherever a fragment issues it. -/
theorem issue_answers {i : Instr} {s : State} {x : Iss} (hi : s.issuer i = some x) (body : Iss → State → State) :
    ∃ t, issue i body s = .next t := by
  simp only [issue, hi]
  repeat' split
  all_goals exact ⟨_, rfl⟩

/-! ### Per-lane instructions -/

theorem find_mapLanes (s : State) (w : Nat) (m : Mask) (f : Nat → Thread → Thread) (k : Nat) :
    Map.find (s.mapLanes w m f).threads k = (Map.find s.threads k).map (fun t => match t.place with
      | some (w', l) => if w' = w && m.getLsbD l then f l t else t
      | none => t) := by
  rw [State.mapLanes, Map.find_mapv] <;> rfl

/-- The fragment that goes on keeps its place in its wave. -/
theorem find_advance {s : State} {x : Iss} (hw : Map.find s.waves x.w = some x.v) (hf : x.v.frags[x.f]? = some x.fr) :
    Map.find (s.advance x).waves x.w
      = some { x.v with frags := x.v.frags.set x.f { x.fr with pc := x.fr.pc + 8 } } := by
  have hlt : x.f < x.v.frags.length := (List.getElem?_eq_some_iff.mp hf).1
  rw [State.advance_waves, Map.find_upd_same, hw]
  simp [spliceAt_one _ _ _ hlt, Iss.next]

/-- What an instruction of the per-lane shape leaves. -/
theorem laneWise_result {i : Instr} {s : State} {x : Iss} (hi : s.issuer i = some x) (f : Nat → Thread → Thread) :
    LaneResult s ((s.mapLanes x.w x.on f).advance x) x f := by
  obtain ⟨-, -, -, hw, hf, -⟩ := issuer_facts hi
  constructor
  · intro k u l hk hp hl
    simp [find_mapLanes, hk, hp, hl]
  · intro k u hk hn
    rw [State.advance_threads, find_mapLanes, hk, Option.map_some]
    cases hp : u.place with
    | none => simp
    | some p =>
      obtain ⟨w', l⟩ := p
      by_cases hc : w' = x.w ∧ x.on.getLsbD l = true
      · exact absurd ⟨l, by rw [hp, hc.1], hc.2⟩ hn
      · have : (decide (w' = x.w) && x.on.getLsbD l) = false := by
          rw [Bool.eq_false_iff]
          intro h'
          simp only [Bool.and_eq_true, decide_eq_true_eq] at h'
          exact hc h'
        simp [this]
  · exact find_advance (s := s.mapLanes x.w x.on f) hw hf
  · intro w hne
    rw [State.advance_waves, Map.find_upd, if_neg (fun e => hne e.symm)]
    rfl
  · rfl

/-- A per-lane instruction that issues with its own effect. -/
theorem laneWise_runs {i : Instr} {s : State} {x : Iss} (h : Issues i s x) (f : Iss → Nat → Thread → Thread) :
    ∃ t, issue i (laneWise f) s = .next t ∧ LaneResult s t x (f x) :=
  ⟨_, issue_runs h _, laneWise_result h.issuer (f x)⟩

/-! ### Handler entry -/

theorem causesOf_faults (x : Iss) (bad : Mask) (code : Nat) :
    causesOf ((lanesOf x.fr.mask).map (fun l => (l, if bad.getLsbD l then LaneEnd.cause code 0 else .go x.next)))
      = ((lanesOf x.fr.mask).filter (fun l => bad.getLsbD l)).map (fun l => (l, code, 0)) := by
  unfold causesOf
  rw [List.filterMap_map]
  induction lanesOf x.fr.mask with
  | nil => rfl
  | cons a r ih =>
    by_cases h : bad.getLsbD a = true
    · simp only [List.filterMap_cons, Function.comp, h, if_true, List.filter_cons, List.map_cons] at ih ⊢
      rw [← ih]
    · simp only [List.filterMap_cons, Function.comp, h, if_false, List.filter_cons, Bool.false_eq_true] at ih ⊢
      exact ih

theorem minCode_replicate (l : List Nat) (c : Nat) (h : l ≠ []) (ha : ∀ a ∈ l, a = c) : minCode l = some c := by
  induction l with
  | nil => exact absurd rfl h
  | cons a r ih =>
    have hac : a = c := ha a (by simp)
    cases r with
    | nil => simp [minCode, hac]
    | cons b q =>
      have := ih (by simp) (fun y hy => ha y (by simp [hy]))
      rw [minCode, this]
      simp [hac]

end Sys2Proof.Machine
end

