-- ==== Sys2Proof/Laws/Entry.lean ====
section
/-!
SUPPORT. Laws of the entry into a handler: what a synchronous cause leaves.
-/

namespace Sys2Proof.Machine

theorem causeWord_code (code : Nat) (a p o : Bool) : (causeWord code a p o).toNat % 512 = code % 512 := by
  simp only [causeWord, BitVec.toNat_ofNat]
  rw [Nat.mod_mod_of_dvd _ (by decide)]
  omega

theorem satInc_toNat (v : W32) : (satInc v).toNat = min (2 ^ 32 - 1) (v.toNat + 1) := by
  have := v.isLt
  unfold satInc
  split
  · rename_i h
    subst h
    decide
  · rename_i h
    have hne : v.toNat ≠ 2 ^ 32 - 1 := fun e => h (BitVec.eq_of_toNat_eq (by simpa using e))
    rw [BitVec.toNat_add]
    simp
    omega

theorem counted_get (s : State) (c : Nat) :
    (Map.get (s.count c).rep.counters 0 c).toNat = min (2 ^ 32 - 1) ((Map.get s.rep.counters 0 c).toNat + 1) := by
  rw [← satInc_toNat]
  simp [State.count, Map.get]

/-- The handler of a wave begins: what the wave holds afterwards. -/
theorem startHandler_wave {s : State} {w : Nat} {v : Wave} (hw : Map.find s.waves w = some v) (hvec : W64)
    (fs : List Frag) (hm : HMode) (hr : HRegs) :
    ∃ fr, Map.find (s.startHandler w hvec fs hm hr).waves w
        = some { v with handler := some hm, hr := hr, ovf := false, frags := fs ++ [fr] }
      ∧ fr.hnd = true ∧ fr.st = .ready ∧ fr.pc = hvec.setWidth 57
      ∧ fr.mask = (readyLanes fs &&& ~~~(s.heldLanes w)) ||| (if hm.async then 0 else
          hm.rest.foldl (fun m e => m ||| e.1) (hm.fault ||| hm.held)) := by
  have key : ∀ t : State, (t.closeRun w).waves = t.waves := by
    intro t
    unfold State.closeRun
    split <;> rfl
  refine ⟨{ mask := (readyLanes fs &&& ~~~(s.heldLanes w)) ||| (if hm.async then 0 else
          hm.rest.foldl (fun m e => m ||| e.1) (hm.fault ||| hm.held)), pc := hvec.setWidth 57, st := .ready, hnd := true },
    ?_, rfl, rfl, rfl, rfl⟩
  simp only [State.startHandler, key, State.updWave_waves, Map.find_upd_same, hw, Option.map_some]

theorem closeRun_same (s : State) (w : Nat) :
    (s.closeRun w).threads = s.threads ∧ (s.closeRun w).mem = s.mem ∧ (s.closeRun w).rep = s.rep := by
  unfold State.closeRun
  split <;> exact ⟨rfl, rfl, rfl⟩

theorem startHandler_same (s : State) (w : Nat) (hvec : W64) (fs : List Frag) (hm : HMode) (hr : HRegs) :
    (s.startHandler w hvec fs hm hr).threads = s.threads ∧ (s.startHandler w hvec fs hm hr).mem = s.mem
      ∧ (s.startHandler w hvec fs hm hr).rep = s.rep ∧ (s.startHandler w hvec fs hm hr).cur = (w, fs.length) := by
  simp only [State.startHandler, closeRun_same, State.updWave_threads, State.updWave_mem, State.updWave_rep, and_self]

theorem fold_or_sub (l : List (Mask × VA)) (m b : Mask) (h : m &&& b = b) :
    l.foldl (fun m e => m ||| e.1) m &&& b = b := by
  induction l generalizing m with
  | nil => exact h
  | cons e r ih =>
    refine ih _ ?_
    rw [BitVec.and_or_distrib_right, h]
    apply BitVec.eq_of_getLsbD_eq
    intro i hi
    rw [BitVec.getLsbD_or, BitVec.getLsbD_and]
    cases b.getLsbD i <;> cases e.1.getLsbD i <;> rfl

/-- A synchronous cause in lanes of the issuing fragment enters the handler. -/
theorem faultLanes_entered {i : Instr} {s : State} {x : Iss} {bad : Mask} {code : Nat} (hi : s.issuer i = some x)
    (hb : bad &&& x.fr.mask = bad) (hz : bad ≠ 0) (ht : CanTrap x) (hc : code < 512) :
    Entered s (s.faultLanes x bad code) x bad code := by
  obtain ⟨-, -, -, hw, -, hg, -⟩ := issuer_facts hi
  have hl : (lanesOf x.fr.mask).filter (fun l => bad.getLsbD l) ≠ [] := by
    intro e
    apply hz
    rw [← maskOf_filter _ _ hb, e]
    rfl
  obtain ⟨hd, tl, hcons⟩ := List.exists_cons_of_ne_nil hl
  have hmin : minCode (((lanesOf x.fr.mask).filter (fun l => bad.getLsbD l)).map (fun _ => code)) = some code :=
    minCode_replicate _ _ (by simpa using hl) (fun a ha => by
      obtain ⟨y, -, rfl⟩ := List.mem_map.mp ha
      rfl)
  have hcs := causesOf_faults x bad code
  have hmap : ∀ l : List Nat, (l.map (fun l => (l, code, 0))).map (fun (c : Nat × Nat × Nat) => c.2.1)
      = l.map (fun _ => code) := by intro l; rw [List.map_map]; rfl
  have hall : ∀ l : List Nat, (l.map (fun l => (l, code, 0))).filter (fun (c : Nat × Nat × Nat) => c.2.1 == code)
      = l.map (fun l => (l, code, 0)) := by
    intro l
    simp
  have hnone : ∀ l : List Nat, (l.map (fun l => (l, code, 0))).filter (fun (c : Nat × Nat × Nat) => c.2.1 != code)
      = [] := by
    intro l
    simp
  have hfst : ∀ l : List Nat, (l.map (fun l => (l, code, 0))).map (Prod.fst : Nat × Nat × Nat → Nat) = l := by
    intro l
    rw [List.map_map]
    exact List.map_id l
  obtain ⟨hh, hv⟩ := ht
  have hm0 : maskOf ([] : List Nat) = 0 := rfl
  have e : ∃ fs rest, s.faultLanes x bad code = (s.count code).startHandler x.w x.g.hvec fs
      { fault := bad, held := 0, epc := x.fr.pc, rest := rest, async := false, code := code }
      ((s.count code).entryRegs x.w x.v code false bad 0 x.fr.pc (encode x.i)) := by
    refine ⟨spliceAt x.v.frags x.f (stayFrags x none ((lanesOf x.fr.mask).map (fun l =>
        (l, if bad.getLsbD l then LaneEnd.cause code 0 else .go x.next)))),
      goFrags ((lanesOf x.fr.mask).map (fun l => (l, if bad.getLsbD l then LaneEnd.cause code 0 else .go x.next))), ?_⟩
    unfold State.faultLanes State.finish
    simp only [hcs, hmap, hmin, hall, hnone, hfst, maskOf_filter _ _ hb, List.map_nil, hm0]
    have hg' : Map.find s.groups x.gid = some x.g := hg
    simp only [hw, hg', State.enterSync, hh, hv, Bool.not_true, if_false, Bool.false_eq_true, hcons, List.map_cons,
      List.head?_cons, Option.map_some, Option.getD_some, Iss.pc]
  obtain ⟨fs, rest, e⟩ := e
  rw [e]
  obtain ⟨fr, hfw, h1, h2, h3, h4⟩ := startHandler_wave (s := s.count code) hw x.g.hvec fs
    { fault := bad, held := 0, epc := x.fr.pc, rest := rest, async := false, code := code }
    ((s.count code).entryRegs x.w x.v code false bad 0 x.fr.pc (encode x.i))
  obtain ⟨s1, s2, s3, s4⟩ := startHandler_same (s.count code) x.w x.g.hvec fs
    { fault := bad, held := 0, epc := x.fr.pc, rest := rest, async := false, code := code }
    ((s.count code).entryRegs x.w x.v code false bad 0 x.fr.pc (encode x.i))
  refine ⟨⟨_, _, fr, hfw, rfl, rfl, rfl, rfl, rfl, ?_, rfl, ?_, ?_, h1, h2, h3, ?_⟩, ?_, s1, ?_, ?_⟩
  · simp [State.entryRegs, causeWord_code, Nat.mod_eq_of_lt hc]
  · simp [State.entryRegs, BitVec.toNat_setWidth]
    have := x.fr.pc.isLt
    omega
  · rw [s4]
    simp
  · rw [h4]
    have := fold_or_sub rest (bad ||| 0) bad (by simp)
    apply BitVec.eq_of_getLsbD_eq
    intro i hi
    have hbit := congrArg (fun m => m.getLsbD i) this
    simp only [BitVec.getLsbD_and, BitVec.getLsbD_or] at hbit ⊢
    simp only [Bool.false_eq_true, if_false]
    cases hx : bad.getLsbD i with
    | false => simp
    | true =>
      rw [hx, Bool.and_true] at hbit
      rw [hbit]
      simp
  · rw [s4]
  · exact ⟨fun a => by rw [s2]; rfl, fun a => by rw [s2]; rfl⟩
  · rw [s3]
    exact counted_get s code

end Sys2Proof.Machine
end

