-- ==== Sys2Proof/Laws/PerInstr.lean ====
section
/-!
SUPPORT. What holds of each instruction as syntax: an instruction has a guard exactly where it has a word, and an event of the
machine's own has neither (spec 06, R133, R136).
-/

namespace Sys2Proof.Laws.Encoding

/-- The instruction has a header with a guard exactly where it has a word. -/
def Statement (i : Instr) : Prop := (Machine.hdrOfInstr i).isSome = (encode i).isSome

theorem nop (a : H0) : Statement (.nop a) := rfl
theorem mov (a : A1) : Statement (.mov a) := rfl
theorem movi (a : MoviArgs) : Statement (.movi a) := rfl
theorem movhi (a : ImmArgs) : Statement (.movhi a) := rfl
theorem iadd (a : A2c) : Statement (.iadd a) := rfl
theorem iaddi (a : A1i) : Statement (.iaddi a) := rfl
theorem iaddc (a : A2cc) : Statement (.iaddc a) := rfl
theorem isub (a : A2c) : Statement (.isub a) := rfl
theorem isubb (a : A2cc) : Statement (.isubb a) := rfl
theorem imul (a : A2) : Statement (.imul a) := rfl
theorem imulhs (a : A2) : Statement (.imulhs a) := rfl
theorem imulhu (a : A2) : Statement (.imulhu a) := rfl
theorem imulws (a : B2) : Statement (.imulws a) := rfl
theorem imulwu (a : B2) : Statement (.imulwu a) := rfl
theorem imad (a : A3) : Statement (.imad a) := rfl
theorem lea (a : LeaArgs) : Statement (.lea a) := rfl
theorem idivs (a : DivArgs) : Statement (.idivs a) := rfl
theorem idivu (a : DivArgs) : Statement (.idivu a) := rfl
theorem imins (a : A2) : Statement (.imins a) := rfl
theorem iminu (a : A2) : Statement (.iminu a) := rfl
theorem imaxs (a : A2) : Statement (.imaxs a) := rfl
theorem imaxu (a : A2) : Statement (.imaxu a) := rfl
theorem iabs (a : A1) : Statement (.iabs a) := rfl
theorem and (a : A2) : Statement (.and a) := rfl
theorem andi (a : A1i) : Statement (.andi a) := rfl
theorem or (a : A2) : Statement (.or a) := rfl
theorem ori (a : A1i) : Statement (.ori a) := rfl
theorem xor (a : A2) : Statement (.xor a) := rfl
theorem xori (a : A1i) : Statement (.xori a) := rfl
theorem andn (a : A2) : Statement (.andn a) := rfl
theorem lop3 (a : A3t) : Statement (.lop3 a) := rfl
theorem shl (a : A2) : Statement (.shl a) := rfl
theorem shr (a : A2) : Statement (.shr a) := rfl
theorem sar (a : A2) : Statement (.sar a) := rfl
theorem shli (a : ShiArgs) : Statement (.shli a) := rfl
theorem shri (a : ShiArgs) : Statement (.shri a) := rfl
theorem sari (a : ShiArgs) : Statement (.sari a) := rfl
theorem rotl (a : A2) : Statement (.rotl a) := rfl
theorem popc (a : A1) : Statement (.popc a) := rfl
theorem clz (a : A1) : Statement (.clz a) := rfl
theorem brev (a : A1) : Statement (.brev a) := rfl
theorem bfxs (a : A2) : Statement (.bfxs a) := rfl
theorem bfxu (a : A2) : Statement (.bfxu a) := rfl
theorem bfi (a : A3) : Statement (.bfi a) := rfl
theorem prmt (a : B3) : Statement (.prmt a) := rfl
theorem sel (a : SelArgs) : Statement (.sel a) := rfl
theorem icmps (a : IcmpArgs) : Statement (.icmps a) := rfl
theorem icmpu (a : IcmpArgs) : Statement (.icmpu a) := rfl
theorem plop (a : PlopArgs) : Statement (.plop a) := rfl
theorem kballot (a : BallotArgs) : Statement (.kballot a) := rfl
theorem kpopc (a : KcntArgs) : Statement (.kpopc a) := rfl
theorem kfind (a : KcntArgs) : Statement (.kfind a) := rfl
theorem klop (a : KlopArgs) : Statement (.klop a) := rfl
theorem kset (a : ImmArgs) : Statement (.kset a) := rfl
theorem wmov (a : A1) : Statement (.wmov a) := rfl
theorem shfl (a : ShflArgs) : Statement (.shfl a) := rfl
theorem srrd (a : SrrdArgs) : Statement (.srrd a) := rfl
theorem srwr (a : SrwrArgs) : Statement (.srwr a) := rfl
theorem bra (a : BraArgs) : Statement (.bra a) := rfl
theorem brx (a : BrxArgs) : Statement (.brx a) := rfl
theorem call (a : CallArgs) : Statement (.call a) := rfl
theorem callx (a : CallxArgs) : Statement (.callx a) := rfl
theorem ret (a : H0) : Statement (.ret a) := rfl
theorem reform (a : H0) : Statement (.reform a) := rfl
theorem yield (a : H0) : Statement (.yield a) := rfl
theorem exit (a : H0) : Statement (.exit a) := rfl
theorem trap (a : TrapArgs) : Statement (.trap a) := rfl
theorem bkpt (a : TrapArgs) : Statement (.bkpt a) := rfl
theorem unassignedOpcode (word : IWord) (code : Fin 16) : Statement (.unassignedOpcode word code) := rfl
theorem ld (a : LdArgs) : Statement (.ld a) := rfl
theorem st (a : StArgs) : Statement (.st a) := rfl
theorem lds (a : LdsArgs) : Statement (.lds a) := rfl
theorem sts (a : StsArgs) : Statement (.sts a) := rfl
theorem ldw (a : LdArgs) : Statement (.ldw a) := rfl
theorem ldws (a : StsArgs) : Statement (.ldws a) := rfl
theorem atom (a : AtomArgs) : Statement (.atom a) := rfl
theorem atoms (a : AtomsArgs) : Statement (.atoms a) := rfl
theorem atomf (a : AtomfArgs) : Statement (.atomf a) := rfl
theorem cas (a : CasArgs) : Statement (.cas a) := rfl
theorem cass (a : CasArgs) : Statement (.cass a) := rfl
theorem acq (a : SyncArgs) : Statement (.acq a) := rfl
theorem rel (a : SyncArgs) : Statement (.rel a) := rfl
theorem brld (a : BrldArgs) : Statement (.brld a) := rfl
theorem brset (a : BrsetArgs) : Statement (.brset a) := rfl
theorem fence (a : FenceArgs) : Statement (.fence a) := rfl
theorem fencex (a : FencexArgs) : Statement (.fencex a) := rfl
theorem bar (a : BarArgs) : Statement (.bar a) := rfl
theorem barx (a : BarxArgs) : Statement (.barx a) := rfl
theorem waitc (a : WaitcArgs) : Statement (.waitc a) := rfl
theorem waitcSatisfied (wave frag : Nat) : Statement (.waitcSatisfied wave frag) := rfl
theorem waiteq (a : WaiteqArgs) : Statement (.waiteq a) := rfl
theorem waiteqSatisfied (wave frag : Nat) : Statement (.waiteqSatisfied wave frag) := rfl
theorem copy (a : CopyArgs) : Statement (.copy a) := rfl
theorem copyw (a : CopywArgs) : Statement (.copyw a) := rfl
theorem copyBox (core : Nat) : Statement (.copyBox core) := rfl
theorem pref (a : PrefArgs) : Statement (.pref a) := rfl
theorem sracq (a : RingGetArgs) : Statement (.sracq a) := rfl
theorem srcommit (a : RingPutArgs) : Statement (.srcommit a) := rfl
theorem srwait (a : RingGetArgs) : Statement (.srwait a) := rfl
theorem srfree (a : RingPutArgs) : Statement (.srfree a) := rfl
theorem ringWaitSatisfied (wave frag : Nat) : Statement (.ringWaitSatisfied wave frag) := rfl
theorem coll (a : CollArgs) : Statement (.coll a) := rfl
theorem collComplete (func set : Nat) (others : List CollMember) : Statement (.collComplete func set others) := rfl
theorem collHeaderTimeout (func set : Nat) : Statement (.collHeaderTimeout func set) := rfl
theorem allot (a : H0) : Statement (.allot a) := rfl
theorem allotGrant (gid : Nat) : Statement (.allotGrant gid) := rfl
theorem allotSpill (core : Nat) : Statement (.allotSpill core) := rfl
theorem allotrel (a : H0) : Statement (.allotrel a) := rfl
theorem fork (a : Ab) : Statement (.fork a) := rfl
theorem sync (a : H0) : Statement (.sync a) := rfl
theorem phend (a : H0) : Statement (.phend a) := rfl
theorem tsinit (a : Ab) : Statement (.tsinit a) := rfl
theorem tsrel (a : H0) : Statement (.tsrel a) := rfl
theorem depinit (a : Ab) : Statement (.depinit a) := rfl
theorem depinitSelf (a : Ab) : Statement (.depinitSelf a) := rfl
theorem depdec (a : Ax) : Statement (.depdec a) := rfl
theorem tqpost (a : Ab) : Statement (.tqpost a) := rfl
theorem gcall (a : GcallArgs) : Statement (.gcall a) := rfl
theorem gateFrameFree (gid : Nat) : Statement (.gateFrameFree gid) := rfl
theorem gret (a : H0) : Statement (.gret a) := rfl
theorem nopre (a : H0) : Statement (.nopre a) := rfl
theorem preon (a : H0) : Statement (.preon a) := rfl
theorem regionLimitExpiry (gid : Nat) : Statement (.regionLimitExpiry gid) := rfl
theorem fadd (a : B2) : Statement (.fadd a) := rfl
theorem fsub (a : B2) : Statement (.fsub a) := rfl
theorem fmul (a : B2) : Statement (.fmul a) := rfl
theorem ffma (a : B3) : Statement (.ffma a) := rfl
theorem fmin (a : B2) : Statement (.fmin a) := rfl
theorem fmax (a : B2) : Statement (.fmax a) := rfl
theorem fcmp (a : FcmpArgs) : Statement (.fcmp a) := rfl
theorem frcp (a : B1) : Statement (.frcp a) := rfl
theorem frsq (a : B1) : Statement (.frsq a) := rfl
theorem fsqrt (a : B1) : Statement (.fsqrt a) := rfl
theorem fdiv (a : B2) : Statement (.fdiv a) := rfl
theorem fexp2 (a : B1) : Statement (.fexp2 a) := rfl
theorem flog2 (a : B1) : Statement (.flog2 a) := rfl
theorem fsin (a : B1) : Statement (.fsin a) := rfl
theorem fcos (a : B1) : Statement (.fcos a) := rfl
theorem fclass (a : FclassArgs) : Statement (.fclass a) := rfl
theorem frnd (a : FrndArgs) : Statement (.frnd a) := rfl
theorem fldexp (a : B2) : Statement (.fldexp a) := rfl
theorem cvtf (a : CvtArgs) : Statement (.cvtf a) := rfl
theorem cvtfi (a : CvtArgs) : Statement (.cvtfi a) := rfl
theorem cvtif (a : CvtArgs) : Statement (.cvtif a) := rfl
theorem pack2 (a : Pack2Args) : Statement (.pack2 a) := rfl
theorem unpk2 (a : Unpk2Args) : Statement (.unpk2 a) := rfl
theorem hadd2 (a : Half2Args) : Statement (.hadd2 a) := rfl
theorem hmul2 (a : Half2Args) : Statement (.hmul2 a) := rfl
theorem hfma2 (a : Half3Args) : Statement (.hfma2 a) := rfl
theorem idp4 (a : Idp4Args) : Statement (.idp4 a) := rfl
theorem wred (a : WredArgs) : Statement (.wred a) := rfl
theorem derivx (a : DerivArgs) : Statement (.derivx a) := rfl
theorem derivy (a : DerivArgs) : Statement (.derivy a) := rfl
theorem interp (a : PlaneArgs) : Statement (.interp a) := rfl
theorem ldstat (a : LdstatArgs) : Statement (.ldstat a) := rfl
theorem ldstatw (a : LdstatArgs) : Statement (.ldstatw a) := rfl
theorem swappl (a : H0) : Statement (.swappl a) := rfl
theorem mstream (a : MstreamArgs) : Statement (.mstream a) := rfl
theorem mstreams (a : MstreamArgs) : Statement (.mstreams a) := rfl
theorem mstreamc (a : MstreamcArgs) : Statement (.mstreamc a) := rfl
theorem matrixRow (wave frag : Nat) : Statement (.matrixRow wave frag) := rfl
theorem mckvChk (a : MckvArgs) : Statement (.mckvChk a) := rfl
theorem mckvFix (a : MckvArgs) : Statement (.mckvFix a) := rfl
theorem mckvBase (a : MckvArgs) : Statement (.mckvBase a) := rfl
theorem accz (a : AcczArgs) : Statement (.accz a) := rfl
theorem acczAll (a : AcczArgs) : Statement (.acczAll a) := rfl
theorem accrd (a : AccrwArgs) : Statement (.accrd a) := rfl
theorem accwr (a : AccrwArgs) : Statement (.accwr a) := rfl
theorem accld (a : AccldArgs) : Statement (.accld a) := rfl
theorem accst (a : AccstArgs) : Statement (.accst a) := rfl
theorem accsclRow (a : AccsclRowArgs) : Statement (.accsclRow a) := rfl
theorem accsclCol (a : AccsclColArgs) : Statement (.accsclCol a) := rfl
theorem accredSum (a : AccredArgs) : Statement (.accredSum a) := rfl
theorem accredMax (a : AccredArgs) : Statement (.accredMax a) := rfl
theorem accredTile (a : AccredTileArgs) : Statement (.accredTile a) := rfl
theorem mdld (a : MdldArgs) : Statement (.mdld a) := rfl
theorem rastri (a : RastriArgs) : Statement (.rastri a) := rfl
theorem traverse (a : TraverseArgs) : Statement (.traverse a) := rfl
theorem filter (a : FilterArgs) : Statement (.filter a) := rfl
theorem oblend (a : OblendArgs) : Statement (.oblend a) := rfl
theorem shadeq (a : BlkRecArgs) : Statement (.shadeq a) := rfl
theorem hitsort (a : HitsortArgs) : Statement (.hitsort a) := rfl
theorem anyhitNext (a : AnyhitArgs) : Statement (.anyhitNext a) := rfl
theorem anyhitAcc (a : AnyhitArgs) : Statement (.anyhitAcc a) := rfl
theorem anyhitTerm (a : AnyhitArgs) : Statement (.anyhitTerm a) := rfl
theorem anyhitCommit (a : AnyhitCommitArgs) : Statement (.anyhitCommit a) := rfl
theorem gqpush (a : BlkRecArgs) : Statement (.gqpush a) := rfl
theorem gqpushClose (a : BlkRecArgs) : Statement (.gqpushClose a) := rfl
theorem gqpop (a : BlkRecArgs) : Statement (.gqpop a) := rfl
theorem hizq (a : HizqArgs) : Statement (.hizq a) := rfl
theorem macroPrim (a : MacroArgs) : Statement (.macroPrim a) := rfl
theorem bop (a : BopArgs) : Statement (.bop a) := rfl
theorem sequencerStep (wave frag lane : Nat) : Statement (.sequencerStep wave frag lane) := rfl
theorem macroWaitSatisfied (wave frag lane : Nat) : Statement (.macroWaitSatisfied wave frag lane) := rfl
theorem bucketAgeRelease (core bucket : Nat) : Statement (.bucketAgeRelease core bucket) := rfl
theorem pourRingPass (core bucket : Nat) : Statement (.pourRingPass core bucket) := rfl
theorem eretRetry (a : H0) : Statement (.eretRetry a) := rfl
theorem eretSkip (a : H0) : Statement (.eretSkip a) := rfl
theorem eretExit (a : H0) : Statement (.eretExit a) := rfl
theorem eretExitall (a : H0) : Statement (.eretExitall a) := rfl
theorem srwrp (a : SrwrpArgs) : Statement (.srwrp a) := rfl
theorem tlbinvPage (a : Ab) : Statement (.tlbinvPage a) := rfl
theorem tlbinvPasid (a : Ax) : Statement (.tlbinvPasid a) := rfl
theorem tlbinvIpa (a : Ab) : Statement (.tlbinvIpa a) := rfl
theorem tlbinvFunc (a : Ax) : Statement (.tlbinvFunc a) := rfl
theorem tlbinvDom (a : Ax) : Statement (.tlbinvDom a) := rfl
theorem tlbinvAll (a : H0) : Statement (.tlbinvAll a) := rfl
theorem tlbinvComplete (wave frag : Nat) : Statement (.tlbinvComplete wave frag) := rfl
theorem domsetEnd (a : Ax) : Statement (.domsetEnd a) := rfl
theorem domsetStat (a : Ab) : Statement (.domsetStat a) := rfl
theorem finjAcc (a : Ax) : Statement (.finjAcc a) := rfl
theorem finjAccue (a : Ax) : Statement (.finjAccue a) := rfl
theorem finjSpue (a : Ax) : Statement (.finjSpue a) := rfl
theorem finjLineue (a : Ax) : Statement (.finjLineue a) := rfl
theorem finjReplay (a : H0) : Statement (.finjReplay a) := rfl
theorem finjSig (a : H0) : Statement (.finjSig a) := rfl
theorem mcload (a : Ab) : Statement (.mcload a) := rfl
theorem mcloadDone (wave frag : Nat) : Statement (.mcloadDone wave frag) := rfl
theorem sigcmpCmp (a : Ab) : Statement (.sigcmpCmp a) := rfl
theorem sigcmpRd (a : Ax) : Statement (.sigcmpRd a) := rfl
theorem halt (a : H0) : Statement (.halt a) := rfl
theorem asyncCauseEntry (wave : Nat) : Statement (.asyncCauseEntry wave) := rfl
theorem memoryResponse (key : Nat) (remote : List W128) (mark : Option (Fin 16)) : Statement (.memoryResponse key remote mark) := rfl
theorem binAgeRelease (core bin : Nat) : Statement (.binAgeRelease core bin) := rfl
theorem packetAccept (src : PktSrc) : Statement (.packetAccept src) := rfl
theorem gangAdmission (gang : Nat) : Statement (.gangAdmission gang) := rfl
theorem phaseAdmission (gang : Nat) : Statement (.phaseAdmission gang) := rfl
theorem admissionThrottle (core : Nat) : Statement (.admissionThrottle core) := rfl
theorem timeSliceEnd (gang : Nat) : Statement (.timeSliceEnd gang) := rfl
theorem preemptionRequest (gang : Nat) : Statement (.preemptionRequest gang) := rfl
theorem drainCut (core : Nat) : Statement (.drainCut core) := rfl
theorem evictionSave (core : Nat) : Statement (.evictionSave core) := rfl
theorem waveRestore (core : Nat) : Statement (.waveRestore core) := rfl
theorem launchCompletion (lid : Nat) : Statement (.launchCompletion lid) := rfl
theorem rotationRound (die : Nat) : Statement (.rotationRound die) := rfl
theorem cuppingTestDone (die : Nat) (pass : Bool) : Statement (.cuppingTestDone die pass) := rfl
theorem replayWindow (die : Nat) : Statement (.replayWindow die) := rfl
theorem lateTransition (core slot : Nat) : Statement (.lateTransition core slot) := rfl
theorem ueDetected (site : UeSite) : Statement (.ueDetected site) := rfl
theorem wsRefreshWindow (die bank : Nat) (fixed : Nat) (bad : List Nat) : Statement (.wsRefreshWindow die bank fixed bad) := rfl
theorem wsSealEffect (region : Nat) : Statement (.wsSealEffect region) := rfl
theorem sweeperVisit (block : Nat) : Statement (.sweeperVisit block) := rfl
theorem faultResponse (func : Nat) : Statement (.faultResponse func) := rfl
theorem faultTmoExpiry (func fid : Nat) : Statement (.faultTmoExpiry func fid) := rfl
theorem remoteAccessTimeout (key : Nat) (refused : Bool) : Statement (.remoteAccessTimeout key refused) := rfl
theorem ethernetFrame (frame : Frame) : Statement (.ethernetFrame frame) := rfl
theorem rdmaWrite (func j : Nat) : Statement (.rdmaWrite func j) := rfl
theorem rdmaRead (func j : Nat) : Statement (.rdmaRead func j) := rfl
theorem rdmaNotifyWrite (func j : Nat) : Statement (.rdmaNotifyWrite func j) := rfl
theorem rdmaFaultResponseWrite (func j : Nat) : Statement (.rdmaFaultResponseWrite func j) := rfl
theorem rdmaUnsupported (func j : Nat) : Statement (.rdmaUnsupported func j) := rfl
theorem qpRetryExceeded (func j : Nat) : Statement (.qpRetryExceeded func j) := rfl
theorem hostPortLinkDown (port : Nat) : Statement (.hostPortLinkDown port) := rfl
theorem flitReceive (port : Nat) (flit : List Byte) : Statement (.flitReceive port flit) := rfl
theorem peerLaunchPacket (sender func q : Nat) (packet : List W64) : Statement (.peerLaunchPacket sender func q packet) := rfl
theorem domainRequest (sender : Nat) (req : DomReq) : Statement (.domainRequest sender req) := rfl
theorem frarokLaneFailure (port lane : Nat) : Statement (.frarokLaneFailure port lane) := rfl
theorem retrainDone (port : Nat) (failed : BitVec 9) (peer : BitVec 8) : Statement (.retrainDone port failed peer) := rfl
theorem powerOn (inputs : BootInputs) : Statement (.powerOn inputs) := rfl
theorem powerPeriod (mw tj : Nat) : Statement (.powerPeriod mw tj) := rfl
theorem thermal105 (tj : Nat) : Statement (.thermal105 tj) := rfl
theorem thermalStop (tj : Nat) : Statement (.thermalStop tj) := rfl
theorem getVersion : Statement (.getVersion) := rfl
theorem getCapabilities : Statement (.getCapabilities) := rfl
theorem negotiateAlgorithms : Statement (.negotiateAlgorithms) := rfl
theorem getDigests : Statement (.getDigests) := rfl
theorem getCertificate (slot offset len : Nat) : Statement (.getCertificate slot offset len) := rfl
theorem challenge (slot : Nat) (nonce : List Byte) : Statement (.challenge slot nonce) := rfl
theorem getMeasurements (index : Nat) : Statement (.getMeasurements index) := rfl
theorem spdmUnsupportedRequest (code : Nat) : Statement (.spdmUnsupportedRequest code) := rfl
theorem functionTableWrite (func word : Nat) (v : W64) : Statement (.functionTableWrite func word v) := rfl
theorem frst (func : Nat) : Statement (.frst func) := rfl
theorem regionSealWrite (region : Nat) (v : W64) : Statement (.regionSealWrite region v) := rfl
theorem domend (v : W64) : Statement (.domend v) := rfl
theorem haltrel (v : W64) : Statement (.haltrel v) := rfl
theorem fswCtlWrite (block : Nat) (v : W64) : Statement (.fswCtlWrite block v) := rfl
theorem fswStatClear (block : Nat) (v : W64) : Statement (.fswStatClear block v) := rfl
theorem fqctlWrite (func : Nat) (v : W64) : Statement (.fqctlWrite func v) := rfl
theorem fqrespWrite (func : Nat) (v : W64) : Statement (.fqrespWrite func v) := rfl
theorem fqstatClear (func : Nat) (v : W64) : Statement (.fqstatClear func v) := rfl
theorem counterClear (addr : Nat) : Statement (.counterClear addr) := rfl
theorem fpctlRetrain (port : Nat) : Statement (.fpctlRetrain port) := rfl
theorem pwrcapWrite (v : W64) : Statement (.pwrcapWrite v) := rfl
theorem mrreadWrite (v : W64) : Statement (.mrreadWrite v) := rfl
theorem queueEntryWrite (func q word : Nat) (v : W64) : Statement (.queueEntryWrite func q word v) := rfl
theorem registerWrite (addr : Nat) (v : W64) : Statement (.registerWrite addr v) := rfl
theorem waitingWorkClass7 (gang : Nat) : Statement (.waitingWorkClass7 gang) := rfl
theorem qpRetransmitTimeout (func j : Nat) : Statement (.qpRetransmitTimeout func j) := rfl
theorem tileOperationComplete (key : Nat) : Statement (.tileOperationComplete key) := rfl
theorem storePerformed (key : Nat) : Statement (.storePerformed key) := rfl
theorem microcodeStoreReload (core : Nat) : Statement (.microcodeStoreReload core) := rfl
theorem degradedClusterTest (die phys : Nat) (pass : Bool) : Statement (.degradedClusterTest die phys pass) := rfl
theorem hbm4ChannelCopyDone (stack : Nat) : Statement (.hbm4ChannelCopyDone stack) := rfl
theorem memoryChannelFailure (ddr : Bool) (stack channel : Nat) : Statement (.memoryChannelFailure ddr stack channel) := rfl
theorem domainEndingDone : Statement (.domainEndingDone) := rfl
theorem functionResetDone (func : Nat) : Statement (.functionResetDone func) := rfl

end Sys2Proof.Laws.Encoding
end

