-- ==== Sys2Proof/Tests/Slice0.lean ====
section
/-!
SUPPORT. Tests: terms that are not well formed, words written out from the spec's encodings, the spec's worked examples, and
for every obligation with hypotheses states and operands that meet them.
-/

set_option Elab.async false

namespace Sys2Proof.Tests

open Sys2Proof Sys2Proof.Machine

/-! ### Terms that are not well formed (spec 06, R137; spec 03, R55 to R57) -/

def h0 : Hdr := { b := false, guard := 7, neg := false }

def m0 : MemOp := { ix := .z, brec := 0, off := 0, str := 0 }

def m8 : MemOp8 := { ix := .z, brec := 0, off := 0, str := 0 }

/-- A mask register where a 32-bit source must stand; an odd pair, and the pair above g252. -/
theorem test_wf_sources : (Instr.mov { h := h0, wide := false, d := .g 1, s1 := .k 0 }).wf = false
    ∧ (Instr.mov { h := h0, wide := true, d := .g 2, s1 := .g 3 }).wf = false
    ∧ (Instr.mov { h := h0, wide := true, d := .g 2, s1 := .g 254 }).wf = false
    ∧ (Instr.mov { h := h0, wide := true, d := .g 2, s1 := .w 31 }).wf = false
    ∧ (Instr.shl { h := h0, wide := true, d := .g 2, s1 := .g 4, s2 := .k 1 }).wf = false := by decide

/-- A wave-uniform register where only a general one may be written; an odd destination pair. -/
theorem test_wf_destinations : (Instr.mov { h := h0, wide := false, d := .w 1, s1 := .g 1 }).wf = false
    ∧ (Instr.mov { h := h0, wide := true, d := .g 5, s1 := .g 2 }).wf = false
    ∧ (Instr.movhi { h := h0, d := .g 5, imm := 0 }).wf = false
    ∧ (Instr.popc { h := h0, wide := true, d := .w 0, s1 := .g 2 }).wf = false
    ∧ (Instr.imulws { h := h0, d := .g 3, s1 := .g 1, s2 := .g 2 }).wf = false
    ∧ (Instr.lea { h := h0, sx := false, sh := 0, d := .g 3, s1 := .g 2, s2 := .g 1 }).wf = false
    ∧ (Instr.unpk2 { h := h0, slot := 0, hi := false, d := .g 3, s1 := .g 1 }).wf = false
    ∧ (Instr.accredSum { h := h0, acc := 0, slot := 0, d := .z }).wf = false := by decide

/-- `WMOV` writes a wave-uniform register, an even pair of them in the 64-bit form. -/
theorem test_wf_wmov : (Instr.wmov { h := h0, wide := false, d := .g 1, s1 := .g 1 }).wf = false
    ∧ (Instr.wmov { h := h0, wide := true, d := .w 1, s1 := .g 2 }).wf = false := by decide

/-- Mask operands and mask destinations; `KBALLOT` writes no wave-uniform register, and a scan writes each lane. -/
theorem test_wf_masks : (Instr.kset { h := h0, d := .w 0, imm := 0 }).wf = false
    ∧ (Instr.kpopc { h := h0, flag := false, d := .g 1, m := .g 1 }).wf = false
    ∧ (Instr.kpopc { h := h0, flag := false, d := .k 1, m := .k 1 }).wf = false
    ∧ (Instr.klop { h := h0, table := 0, d := .g 1, ma := .k 0, mb := .k 0, mc := .k 0 }).wf = false
    ∧ (Instr.kballot { h := h0, neg := false, ps := 0, d := .w 1, m := .k 0 }).wf = false
    ∧ (Instr.wred { h := h0, op := .add, scan := true, d := .w 1, s1 := .g 1, m := .k 0 }).wf = false
    ∧ (Instr.shfl { h := h0, wide := false, mode := .idx, pd := 0, d := .g 1, s1 := .g 1, s2 := .g 1, m := .g 1 }).wf
      = false := by decide

/-- General registers alone: the pair of a target, a quadruple, eight registers, a triple and a copy's token. -/
theorem test_wf_general : (Instr.brx { h := h0, t := .z }).wf = false
    ∧ (Instr.brset { h := h0, target := 0, q := .g 6 }).wf = false
    ∧ (Instr.brset { h := h0, target := 0, q := .g 252 }).wf = false
    ∧ (Instr.fork { h := h0, a := .g 2, b := .g 4 }).wf = false
    ∧ (Instr.fork { h := h0, a := .w 2, b := .g 8 }).wf = false
    ∧ (Instr.interp { h := h0, d := .g 1, s1 := .g 253, s2 := .g 2, persp := none }).wf = false
    ∧ (Instr.interp { h := h0, d := .g 1, s1 := .g 4, s2 := .g 2, persp := some .z }).wf = false
    ∧ (Instr.anyhitNext { h := h0, sb := .g 32, rb := 0, x := .g 2, str := 0 }).wf = false
    ∧ (Instr.mckvChk { h := h0, acc := 0, d := .g 1 }).wf = false := by decide

/-- Fields that depend on one another: a combining predicate without a combination, a shift of 32 in the 32-bit form, sign
extension of a 4-byte load, a 2-byte `LDWS`, a load's register count. -/
theorem test_wf_fields :
    (Instr.icmps { h := h0, wide := false, cc := .eq, comb := .none, pd := 0, pm := 1, d := .z, s1 := .z, s2 := .z }).wf = false
    ∧ (Instr.fcmp { h := h0, cc := .eq, comb := .none, pd := 0, pm := 1, d := .z, s1 := .z, s2 := .z }).wf = false
    ∧ (Instr.shli { h := h0, wide := false, d := .g 1, s1 := .g 1, sh := 32 }).wf = false
    ∧ (Instr.ld { h := h0, sx := true, width := .b32, cache := .normal, d := .g 1, m := m0 }).wf
      = false
    ∧ (Instr.lds { h := h0, sx := true, width := .b64, d := .g 2, m := m0 }).wf = false
    ∧ (Instr.ldws { h := h0, width := .b16, d := .g 1, m := m0 }).wf = false
    ∧ (Instr.ld { h := h0, sx := false, width := .b128, cache := .normal, d := .g 2, m := m0 }).wf
      = false
    ∧ (Instr.st { h := h0, width := .b64, cache := .normal, data := .g 3, m := m0 }).wf
      = false := by decide

/-- Scope 0 with an order; scope 0 of `ACQ` and `REL`; the count of `ACCRD`; the scales of streams. -/
theorem test_wf_scopes :
    (Instr.atom { h := h0, nr := false, wide := false, op := .add, d := .g 1, m := m8, scope := .thr, order := .acq }).wf = false
    ∧ (Instr.cas { h := h0, d := .g 3, m := m8, scope := .dev, order := .acq }).wf = false
    ∧ (Instr.acq { h := h0, wide := false, scr := false, d := .g 1, ix := .z, brec := 0, scope := .thr, smask := 1, paths := 1 }).wf
      = false
    ∧ (Instr.rel { h := h0, wide := true, scr := false, d := .z, ix := .z, brec := 0, scope := .dev, smask := 1, paths := 1 }).wf
      = false
    ∧ (Instr.accrd { h := h0, acc := 0, n := .x4, d := .g 2, ix := .z }).wf = false
    ∧ (Instr.mstreams { h := h0, z := false, acc := 0, slot := 0, brec := 0, ix := .z, gp := .g 1, sc := .g 2, str := 0 }).wf
      = false := by decide

/-! ### Words written out from the spec's encodings -/

/-- spec 07, R169: `lop3 g3, g4, g5, g6, 0xD8`. Opcode 0x1E, guard `p7`, D 3, S1 4, S2 5, S3 6, the table's low four bits in
AUX and MOD's place as R162 gives them. -/
theorem test_decode_lop3 : decode 0x1E70_0C08_0503_06C0
    = .lop3 { h := h0, wide := false, d := .g 3, s1 := .g 4, s2 := .g 5, s3 := .g 6, table := 0xD8 } := by decide

/-- spec 07, R164: `iadd` under guard `p2`, and `nop`, whose word is its header. -/
theorem test_decode_integer : decode 0x0420_1C0E_0900_0038
      = .iadd { h := { h0 with guard := 2 }, wide := false, d := .g 7, co := 7, s1 := .g 7, s2 := .g 9 }
    ∧ decode 0x0070_0000_0000_0000 = .nop { h := h0 }
    ∧ decode 0x0570_180C_FFFF_FFFF = .iaddi { h := h0, wide := false, d := .g 6, s1 := .g 6, imm := 0xFFFF_FFFF } := by decide

/-- spec 06, R142, R143: the formats of loads and atomics. -/
theorem test_decode_memory : decode 0x4870_200E_4002_0080
      = .ld { h := h0, sx := false, width := .b32, cache := .normal, d := .g 8, m := { ix := .g 7, brec := 2, off := 16, str := 0 } }
    ∧ decode 0x4E70_140E_602B_0080
      = .atom { h := h0, nr := false, wide := false, op := .add, d := .g 5,
                m := { ix := .g 7, brec := 3, off := 1, str := 0 }, scope := .dev, order := .rel } := by decide

/-- spec 06, R144: the offset of a branch, with a run boundary. -/
theorem test_decode_control : decode 0x3AF0_0000_FFFF_FFFE = .bra { h := { h0 with b := true }, off := 0xFFFF_FFFE }
    ∧ decode 0x4070_0000_0000_0000 = .yield { h := h0 } := by decide

/-- spec 09, R234, R250: a product, a sum, a matrix stream with its guard. -/
theorem test_decode_vector_matrix : decode 0x8370_100A_0603_9000 = .ffma { h := h0, d := .g 4, s1 := .g 5, s2 := .g 6, s3 := .g 7 }
    ∧ decode 0x8270_2810_0900_1000 = .fmul { h := h0, d := .g 10, s1 := .g 8, s2 := .g 9 }
    ∧ decode 0xB510_0405_02C0_0000
      = .mstreamc { h := { h0 with guard := 1 }, acc := 0, slot := 0, brec := 4, ix := .g 10, gp := .g 11, sc := .g 0,
                    str := 0 } := by decide

/-- spec 10, R270; spec 17, R397; spec 19, R436: a macro-instruction, a return from the handler, a privileged form. -/
theorem test_decode_macro_system : decode 0xD370_A0C8_0000_0000
      = .oblend { h := h0, sb := .g 40, ra := 3, rb := 2, zsrc := .g 0, df := .lt, str := 0 }
    ∧ decode 0xF070_0000_0000_1000 = .eretExit { h := h0 }
    ∧ decode 0xF370_1408_0000_0800 = .domsetStat { h := h0, a := .g 5, b := .g 4 } := by decide

/-- Words that are no instruction (spec 06, R137; spec 18, R408): an unassigned opcode, a reserved operand class, a reserved
width. -/
theorem test_decode_refuses : decode 0x4420_100C_0000_0005 = .unassignedOpcode 0x4420_100C_0000_0005 0
    ∧ decode 0x0174_A000_0000_0000 = .unassignedOpcode 0x0174_A000_0000_0000 8
    ∧ decode 0x0170_0258_0000_0000 = .unassignedOpcode 0x0170_0258_0000_0000 9 := by decide

/-! ### The spec's worked examples, on the functions that compute them -/

/-- spec 05, R124, the worked conversions to BF16. -/
theorem test_conversions_bf16 : roundTo .bf16 .rne false (FR.ofBits .f32 0x3F80_8000) = 0x3F80
    ∧ roundTo .bf16 .rne false (FR.ofBits .f32 0x3F81_8000) = 0x3F82
    ∧ roundTo .bf16 .rup false (FR.ofBits .f32 0x3F80_8000) = 0x3F81 := by decide +kernel

/-- spec 05, R124, the worked conversions to FP8 formats, FP16 and FP32. -/
theorem test_conversions_fp8 : roundTo .e4m3 .rne false (FR.ofBits .f32 0x4396_0000) = 0x79
    ∧ roundTo .e5m2 .rne false (FR.ofBits .f32 0x4396_0000) = 0x5D
    ∧ roundTo .e4m3 .rne false (FR.ofBits .f32 0x43FA_0000) = 0x7F
    ∧ roundTo .e4m3 .rne true (FR.ofBits .f32 0x43FA_0000) = 0x7E
    ∧ roundTo .e4m3 .rtz false (FR.ofBits .f32 0x43FA_0000) = 0x7E
    ∧ roundTo .e4m3 .rne false (FR.ofBits .f32 0x3C23_D70A) = 0x05
    ∧ roundTo .e5m2 .rne false (FR.ofBits .f32 0xC788_B800) = 0xFC
    ∧ roundTo .e5m2 .rne true (FR.ofBits .f32 0xC788_B800) = 0xFB
    ∧ roundTo .f16 .rne false (FR.ofBits .f32 0x7F80_0001) = 0x7E00
    ∧ roundTo .f32 .rne false (FR.ofBits .e5m2 0x5D) = 0x43A0_0000 := by decide +kernel

/-- spec 05, R124, the worked conversions to an integer. -/
theorem test_conversions_int : toIntClamp .rne (-128) 127 (FR.ofBits .f32 0xC06C_CCCD) = -4
    ∧ toIntClamp .rne (-128) 127 (FR.ofBits .f32 0x447A_2000) = 127
    ∧ toIntClamp .rne (-128) 127 (FR.ofBits .f32 0x7FC0_0000) = 0 := by decide +kernel

/-- spec 07, R173: the worked selectors, the byte swap and the reversal of a value. -/
theorem test_prmt_examples : prmtNat 0x80 0x12 0x1800_1004 = 0x0180_FF12 ∧ prmtNat 0x1234_5678 0 0x0001_0203 = 0x7856_3412
    ∧ prmtNat 1 0 0x1819_1A1B = 0x8000_0000 := by decide +kernel

/-- spec 03, R65: elements 37 and 38 of the record. -/
theorem test_record_address : elemAddr 0xA200_0000_0000_1000_0000_7F00_0010_0000 37 = 0x7F00_0010_0084
    ∧ elemAddr 0xA200_0000_0000_1000_0000_7F00_0010_0000 38 = 0x7F00_0010_0088 := by decide +kernel

/-- spec 19, R441: the four words of the record of gang 4. -/
theorem test_error_record :
    let r : ErrInfo :=
      { cause := 0x142, action := 1, relq := true, func := 3, pasid := 0x42, domain := 0x012, core := 150, lrec := 0x4000_0100,
        gang := 4, queue := 43, etag := 0x00A5 }
    (r.bytes 7 0).take 32 = toBytes 8 0x0000_0007_4100_0142 ++ toBytes 8 0x0120_0042_0030_0096 ++ toBytes 8 0x0000_0000_4000_0100
      ++ toBytes 8 0x0000_0004_002B_00A5 := by decide +kernel

/-- The launch record of `fill_index` (spec 11, R305). -/
def fillIndex : List W64 :=
  [0x1000_0048_0040_0000, 0x5, 0x1F, 0, 0, 0x0000_0020_0000_0208, 0, 0, 0, 0, 0, 0, 0, 0, 0, 0, 0, 0, 0x4, 0, 0, 0, 0, 0, 0, 0, 0, 0, 0]

/-- spec 11, R305: the record is accepted with a record for `b2`, and not with an extent above its width. -/
theorem test_launch_record : recordOk fillIndex [(2, 0xA200_0000_0000_1000_0000_7F00_0010_0000)] none = true
    ∧ recordOk (fillIndex.set 2 0x3F) [(2, 0xA200_0000_0000_1000_0000_7F00_0010_0000)] none = false
    ∧ lrThreads fillIndex = 32 := by decide +kernel

/-- The two-slot ring of spec 08, R217. -/
def ring0 : RingDesc :=
  { cfree := 0, cwait := 0, pcom := 0, pacq := 0, free := 3, phase := 0, nslot := 2, slotb := 256, base := 0x100, reserved := false }

/-- spec 08, R217: the ring step by step. -/
theorem test_ring_steps :
    let r2 := { ring0 with free := 0, pacq := 0x10 }
    let r4 := { r2 with phase := 1, pcom := 1 }
    ring0.run .acq = some ({ ring0 with free := 2, pacq := 1 }, some 0x100)
      ∧ ({ ring0 with free := 2, pacq := 1 } : RingDesc).run .acq = some (r2, some 0x200) ∧ r2.run .acq = none
      ∧ r2.run .commit = some (r4, none) ∧ r4.run .wait = some ({ r4 with cwait := 1 }, some 0x100)
      ∧ ({ r4 with cwait := 1 } : RingDesc).run .free = some ({ r4 with cwait := 1, cfree := 1, free := 1 }, none)
      ∧ ({ r4 with cwait := 1, cfree := 1, free := 1 } : RingDesc).run .acq
        = some ({ r4 with cwait := 1, cfree := 1, free := 0, pacq := 0x11 }, some 0x100) := by decide +kernel

/-- spec 12, R333: the blended element. -/
theorem test_blend_example : blend 0x003C_321A [0x3F80_0000, 0x3F00_0000, 0x3E80_0000, 0x3F00_0000] 0xFF00_0000 = 0xFF20_4080 := by
  decide +kernel

/-- The check value of the CRC-32 of IEEE 802.3 (spec 13, R351). -/
theorem test_crc_check : crc32 ("123456789".toList.map (fun c => BitVec.ofNat 8 c.toNat)) = 0xCBF4_3926 := by decide +kernel

/-- The primes below 312, of which there are 64. -/
def primes : List Nat := (List.range 312).filter (fun p => 2 ≤ p && (List.range 18).all (fun d => d < 2 || p ≤ d || p % d != 0))

/-- The constants are 32 bits of the fractions of roots of primes: each is the greatest whose root does not exceed the prime. -/
theorem test_shaConsts : primes.length = 64
    ∧ primes.zipIdx.all (fun e => (List.range 7).any (fun c => let n := c * 2 ^ 32 + (shaK e.2).toNat
        n ^ 3 ≤ e.1 * 2 ^ 96 && e.1 * 2 ^ 96 < (n + 1) ^ 3)) = true
    ∧ ((primes.take 8).zip shaInit).all (fun e => (List.range 5).any (fun c => let n := c * 2 ^ 32 + e.2.toNat
        n ^ 2 ≤ e.1 * 2 ^ 64 && e.1 * 2 ^ 64 < (n + 1) ^ 2)) = true := by decide +kernel

/-- SHA-256 of the empty message (FIPS 180-4). -/
theorem test_sha_check : ofBytesBE (sha256 []) = 0xE3B0C44298FC1C149AFBF4C8996FB92427AE41E4649B934CA495991B7852B855 := by decide +kernel

/-! ### Small states

`at' w` has one launch (key 1) of one gang (2), whose one group (3) has one wave (4) with one thread (5) in lane 0, ready at
the word `w` (log 45). -/

def at' (w : Nat) : State := { State.reset.withFetchWord 64 w with cur := (4, 0) }

/-- The word of an instruction. -/
def wordOf (i : Instr) : Nat := ((encode i).getD 0).toNat

/-- The same with the word of `i`. -/
def for' (i : Instr) : State := at' (wordOf i)

def regs (l : List (Nat × Nat)) (s : State) : State :=
  s.updThread 5 (fun t => l.foldl (fun t e => t.setReg e.1 (BitVec.ofNat 32 e.2)) t)

/-- Buffer record `n` of the group. -/
def record (n : Nat) (r : W128) (s : State) : State := s.updGroup 3 (fun g => { g with bufs := Map.put g.bufs n r })

/-- A usable handler vector, so that the group can take a cause. -/
def vec (s : State) : State := s.updGroup 3 (fun g => { g with hvec := 0x1100 })

/-- A fragment of `n` lanes. -/
def lanes (n : Nat) (s : State) : State :=
  let m : Mask := BitVec.ofNat 32 (2 ^ n - 1)
  { s.updWave 4 (fun v => { v with frags := v.frags.map (fun f => { f with mask := m }) }) with
    threads := (List.range n).filterMap (fun i => (Map.find s.threads 5).map (fun t => (5 + i, { t with place := some (4, i) })))
    nextKey := 100 }

/-- The wave's lanes in two fragments at the same address. -/
def apart (a b : Mask) (s : State) : State :=
  s.updWave 4 (fun v => { v with frags := v.frags.flatMap (fun f => [{ f with mask := a }, { f with mask := b }]) })

/-- The threads of `s`, changed. -/
def each' (f : Nat → Thread → Thread) (s : State) : State := { s with threads := s.threads.map (fun e => (e.1, f e.1 e.2)) }

/-- 4,096 packed elements of 4 bytes from address 0x2000, strict. -/
def rec4 : W128 := 0x8200_0000_0000_1000_0000_0000_0000_2000

/-- The same with elements of 16 bytes, not strict. -/
def rec16 : W128 := 0x0400_0000_0000_0040_0000_0000_0000_2000

/-! ### What the witnesses show -/

/-- `i` issues in `s` with its own effect, and the fragment meets `p`. -/
def meets (i : Instr) (s : State) (p : Iss → Bool) : Bool :=
  match s.issuer i with
  | none => false
  | some x => !s.stalled x && !x.v.replay && x.on != 0 && s.stage1 x.g x.fr.hnd i == [] && x.v.regionCause == none
      && !(strictReads i && (usesOf i).any (Use.invalid x.v)) && !s.sigDiffers x && !s.waitsBefore x.w x.v x.fr.mask x.on i && p x

theorem meets_sound {i : Instr} {s : State} {p : Iss → Bool} (h : meets i s p = true) : ∃ x, Issues i s x ∧ p x = true := by
  unfold meets at h
  split at h
  · cases h
  · rename_i x hx
    simp only [Bool.and_eq_true, Bool.not_eq_true', bne_iff_ne, beq_iff_eq] at h
    obtain ⟨⟨⟨⟨⟨⟨⟨⟨a, b⟩, c⟩, d⟩, e⟩, f⟩, g⟩, j⟩, k⟩ := h
    exact ⟨x, ⟨hx, a, b, c, d, e, f, g, j⟩, k⟩

/-- `p` of every active lane, as `EachActive` has it. -/
def each (s : State) (x : Iss) (p : Nat → Thread → Bool) : Bool :=
  (lanesOf x.on).all (fun l => match s.laneThread x.w l with
    | some u => p l u
    | none => true)
  && s.threads.all (fun e => match e.2.place with
    | some (w, l) => w != x.w || !x.on.getLsbD l || p l e.2
    | none => true)

theorem each_sound {s : State} {x : Iss} {p : Nat → Thread → Bool} (h : each s x p = true) :
    EachActive s x (fun l u => p l u = true) := by
  simp only [each, Bool.and_eq_true, List.all_eq_true] at h
  refine ⟨fun l u hl hu => ?_, fun e he l hp hl => ?_⟩
  · have hm : l ∈ lanesOf x.on := List.mem_filter.mpr ⟨List.mem_range.mpr (BitVec.lt_of_getLsbD hl), hl⟩
    have := h.1 l hm
    rw [hu] at this
    exact this
  · have := h.2 e he
    rw [hp] at this
    simpa [hl] using this

/-- Every word of a list issues with its own effect. -/
def issue (l : List Nat) : Bool := l.all (fun w => meets (decode (BitVec.ofNat 64 w)) (at' w) (fun _ => true))

theorem issue_sound {l : List Nat} (h : issue l = true) :
    ∀ w ∈ l, ∃ x, Issues (decode (BitVec.ofNat 64 w)) (at' w) x := fun w hw => by
  obtain ⟨x, hx, -⟩ := meets_sound (List.all_eq_true.mp h w hw)
  exact ⟨x, hx⟩

/-- The wave can take a cause (`CanTrap`). -/
def traps (x : Iss) : Bool := x.fr.hnd == false && hvecOk x.g.hvec

/-- The thread after one step. -/
def after (s : State) : Option Thread :=
  match step s with
  | .next t => Map.find t.threads 5
  | _ => none

/-- `p` of the state after one step. -/
def stepped (s : State) (p : State → Bool) : Bool :=
  match step s with
  | .next t => p t
  | _ => false

/-! ### States and operands that meet the hypotheses of each obligation

The lists hold one word of each instruction named, under the guard `p7`. -/

theorem witness_DecodeEncode :
    (Instr.nop { h := h0 }).wf = true ∧ encode (.nop { h := h0 }) = some 0x0070_0000_0000_0000 := by decide

/-- Both choices of `StepRunsDecoded`: the agenda names the issue, and an even cycle chooses it. -/
theorem witness_StepRunsDecoded :
    let run (s : State) : Bool := match Map.find s.waves 4, Map.find s.groups 3 with
      | some v, some g => match v.frags[0]? with
        | some fr => s.chosen 4 0 && s.eligible 4 v fr && (s.pendingEntry 4).isNone && (match s.translate g.ctx fr.pc.toNat .fetch with
          | (.ok tr, t) => !tr.nc && t.paKind tr.pa == .mem && t.poisonAt none (.mem tr.pa) 8 == none
          | _ => false)
        | none => false
      | _, _ => false
    let s := at' 0x0070_0000_0000_0000
    (s.agenda.head? = some (.issue 4 0) ∧ run { s with agenda := s.agenda.tail } = true)
      ∧ ({ s with agenda := [] } : State).issueChoice = some (4, 0) ∧ s.tick % 2 = 0
      ∧ run { s with agenda := [] } = true := by
  decide +kernel

/-- `s` with a load of thread 5 in flight that holds g2. -/
def pending (s : State) : State :=
  { each' (fun _ t => { t with pend := [(2, 9)] }) s with
    flights := [(9, { instr := .nop { h := h0 }, gid := 3, func := 0, pasid := 0, domain := 0, wave := 4, core := 0, path := 0,
                      smask := 1, parts := [], deps := [], recv := [], born := 0, sent := false })] }

/-- The fragment that issues meets `p`, whatever holds the word back. -/
def issuing (i : Instr) (s : State) (p : Iss → Bool) : Bool :=
  match s.issuer i with
  | some x => p x
  | none => false

def movG2 : Instr := .mov { h := h0, wide := false, d := .g 1, s1 := .g 2 }

/-- A scoreboard that holds a word; a guard true in no lane; a word with causes of stage 1; a `NOP` after `FINJ.replay`. -/
theorem witness_IssueDiscipline :
    (let s := pending (for' movG2)
     issuing movG2 s (fun x => s.stalled x) = true)
    ∧ (let i : Instr := .nop { h := { h0 with guard := 0 } }
       issuing i (for' i) (fun x => !(for' i).stalled x && x.on == 0 && !isJoin i && !isCollective i) = true)
    ∧ (let i : Instr := .unassignedOpcode 0x4470_100C_0000_0005 0
       let s := at' 0x4470_100C_0000_0005
       issuing i s (fun x => !s.stalled x && !x.v.replay && x.on != 0 && minCode (s.stage1 x.g x.fr.hnd i) == some 0) = true)
    ∧ (let i : Instr := .nop { h := h0 }
       let s := (for' i).updWave 4 (fun v => { v with replay := true })
       issuing i s (fun x => !s.stalled x && x.v.replay && x.on != 0 && s.stage1 x.g x.fr.hnd i == [] && x.v.regionCause == none
        && !s.sigDiffers x) = true) := by decide +kernel

/-- A cause without a handler, in handler mode and outside it; a privileged word without privilege; `TRAP`, `BKPT` and a word
that is no instruction. -/
theorem witness_TrapsAndKills :
    (let i : Instr := .nop { h := h0 }
     issuing i (at' 0xF070_0000_0000_1000) (fun x => x.fr.mask == 1 && x.fr.hnd) = true
      ∧ issuing i (for' i) (fun x => x.fr.mask == 1 && !x.fr.hnd && !hvecOk x.g.hvec) = true)
    ∧ (let i := decode 0xF370_1408_0000_0800
       let s := (at' 0xF370_1408_0000_0800).updLaunch 1 (fun l => { l with sysPriv := false })
       issuing i s (fun x => decide (0xF0 < opcodeOf i) && !s.stalled x && !x.v.replay && x.on != 0 && !s.privOf x.g) = true)
    ∧ meets (.trap { h := h0, imm := 0x1F }) (vec (at' 0x4270_0000_0000_001F)) traps = true
    ∧ meets (.bkpt { h := h0, imm := 0 }) (vec (at' 0x4370_0000_0000_0000)) traps = true
    ∧ (let i : Instr := .unassignedOpcode 0x4470_100C_0000_0005 0
       let s := vec (at' 0x4470_100C_0000_0005)
       issuing i s (fun x => !s.stalled x && !x.v.replay && x.on != 0 && traps x) = true) := by decide +kernel

theorem witness_Sums : issue
    [0x0470_0000_8400_0000, 0x0670_0010_1000_0000, 0x0770_1038_0000_0010, 0x0870_0010_0000_0000, 0x0570_0000_0000_0080,
     0x0F71_0000_1000_0000] = true := by decide +kernel

theorem witness_Products : issue
    [0x0970_0009_0200_0000, 0x0A71_2000_0000_0000, 0x0B70_0012_0400_0000, 0x0C70_1000_0000_0000, 0x0D70_0000_0000_0000,
     0x0E70_0200_1000_0000] = true := by decide +kernel

/-- Divisors that are not zero, 7 and the 64-bit 7, and a divisor that is zero in lane 1 of two. -/
theorem witness_Divisions :
    let a : DivArgs := { h := h0, wide := true, rem := true, d := .g 2, s1 := .g 4, s2 := .g 6 }
    let s := regs [(6, 7)] (for' (.idivs a))
    meets (.idivs a) s (fun x => each s x (fun _ u => opVal 64 a.s2 x.v u != 0)) = true
      ∧ meets (.idivu a) s (fun x => each s x (fun _ u => opVal 64 a.s2 x.v u != 0)) = true
      ∧ (let s := each' (fun k t => if k = 5 then t.setReg 6 7 else t) (lanes 2 (vec (for' (.idivs a))))
         meets (.idivs a) s (fun x => traps x && x.on == 3 && each s x (fun l u => (opVal 64 a.s2 x.v u == 0) == (l == 1)))
          && meets (.idivu a) s (fun x => traps x && x.on == 3
            && each s x (fun l u => (opVal 64 a.s2 x.v u == 0) == (l == 1)))) = true := by decide +kernel

theorem witness_ExtremesAndLogic : issue
    [0x1270_0000_0000_0000, 0x1370_0000_0000_0000, 0x1470_0000_0000_0000, 0x1571_0080_0000_0000, 0x1671_0040_0000_0000,
     0x1770_0026_0000_0000, 0x1970_0000_0000_0000, 0x1B70_0000_0000_0000, 0x1D70_2000_1200_0000, 0x1871_0100_0200_0000,
     0x1A70_4000_0010_0000, 0x1C72_0000_0000_0310, 0x1E70_000A_0001_8000] = true := by decide +kernel

theorem witness_ShiftsAndBitFields : issue
    [0x1F70_0A00_2000_0800, 0x2072_0000_8000_0000, 0x2170_1844_8800_0000, 0x2270_8820_0000_0000, 0x2370_0000_0000_0000,
     0x2470_0800_0000_0000, 0x2570_4102_0200_0000, 0x2670_0040_0000_0000, 0x2770_0400_0000_0000, 0x2870_0020_0000_0000,
     0x2A70_0802_0000_0000, 0x2970_0000_0100_0000, 0x2B70_280C_8208_0000] = true := by decide +kernel

theorem witness_MovesAndComparisons : issue
    [0x2C72_1080_0C40_0000, 0x0070_0000_0000_0000, 0x0170_2800_0000_0000, 0x0270_0400_4800_0000, 0x0370_0001_0A02_0901,
     0x2E70_0000_0000_0808, 0x2F70_004A_9000_0202, 0x2D70_9080_0000_0040, 0x3070_000C_0000_0000] = true := by decide +kernel

theorem witness_LaneFrame :
    isLaneOnly (decode 0x0470_1C0E_0900_0038) = true ∧ issue [0x0470_1C0E_0900_0038] = true
      ∧ predDest (decode 0x0470_1C0E_0900_0038) = some 7 ∧ destRegsOf (decode 0x0470_1C0E_0900_0038) = [7] := by
  decide +kernel

/-- Both kinds of destination, the first lane with a true guard, and the two writable special registers. -/
theorem witness_MasksAndSpecialRegisters :
    issue
      [0x3270_0208_0000_0040, 0x3370_0204_0000_0000, 0x3574_8000_0100_0000, 0x3674_1200_0000_0000, 0x3870_0000_0000_0004,
       0x3970_00C0_0000_0020] = true
    ∧ opWave (.g 1) = false ∧ opWave (.w 1) = true
    ∧ (let s := for' (.srwr { h := h0, wide := true, s1 := .g 2, idx := 0x86 })
       meets (.srwr { h := h0, wide := true, s1 := .g 2, idx := 0x86 }) s
        (fun x => lowLane x.on == some 0 && (s.laneThread x.w 0).isSome) = true)
    ∧ meets (.klop { h := h0, table := 0x96, d := .k 1, ma := .z, mb := .z, mc := .z })
        (for' (.klop { h := h0, table := 0x96, d := .k 1, ma := .z, mb := .z, mc := .z })) (fun _ => true) = true := by
  decide +kernel

/-- `JoinEnds`. -/
def joinEnds (s : State) (x : Iss) (j : Mask) : Bool :=
  x.on &&& ~~~j == 0 && j &&& ~~~(s.waveLanes x.w) == 0 && x.fr.mask &&& j != 0
    && j &&& ~~~(x.fr.mask ||| s.arrived x.w x.fr.pc j) == 0
    && x.v.frags.all (fun fr => fr.atJoin x.fr.pc j || (match fr.join with
      | some k => x.fr.mask &&& j &&& BitVec.ofNat 32 k == 0
      | none => true))
    && decide (x.v.frags.Pairwise (fun a b => a.mask &&& b.mask = 0))
    && x.v.frags.all (fun fr => !fr.atJoin x.fr.pc j || (match fr.waiting with
      | some wt => wt.on &&& ~~~(fr.mask &&& j) == 0 && wt.vals.all (fun e => (fr.mask &&& j).getLsbD (e.1 % 32))
      | none => true))

/-- Fragment 0 has arrived at the join `i` with its values, and fragment 1 issues. -/
def arriving (i : Instr) (s : State) : State :=
  { (match exec i (apart 1 2 s) with | .next t => t | _ => s) with cur := (4, 1) }

/-- `s` with bits set in a word of its launch record. -/
def setWord (n : Nat) (b : W64) (s : State) : State :=
  s.updLaunch 1 (fun l => { l with words := (l.words ++ List.replicate 32 0).set n (l.words.getD n 0 ||| b) })

/-- The launch is a draw with helper lanes. -/
def drawing (s : State) : State := setWord 0 0x1000_0000_0000 (setWord 5 0x300 s)

def ballot : Instr := .kballot { h := h0, neg := false, ps := 0, d := .k 1, m := .z }

def shfl0 : Instr := .shfl { h := h0, wide := false, mode := .rot, pd := 1, d := .g 1, s1 := .g 2, s2 := .g 3, m := .w 1 }

def wred0 (scan : Bool) : Instr := .wred { h := h0, op := .add, scan := scan, d := if scan then .g 1 else .w 2, s1 := .g 2, m := .w 1 }

/-- Whole waves of one and four lanes, and the second of two fragments of a join that the mask in w1 names. -/
theorem witness_Joins :
    let two (i : Instr) : State := arriving i ((lanes 2 (for' i)).updWave 4 (fun v => { v with wr := [(1, 3)] }))
    let both (i : Instr) : Bool :=
      meets i (two i) (fun x => joinEnds (two i) x 3 && joinSet (maskVal (.w 1) x.v) x.fr == 3#32 && (two i).arrived 4 x.fr.pc 3 == 1)
    meets ballot (for' ballot) (fun x => joinEnds (for' ballot) x (joinSet 0 x.fr)) = true
    ∧ both (.kballot { h := h0, neg := false, ps := 0, d := .k 1, m := .w 1 }) = true
    ∧ both (.kballot { h := h0, neg := false, ps := 0, d := .g 1, m := .w 1 }) = true
    ∧ both shfl0 = true ∧ both (wred0 true) = true ∧ both (wred0 false) = true
    ∧ (let i : Instr := .derivx (.quad { h := h0, fine := true, d := .g 1, s1 := .g 2 })
       let j : Instr := .derivy (.quad { h := h0, fine := false, d := .g 1, s1 := .g 2 })
       let s (k : Instr) : State := drawing (lanes 4 (for' k))
       meets i (s i) (fun x => joinEnds (s i) x (quadSet x.fr.mask)) = true
        ∧ meets j (s j) (fun x => joinEnds (s j) x (quadSet x.fr.mask)) = true) := by
  decide +kernel

/-- A fragment that arrives first, one with a lane outside the join set, one whose set names a lane that has left, and one
without a lane of the set. -/
theorem witness_Joins_waits :
    let s := apart 1 2 (lanes 2 (vec (for' ballot)))
    isJoin ballot = true
      ∧ issuing ballot s (fun x => x.on &&& ~~~(3#32) == 0 && (3#32) &&& ~~~(s.waveLanes x.w) == 0 && x.fr.mask &&& 3#32 != 0
          && (3#32) &&& ~~~(x.fr.mask ||| s.arrived x.w x.fr.pc 3) != 0 && x.v.frags.all (fun fr => fr.join == none)) = true
      ∧ issuing ballot s (fun x => traps x && x.on &&& ~~~(2#32) != 0) = true
      ∧ issuing ballot s (fun x => x.on != 0 && traps x && x.on &&& ~~~(5#32) == 0 && (5#32) &&& ~~~(s.waveLanes x.w) != 0) = true
      ∧ (let i : Instr := .kballot { h := { h0 with guard := 0 }, neg := false, ps := 0, d := .k 1, m := .z }
         let s := apart 1 2 (lanes 2 (for' i))
         issuing i s (fun x => x.on == 0 && (2#32) &&& ~~~(s.waveLanes x.w) == 0 && x.fr.mask &&& 2#32 == 0) = true) := by
  decide +kernel

/-- Targets that are good, at the greatest address, and those that are not; chains of no and of eight entries. -/
theorem witness_Branches :
    issue
      [0x3A70_0000_980A_1040] = true
    ∧ (let i : Instr := .brx { h := h0, t := .g 2 }
       let j : Instr := .callx { h := h0, link := .z, t := .g 2 }
       let at'' (k : Instr) (lo hi : Nat) (p : W64 → Bool) : Bool :=
         let s := vec (regs [(2, lo), (3, hi)] (for' k))
         meets k s (fun x => traps x && each s x (fun _ u => p (opRead64 (.g 2) x.v u)))
       at'' i 0xFFFF_FFF8 0x01FF_FFFF (fun v => v.toNat % 8 == 0 && decide (v.toNat < 2 ^ 57)) = true
        ∧ at'' i 4 0 (fun v => v.toNat % 8 != 0) = true
        ∧ at'' i 0 0x0200_0000 (fun v => v.toNat % 8 == 0 && decide (2 ^ 57 ≤ v.toNat)) = true
        ∧ at'' j 0x2000 0 (fun v => v.toNat % 8 == 0 && decide (v.toNat < 2 ^ 57)) = true
        ∧ at'' j 1 0 (fun v => v.toNat % 8 != 0) = true)
    ∧ (let i : Instr := .call { h := h0, link := .z, off := 2 }
       let j : Instr := .ret { h := h0 }
       let chain (k : Instr) (n : Nat) : State := vec (each' (fun _ t => { t with chain := List.replicate n 0x2000 }) (for' k))
       meets i (chain i 7) (fun x => each (chain i 7) x (fun _ u => decide (u.chain.length < 8))) = true
        ∧ meets i (chain i 8) (fun x => traps x && each (chain i 8) x (fun _ u => decide (8 ≤ u.chain.length))) = true
        ∧ meets j (chain j 1) (fun x => each (chain j 1) x (fun _ u => u.chain != [])) = true
        ∧ meets j (chain j 0) (fun x => traps x && each (chain j 0) x (fun _ u => u.chain == [])) = true) := by decide +kernel

/-- Outside a gate call, inside one, and `REFORM`. -/
def anyGate : GateFrame :=
  { bufs := [], pc := 0x3000, pasid := 0, domain := 0, hvec := 0, full := true, budget := 256, resmask := 0xF, stkz := false,
    stack := 0, stacksz := 0, frames := 0x10000, framesVa := 0x10000, index := 0, callee := 1, requesters := [5], others := [] }

theorem witness_LeavingWaves :
    let plain (x : Iss) : Bool := x.v.frags.all (fun fr => fr.join == none) && x.v.asyncs == []
    issue
      [0x4070_0000_0000_0000] = true
      ∧ meets (.exit { h := h0 }) (for' (.exit { h := h0 })) (fun x => x.g.gates == [] && plain x) = true
      ∧ meets (.exit { h := h0 }) (vec ((for' (.exit { h := h0 })).updGroup 3 (fun g => { g with gates := [anyGate] })))
        (fun x => x.g.gates != [] && traps x) = true
      ∧ meets (.reform { h := h0 }) (for' (.reform { h := h0 })) plain = true := by decide +kernel

theorem witness_FloatArithmetic :
    issue
      [0x8070_8800_0000_1000, 0x8172_0500_4000_1000, 0x8270_8606_0400_1000, 0x8A70_2434_0000_1000, 0x8370_0020_0000_9000,
       0x8970_A000_0000_1000, 0x8770_0084_0000_1000, 0x8870_0000_0000_1000, 0x8B70_0000_0000_1000, 0x8C72_0000_0000_1000,
       0x8D70_0018_0000_1000, 0x8E70_0000_0000_1000, 0x9073_0010_0000_1000, 0x9170_0C00_0000_1000, 0x8470_4000_0000_1000,
       0x8570_0001_0400_1000, 0x8671_0042_0000_1000, 0x8F70_A400_0000_2000] = true
    ∧ f32Nan 0x7F80_0001 = true ∧ f32Nan 0x7F80_0000 = false := by decide +kernel

/-- `s` with format slot 1 of its launch as `w`. -/
def slot1 (w : Nat) (s : State) : State :=
  s.updLaunch 1 (fun l => { l with words := l.words.set 9 (BitVec.ofNat 64 (w * 2 ^ 32 + (l.words.getD 9 0).toNat % 2 ^ 32)) })

def cvt (c : CvtArgs → Instr) : Instr := c { h := h0, slot := 1, d := .g 1, s1 := .g 2 }

/-- FP32 to E4M3, FP32 to INT8 and INT8 to FP32 in slot 1, and the combinations that trap. -/
theorem witness_Conversions :
    let s (i : Instr) (w : Nat) : State := vec (slot1 w (for' i))
    let slot (i : Instr) (w : Nat) (p : W32 → Bool) : Bool := meets i (s i w) (fun x => traps x && p ((s i w).slotWord x 1))
    slot (cvt .cvtf) 0x0030_0000 (fun w => fmtOfSlot (slotA w) == some .f32 && fmtOfSlot (slotO w) == some .e4m3) = true
      ∧ slot (cvt .cvtfi) 0x0050_0000 (fun w => fmtOfSlot (slotA w) == some .f32 && slotO w == 5) = true
      ∧ slot (cvt .cvtif) 0x5000_0000 (fun w => fmtOfSlot (slotO w) == some .f32 && slotA w == 5) = true
      ∧ slot (cvt .cvtf) 0x0050_0000 (fun w => decide (5 ≤ slotA w ∨ 5 ≤ slotO w)) = true
      ∧ slot (cvt .cvtfi) 0x0040_0000 (fun w => decide (slotO w < 5)) = true
      ∧ slot (cvt .cvtif) 0x8000_0000 (fun w => decide (7 < slotA w)) = true := by decide +kernel

theorem witness_PackedFormats :
    (let p (hi : Bool) : Instr := .pack2 { h := h0, slot := 1, hi := hi, d := .g 1, s1 := .g 2, s2 := .g 3, s3 := .g 4 }
     let q : Instr := .unpk2 { h := h0, slot := 1, hi := false, d := .g 2, s1 := .g 4 }
     let slot (i : Instr) (w : Nat) (f : W32 → Bool) : Bool :=
       meets i (vec (slot1 w (for' i))) (fun x => traps x && f ((slot1 w (for' i)).slotWord x 1))
     slot (p true) 0x0030_0000 (fun w => pack2Ok w true && slotWidth (slotO w) == 8) = true
      ∧ slot (.pack2 { h := h0, slot := 1, hi := false, d := .g 1, s1 := .g 2, s2 := .g 3, s3 := .z }) 0x0010_0000
          (fun w => pack2Ok w false && slotWidth (slotO w) == 16) = true
      ∧ slot (p true) 0x0000 (fun w => !pack2Ok w true) = true
      ∧ slot q 0x3000_0000 (fun w => unpk2Ok w false) = true ∧ slot q 0x0000 (fun w => !unpk2Ok w false) = true)
    ∧ issue
      [0x9772_0004_0000_2000, 0x9870_0400_0000_2000, 0x9970_4020_0680_2000, 0x9A70_0000_0000_0000, 0x9E70_0000_0800_1001] = true
    ∧ (let a : PlaneArgs := { h := h0, d := .g 1, s1 := .g 4, s2 := .g 2, persp := some (.g 8) }
       meets (.derivx (.plane a)) (for' (.derivx (.plane a))) (fun _ => true) = true
        ∧ meets (.derivy (.plane a)) (for' (.derivy (.plane a))) (fun _ => true) = true) := by decide +kernel

/-- A finite pattern, and what exact units need of exponents. -/
theorem witness_ExactRounding : (-149 : Int) ≤ -149 ∧ 0x7F7F_FFFF < 2 ^ Fmt.f32.width
    ∧ 0x7F7F_FFFF % 2 ^ (Fmt.f32.width - 1) ≤ Fmt.f32.maxCode ∧ 2 * 4 % 2 ^ 3 = 0 ∧ 4 % 2 ^ 3 ≠ 0 := by decide

/-- Accesses to the first and the last element, out of extent, and misaligned. -/
def mem4 (ix : Opnd) : MemOp := { ix := ix, brec := 0, off := 0, str := 0 }

def ld4 : Instr := .ld { h := h0, sx := false, width := .b32, cache := .normal, d := .g 8, m := mem4 (.g 7) }

def lds4 : Instr := .lds { h := h0, sx := false, width := .b32, d := .g 8, m := mem4 (.g 7) }

def ldws4 : Instr := .ldws { h := h0, width := .b32, d := .g 8, m := mem4 (.g 7) }

def ldw4 : Instr := .ldw { h := h0, sx := false, width := .b32, cache := .normal, d := .g 8, m := mem4 (.g 7) }

def acq4 (scr : Bool) : Instr :=
  .acq { h := h0, wide := false, scr := scr, d := .g 8, ix := .g 7, brec := 0, scope := .dev, smask := 1, paths := 1 }

/-- Element `e` of record `r` in g7. -/
def element (r : W128) (e : Nat) (i : Instr) : State := vec (record 0 r (regs [(7, e)] (for' i)))

/-- 64 elements of 4 bytes of scratchpad or weight store from 0, strict. -/
def rec0 : W128 := 0x8200_0000_0000_0040_0000_0000_0000_0000

/-- Weight-store region 0 sealed for domain 0. -/
def sealed (s : State) : State :=
  { s with mem := { s.mem with regions := [(0, { isSealed := true, sealing := false, domain := 0 })] } }

/-- 2-byte elements from 0x2000. -/
def rec2 : W128 := 0x8200_0002_0000_1000_0000_0000_0000_2000

/-- Every part takes place, as the load and store statements have it. -/
def takes (i : Instr) (s : State) (brec : Nat) (sp : Space) (d n : Nat) (ix : Opnd) : Bool :=
  meets i s (fun x => (s.formLanes x.w x.on (fun q _ u =>
    q.formElem x.gid x.g (x.g.buf brec) sp d ((opRead ix x.v u).toNat + 0) n)).1.all (fun e => e.2.takesPart))

/-- The address causes of `LoadIssueAndAddresses`. -/
def misses (i : Instr) (s : State) (r : W128) (e : Nat) (n : Nat) (out : Bool) : Bool :=
  meets i s (fun x => traps x && recStrict r && x.g.buf 0 == r && each s x (fun _ u => (opRead (.g 7) x.v u).toNat == e)
    && (if out then !inExtent r e n else inExtent r e n && elemAddr r e % min n 16 != 0))

theorem witness_LoadIssueAndAddresses :
    takes ld4 (element rec4 4095 ld4) 0 (.virt .read) 0 4 (.g 7) = true
      ∧ takes lds4 (element rec0 63 lds4) 0 .scr 0 4 (.g 7) = true
      ∧ takes ldws4 (sealed (element rec0 0 ldws4)) 0 .ws 0 4 (.g 7) = true
      ∧ takes ldw4 (element rec4 0 ldw4) 0 (.virt .read) 0 4 (.g 7) = true
      ∧ meets ldw4 (element rec4 0 ldw4) (fun x => lowLane x.on == some 0 && ((element rec4 0 ldw4).laneThread x.w 0).isSome) = true
      ∧ takes (acq4 false) (element rec4 1 (acq4 false)) 0 (.virt .read) 0 4 (.g 7) = true
      ∧ takes (acq4 true) (element rec0 1 (acq4 true)) 0 .scr 0 4 (.g 7) = true
      ∧ misses ld4 (element rec4 4096 ld4) rec4 4096 4 true = true ∧ misses ld4 (element rec2 1 ld4) rec2 1 4 false = true
      ∧ inExtent rec16 64 16 = false ∧ recStrict rec16 = false := by decide +kernel

def st4 : Instr := .st { h := h0, width := .b32, cache := .normal, data := .g 8, m := mem4 (.g 7) }

def sts4 : Instr := .sts { h := h0, width := .b32, d := .g 8, m := mem4 (.g 7) }

def m7 : MemOp8 := { ix := .g 7, brec := 0, off := 0, str := 0 }

def atom4 (nr : Bool) : Instr := .atom { h := h0, nr := nr, wide := false, op := .add, d := .g 8, m := m7, scope := .dev, order := .relaxed }

def atoms4 : Instr := .atoms { h := h0, wide := false, op := .add, d := .g 8, m := m7, scope := .grp, order := .relaxed }

def atomf4 : Instr := .atomf { h := h0, nr := true, op := .add, d := .g 8, m := m7, scope := .dev, order := .relaxed }

def cas4 : Instr := .cas { h := h0, d := .g 8, m := m7, scope := .dev, order := .relaxed }

def cass4 : Instr := .cass { h := h0, d := .g 8, m := m7, scope := .grp, order := .relaxed }

def rel4 : Instr :=
  .rel { h := h0, wide := false, scr := false, d := .g 8, ix := .g 7, brec := 0, scope := .dev, smask := 1, paths := 1 }

theorem witness_StoreIssue :
    takes st4 (element rec4 4095 st4) 0 (.virt .write) 1 4 (.g 7) = true
      ∧ takes sts4 (element rec0 0 sts4) 0 .scr 1 4 (.g 7) = true
      ∧ takes (atom4 true) (element rec4 0 (atom4 true)) 0 (.virt .atomic) 2 4 (.g 7) = true
      ∧ takes (atom4 false) (element rec4 0 (atom4 false)) 0 (.virt .atomic) 2 4 (.g 7) = true
      ∧ takes atoms4 (element rec0 0 atoms4) 0 .scr 2 4 (.g 7) = true
      ∧ takes atomf4 (element rec4 0 atomf4) 0 (.virt .atomic) 2 4 (.g 7) = true
      ∧ takes cas4 (element rec4 0 cas4) 0 (.virt .atomic) 2 4 (.g 7) = true
      ∧ takes cass4 (element rec0 0 cass4) 0 .scr 2 4 (.g 7) = true
      ∧ takes rel4 (element rec4 0 rel4) 0 (.virt .write) 1 4 (.g 7) = true
      ∧ misses st4 (element rec4 4096 st4) rec4 4096 4 true = true
      ∧ misses (atom4 false) (element rec2 1 (atom4 false)) rec2 1 4 false = true := by decide +kernel

/-- The state after one instruction. -/
def next (i : Instr) (s : State) : State :=
  match exec i s with
  | .next t => t
  | _ => s

/-- The parts of an access in flight are where the statements ask for them. -/
def inFlight (s : State) (k : Nat) (p : Flight → Bool) : Bool :=
  match Map.find s.flights k with
  | some f => s.mayPerform f && p f
  | none => false

def inMem (p : Part) : Bool := match p.loc with | .mem _ => true | _ => false

/-- No L1 holds a line: `LinesOk`, and `Settled`. -/
def quiet (s : State) : Bool := s.cores.all (fun e => e.2.l1 == [])

theorem quiet_lines {s : State} (h : quiet s = true) (c : Nat) : (s.core c).l1 = [] := by
  simp only [quiet, List.all_eq_true, beq_iff_eq] at h
  unfold State.core Map.get
  cases hc : Map.find s.cores c with
  | none => rfl
  | some r => exact h _ (Map.find_mem hc)

theorem quiet_sound {s : State} (h : quiet s = true) : LinesOk s ∧ Settled s := by
  refine ⟨fun c => ?_, fun c e he => ?_⟩
  · simp [quiet_lines h c]
  · simp [quiet_lines h c] at he

/-- `PagesHeld`, as what decides it. -/
def held' (s : State) (l : Loc) (n : Nat) : Bool :=
  match l with
  | .scr k o => (List.range' (o / 4096) ((o + max 1 n - 1) / 4096 + 1 - o / 4096)).all (fun i => match Map.find s.groups k with
    | some g => (s.core g.core).pages.contains (k, i) && Map.find g.scrOut i == none && decide ((s.core g.core).pages.length ≤ physPages)
    | none => false)
  | _ => true

/-- The first pages of the scratchpad of group 3 are in the physical scratchpad. -/
def pinned (s : State) : State := s.updCore 0 (fun c => { c with pages := (List.range 5).map (fun i => (3, i)) })

/-- The access as it is read: its core reads it, and no part of it is poisoned. -/
def readable (s : State) (f : Flight) : Bool :=
  (s.partyFor f).core == some f.core && quiet s && s.flightErrors f [] == [] && s.waitingAt f.gid isSelfInit == []
    && f.parts.all (fun p => held' s p.loc p.len)

/-- A load in each lane, one for all lanes, and an atomic that returns, each just issued. -/
theorem witness_DataArrives :
    let ok (i : Instr) : Bool := let s := next i (element rec4 3 i)
      inFlight s (element rec4 3 i).nextKey (fun f => raisesOf f.instr == some 0 && !isBrld f.instr && s.farPoison f none == []
        && readable s f && f.parts.all (fun p => !p.loc.remote && inMem p) && decide (f.parts.map (·.tid)).Nodup
        && f.parts.all (fun p => f.parts.all (fun q => !isOnce f.instr || q.loc == p.loc && q.len == p.len && q.data == p.data))
        && f.parts.all (fun p => s.fullOf f.gid && (Map.find s.threads p.tid).any (fun u => p.call == u.call)) && (returnsTo f.instr).isSome)
    ok ld4 = true ∧ ok ldw4 = true ∧ ok (atom4 false) = true ∧ isOnce ldw4 = true := by decide +kernel

/-- A release that an acquire pulls; a page that is filled, and one that is spilled. -/
theorem witness_DataArrives_caches :
    (let s : State := next rel4 (element rec4 0 rel4)
     let s : State := { s with mem := { s.mem with rels := [(.mem 0x2000, 3)] } }
     quiet s && isAcquire (acq4 true) && (Loc.mem 0x2000).overlaps 4 (.mem 0x2000) 8) = true
    ∧ (match Map.find (at' 0).groups 3 with
       | some g => Map.wf g.scr && decide (((at' 0).core g.core).pages.length < physPages) && (Map.find g.scrOut 0).isNone
          && (((at' 0).backing g 0).1).isSome && quiet (at' 0)
       | none => false) = true := by decide +kernel

/-- A store and an atomic that returns nothing, each just issued, and widths above 0. -/
theorem witness_StoresPerform :
    let ok (i : Instr) : Bool := let s := next i (element rec4 3 i)
      inFlight s (element rec4 3 i).nextKey (fun f => raisesOf f.instr == some 1 && f.parts.all inMem && f.parts != []
        && s.host.sent == [] && f.parts.all (fun p => f.parts.all (fun q => q.tid != p.tid || q.call == p.call)) && readable s f)
    ok st4 = true ∧ ok (atom4 true) = true ∧ 0 < 32 ∧ ([1, 2, 3, 4] : List Byte).length = 4 := by decide +kernel

def brset0 : Instr := .brset { h := h0, target := 3, q := .g 8 }

def brld0 : Instr := .brld { h := h0, target := 3, cache := .normal, m := mem4 (.g 7) }

/-- A record that is accepted and one with a misaligned base; a `BRLD` that issues, and one whose record arrives. -/
theorem witness_BufferRecords :
    let s (l : List (Nat × Nat)) : State := vec (regs l (for' brset0))
    let r (l : List (Nat × Nat)) (p : Option Nat → Bool) : Bool := meets brset0 (s l) (fun x => traps x && lowLane x.on == some 0
      && (match (s l).laneThread x.w 0 with
          | some u => p (recRefusal (opNth (.g 8) 3 x.v u ++ opNth (.g 8) 2 x.v u ++ opNth (.g 8) 1 x.v u ++ opNth (.g 8) 0 x.v u))
          | none => false))
    r [(8, 0x2000), (10, 64), (11, 0x8200_0000)] (fun d => d == none) = true
      ∧ r [(8, 0x2001), (10, 64), (11, 0x8200_0000)] (fun d => d != none) = true
      ∧ (let q := element rec16 1 brld0
         takes brld0 q 0 (.virt .read) 0 16 (.g 7) = true
          ∧ meets brld0 q (fun x => lowLane x.on == some 0 && quiet q && x.g.bufSeq == [] && q.threads.all (fun e => e.2.outer.length == x.g.gates.length) && q.flights == [] && q.cores.all (fun c => c.2.copyq == [])
              && q.threads.all (fun e => e.2.fences == []) && x.v.frags.all (fun fr => fr.st == .ready)
              && q.gangs.all (fun e => e.2.st != .ended) && q.waitingAt x.gid isSelfInit == []
              && (match q.laneThread x.w 0 with
                  | some u => (match q.formElem x.gid x.g (x.g.buf 0) (.virt .read) 0 ((opRead (.g 7) x.v u).toNat + 0) 16 with
                    | (.at' (.mem pa) _, r) => r.poisonAt (some x.g.core) (.mem pa) 16 == none
                      && recRefusal (BitVec.ofNat 128 (ofBytes (r.peekBy (some x.g.core) pa 16))) == none
                    | _ => false)
                  | none => false)) = true
          ∧ (let t := next brld0 q
             inFlight t q.nextKey (fun f => f.instr == brld0 && t.farPoison f none == [] && readable t f
              && f.parts != [] && f.parts.all (fun p => inMem p && recRefusal (BitVec.ofNat 128 (ofBytes (t.readLoc (some 0) p.loc p.len)))
                == none) && (t.fragOn f.wave q.nextKey isBrld).isSome && (Map.find t.groups f.gid).any (fun g => g.core == 0 && g.bufSeq == [] && g.gates == [])
              && t.threads.all (fun e => e.2.outer == []) && f.asks.length == 1)
              && t.gangs.all (fun e => e.2.st != .ended)) = true) := by decide +kernel

/-- `Whole`. -/
def whole (s : State) (x : Iss) : Bool :=
  Map.wf s.threads && s.groupTids x.gid != [] && (s.groupTids x.gid).all (fun k => (s.tidsOf x.w x.fr.mask).contains k)
    && (s.groupTids x.gid).length == (s.tidsOf x.w x.fr.mask).length && x.g.gates == []
    && s.waves.all (fun e => e.2.gid != x.gid || (e.1 == x.w && e.2 == x.v)) && x.v.frags == [x.fr]

def bar (cnt : Opnd) (ph : Bool) : Instr := .bar { h := h0, ph := ph, cnt := cnt, id := 15 }

def barx (cnt : Opnd) (ph : Bool) : Instr := .barx { h := h0, ph := ph, cnt := cnt, id := 0, paths := 0x1F }

/-- `s` with two threads of the group in another wave. -/
def elsewhere (s : State) : State :=
  { s with waves := s.waves ++ (match Map.find s.waves 4 with | some v => [(90, v)] | none => [])
           threads := s.threads ++ (match Map.find s.threads 5 with
             | some t => [(91, { t with place := some (90, 0) }), (92, { t with place := some (90, 1) })]
             | none => []) }

/-- Fences with an access outstanding, prefetches, and each way a barrier goes: complete with `gz` and with a count of 1, the
phase's end, counts of 0, one too many, and of 3 threads of which one is here. -/
theorem witness_FencesAndBarriers :
    issue
      [0x5770_0000_0000_8000, 0x5870_0000_0000_0820, 0x5F71_0000_0000_0000] = true
    ∧ (let s := next ld4 (element rec4 0 ld4)
       s.pendingOn 5 allPaths 1 != [] && (s.tidsOf 4 1).contains 5) = true
    ∧ (let all (f : Opnd → Bool → Instr) : Bool :=
         let quiet (s : State) (x : Iss) : Bool := lowLane x.on == some 0 && !s.poolGone 0 3 15 && !s.poolGone 0 3 0
         let g7 (i : Instr) (n : Nat) (p : State → Iss → Nat → Bool) : Bool :=
           let s := vec (regs [(7, n)] (for' i))
           meets i s (fun x => quiet s x && traps x && p s x n)
         let far (i : Instr) (n : Nat) (p : State → Iss → Nat → Bool) : Bool :=
           let s := elsewhere (vec (regs [(7, n)] (for' i)))
           meets i s (fun x => quiet s x && p s x n)
         g7 (f .z false) 0 (fun s x _ => whole s x) && g7 (f (.g 7) false) 1 (fun s x n => whole s x
             && decide (n ≤ (s.groupTids x.gid).length))
          && g7 (f .z true) 0 (fun s x _ => whole s x && s.phaseCause x.gid x.g == none && s.phaseRecordOk x.g
             && x.v.asyncs == [])
          && g7 (f (.g 7) false) 2 (fun s x n => decide ((s.groupTids x.gid).length < n)
             && s.waitingAt x.gid (isBarrier 15) == [] && s.waitingAt x.gid (isBarrier 0) == [])
          && g7 (f (.g 7) false) 0 (fun s x n => n == 0 && s.waitingAt x.gid (isBarrier 15) == [])
          && far (f (.g 7) false) 3 (fun s x n => decide ((s.tidsOf x.w x.fr.mask).length < n)
             && decide (n ≤ (s.groupTids x.gid).length) && s.waves.all (fun e => e.1 != x.w || (e.1 == x.w && e.2 == x.v)))
       all bar = true ∧ all barx = true) := by decide +kernel

def waitc0 : WaitcArgs := { h := h0, nld := 0, nst := 63, ncp := 63, ntl := 63 }

def waiteq4 (ne : Bool) : WaiteqArgs := { h := h0, ne := ne, acq := false, scr := false, wide := false, d := .g 8, m := mem4 (.g 7) }

/-- The fragment that waits, if it waits at an instruction that satisfies `p`. -/
def waiting (s : State) (p : Wait → Frag → Bool) : Bool :=
  match s.frag 4 0 with
  | some fr => match fr.st with
    | .wait wt => fr.mask != 0 && p wt fr
    | _ => false
  | none => false

theorem witness_Waits :
    (let i : Instr := .waitc waitc0
     meets i (for' i) (fun x => each (for' i) x (fun _ u => waitcMet waitc0 u)) = true
      ∧ (let s := each' (fun _ t => { t with nLd := 1 }) (for' i)
         meets i s (fun x => x.on == x.fr.mask && each s x (fun _ u => !waitcMet waitc0 u)) = true
          ∧ waiting (each' (fun _ t => { t with nLd := 0 }) (next i s)) (fun wt _ => wt.instr == i) = true))
    ∧ (let go (ne eq : Bool) : Bool :=
         let i : Instr := .waiteq (waiteq4 ne)
         let s := regs [(8, if eq then 0 else 1)] (element rec4 3 i)
         meets i s (fun x => s.flights == [] && s.cores.all (fun c => c.2.copyq == []) && x.v.frags.all (fun fr => fr.st == .ready)
          && (let p := s.formLanes x.w x.on (fun q _ u => q.formElem x.gid x.g (x.g.buf 0) (.virt .read) 0
                ((opRead (.g 7) x.v u).toNat + 0) 4)
              let fl : Flight :=
                { instr := i, gid := x.gid, func := x.g.func, pasid := x.g.pasid, domain := x.g.domain, wave := x.w, core := x.g.core,
                  path := 0, smask := 1, parts := s.partsOf x p.1 4 (opBytes (.g 8) 4 x.v), deps := [], recv := [], born := 0, sent := false }
              x.on == x.fr.mask && p.1.all (fun e => (match e.2 with | .at' _ _ => true | _ => false))
              && Map.find s.groups x.gid == some x.g && quiet s
              && (match p.2.placeAll fl x.g fl.parts with
                | (ps, none, q) => ps != [] && q.flightErrors { fl with parts := ps } [] == []
                  && ps.all (fun e => !e.loc.remote && held' q e.loc e.len && (q.readLoc (some x.g.core) e.loc e.len == e.data) == eq)
                | _ => false)))
       go false true = true ∧ go true false = true ∧ go false false = true ∧ go true true = true)
    ∧ (let i : Instr := .waiteq (waiteq4 false)
       let s := next i (regs [(8, 1)] (element rec4 3 i))
       let s := s.poke 0x200C [1, 0, 0, 0]
       waiting s (fun wt fr => wt.instr == i && (match wt.aux with
        | [k] => inFlight s k (fun f => f.instr == i && f.wave == 4 && s.fragOn 4 k isWaiteq == some (0, fr)
            && quiet s && (Map.find s.groups f.gid).any (fun g => match s.placeAll f g f.parts with
              | (ps, none, q) => (lanesOf fr.mask).all (fun l => ps.any (fun p => p.lane == l)) && q.flightErrors { f with parts := ps } [] == []
                && ps.all (fun p => !p.loc.remote && held' q p.loc p.len && q.readLoc (some f.core) p.loc p.len == p.data)
              | _ => false))
        | _ => false)) = true) := by decide +kernel

/-- A group that holds 16 registers a thread. -/
def small (s : State) : State := s.updGroup 3 (fun g => { g with full := false })

/-- A second group, older, that waits in `ALLOT` for 131,072 registers on the same core. -/
def crowded (s : State) : State :=
  match Map.find s.groups 3, Map.find s.waves 4, Map.find s.threads 5 with
  | some g, some v, some t =>
    let w : Wait := { instr := .allot { h := h0 }, on := 1, vals := [], aux := [0] }
    { s with groups := s.groups ++ [(80, { g with full := false, budget := 131080, admSeq := 0 })]
             waves := s.waves ++ [(81, { v with gid := 80, frags := v.frags.map (fun f => { f with st := .wait w }) })]
             threads := s.threads ++ [(82, { t with gid := 80, place := some (81, 0) })] }
  | _, _, _ => s

theorem witness_Allotment :
    let i : Instr := .allot { h := h0 }
    let j : Instr := .allotrel { h := h0 }
    meets i (for' i) (fun x => whole (for' i) x && x.g.full) = true
      ∧ (let s := small (for' i)
         meets i s (fun x => whole s x && !x.g.full && decide (16 < x.g.budget) && (s.arrive x [s.tick]).grantable x.gid) = true)
      ∧ (let s := crowded ((small (for' i)).updGroup 3 (fun g => { g with admSeq := 7 }))
         meets i s (fun x => whole s x && !x.g.full && decide (16 < x.g.budget) && !(s.arrive x [s.tick]).grantable x.gid) = true
          ∧ (let t := next i s
             (t.allotQueue 0).head?.map Prod.fst = some 80 ∧ ((t.allotQueue 0).filter (fun p => p.2.st == .resident)).getLast?.map
              Prod.fst = some 3 ∧ t.grantable 80 = false
              ∧ t.groups.all (fun e => e.2.core != 0 || e.2.st != .resident || t.gathered e.1 isAllot) = true))
      ∧ (let s := next i (crowded ((small (for' i)).updGroup 3 (fun g => { g with admSeq := 7 })))
         let t := { s with groups := Map.del s.groups 80 }
         t.grantable 3 = true ∧ s.grantable 3 = false ∧ waiting t (fun wt _ => isAllot wt.instr) = true)
      ∧ meets j (for' j) (fun x => whole (for' j) x && x.g.full && decide (16 < x.g.budget)) = true
      ∧ meets j (small (for' j)) (fun x => whole (small (for' j)) x && !x.g.full) = true := by decide +kernel

theorem witness_PhaseEndsAndRegions :
    let i : Instr := .sync { h := h0 }
    let j : Instr := .phend { h := h0 }
    let ends (s : State) (x : Iss) : Bool := whole s x && s.phaseCause x.gid x.g == none && s.phaseRecordOk x.g && x.v.asyncs == []
    (meets i (for' i) (fun x => whole (for' i) x && x.g.children == 0) = true
      ∧ (let s := (for' i).updGroup 3 (fun g => { g with children := 1 })
         meets i s (fun x => ends s x && x.g.children != 0) = true)
      ∧ meets j (for' j) (ends (for' j)) = true
      ∧ (let s := vec ((for' j).updGroup 3 (fun g => { g with noPre := some (0, 4) }))
         meets j s (fun x => whole s x && traps x && phaseRefusal x.g == some 0x0F7) = true)
      ∧ (let s := setWord 21 0x40_0000 (for' j)
         meets j s (fun x => whole s x && s.phaseCause x.gid x.g == none && !s.phaseRecordOk x.g) = true))
    ∧ issue
      [0x7C70_0000_0000_0000, 0x7D70_0000_0000_0000] = true
    ∧ (let s := (at' 0).updGroup 3 (fun g => { g with noPre := some (0, 4) })
       let s := { s with tick := 3500000 }
       (Map.find s.groups 3).map (·.noPre) = some (some (0, 4)) ∧ 0 + 3500000 ≤ s.tick ∧ (Map.find s.waves 4).isSome = true)
    ∧ (let n : Instr := .nop { h := h0 }
       let s := (for' n).updWave 4 (fun v => { v with regionCause := some 0x0F4 })
       issuing n s (fun x => !s.stalled x && !x.v.replay && x.on != 0 && s.stage1 x.g x.fr.hnd n == []
        && x.v.regionCause == some 0x0F4) = true) := by decide +kernel

/-- Function 0 with a PASID table at 0x190000, whose entry 0 is valid, and a gate table at 0x180000, whose entry 0 calls 0x2000
with two times eight registers a thread, one frame at 0x60000 and a stack at 0x40000. -/
def gates (s : State) : State :=
  let s := { s with host := { s.host with ftab := Map.put (Map.put s.host.ftab 3 0x190000) 6 0x180000 } }
  (s.poke 0x190000 (toBytes 8 1)).poke 0x180000 (toBytes 8 (2 ^ 63 + 0x2000) ++ toBytes 8 2 ++ toBytes 8 0xFF
    ++ toBytes 8 0x40000 ++ toBytes 8 0x1000 ++ toBytes 8 0x60000 ++ toBytes 8 1 ++ toBytes 8 (2 ^ 31))

/-- `CalleeReady`. -/
def calleeReady (s : State) (g : Group) (w : Nat → Nat) (ts : List Nat) : Bool :=
  g.st == .resident && g.gateClosed w == none && s.gateRefusal g w ts.length == none && !(w 0).testBit 62
    && !s.copiesPending ts (bits (w 2) 7 0) && s.calleeFits g (8 * bits (w 1) 5 0 * ts.length)
    && (let c : Ctx := { die := dieOf g.core, func := g.func, pasid := bits (w 1) 51 32, domain := bits (w 1) 63 52 }
        match s.touch c (bits (w 5) 56 0) 1 .write with
        | (some base, q) => (match q.freeFrame base (bits (w 6) 15 0) with
          | some i => (q.touch c (bits (w 5) 56 0 + i * gateFrameBytes) gateFrameBytes .write).1.isSome
          | none => false)
        | _ => false)

def gcall0 : Instr := .gcall { h := h0, cnt := .z, gate := 0 }

theorem witness_GateCalls :
    (let s := gates (for' gcall0)
     meets gcall0 s (fun x => whole s x && s.tidsOf x.w x.on != []
      && calleeReady (s.arrive x [0, 0, 0]) x.g (s.gateWord x.g.func 0) (s.tidsOf x.w x.on)) = true)
    ∧ (let s := vec (for' gcall0)
       meets gcall0 s (fun x => whole s x && traps x && s.tidsOf x.w x.on != [] && x.on == x.fr.mask
        && x.g.st == .resident && x.g.gateClosed (s.gateWord x.g.func 0) == some 0x118) = true)
    ∧ (let s := (vec (gates (for' gcall0))).poke 0x180008 (toBytes 8 0)
       meets gcall0 s (fun x => whole s x && traps x && s.tidsOf x.w x.on != [] && x.on == x.fr.mask && x.g.st == .resident
        && x.g.gateClosed (s.gateWord x.g.func 0) == none && !(s.gateWord x.g.func 0 0).testBit 62
        && s.gateRefusal x.g (s.gateWord x.g.func 0) 1 == some 0x11C) = true)
    ∧ (let s := (gates (for' gcall0)).poke 0x180000 (toBytes 8 (2 ^ 63 + 2 ^ 62 + 0x2000))
       meets gcall0 s (fun x => whole s x && s.tidsOf x.w x.on != [] && x.g.st == .resident
        && x.g.gateClosed (s.gateWord x.g.func 0) == none && (s.gateWord x.g.func 0 0).testBit 62) = true)
    ∧ (let s := crowded ((gates (for' gcall0)).updGroup 3 (fun g => { g with admSeq := 7 }))
       meets gcall0 s (fun x => whole s x && x.g.gateClosed (s.gateWord x.g.func 0) == none && s.gateRefusal x.g (s.gateWord x.g.func 0) 1 == none
        && !(s.gateWord x.g.func 0 0).testBit 62
        && !(s.arrive x [0, 0, 0]).calleeFits x.g (8 * bits (s.gateWord x.g.func 0 1) 5 0)) = true
        ∧ (let t := next gcall0 s
           let t := { t with groups := Map.del t.groups 80 }
           waiting t (fun wt fr => (Map.find t.waves 4).any (fun v => v.gid == 3 && v.frags.contains fr) && wt.instr == gcall0 && wt.aux == [0, 0, 0] && t.waitingAt 3 isGcall == [(4, fr)]
            && (t.tidsOf 4 fr.mask).length == (t.groupTids 3).length && t.tidsOf 4 (wt.on &&& fr.mask) != []
            && (match Map.find t.groups 3 with
                | some g => calleeReady t g (t.gateWord g.func 0) (t.tidsOf 4 (wt.on &&& fr.mask))
                | none => false)) = true))
    ∧ (let i : Instr := .gret { h := h0 }
       meets i (vec (for' i)) (fun x => traps x && x.g.gates == []) = true
        ∧ (let s := (gates (for' i)).updGroup 3 (fun g => { g with gates := [{ anyGate with frames := 0x60000, framesVa := 0x60000 }] })
           let s := each' (fun _ t => { t with outer := [{ call := 0, regs := [(20, 7)], saved := [], preds := 1, chain := [], pend := [],
                                                            fences := [], nLd := 0, nSt := 0, nCp := 0, nTl := 0, drew := [] }] }) s
           meets i s (fun x => Map.wf s.threads && x.v.frags == [x.fr] && x.on == x.fr.mask
            && s.waves.all (fun e => e.2.gid != x.gid || (e.1 == x.w && e.2 == x.v))
            && x.g.savedBuckets == []
            && (match x.g.gates with
                | fr :: _ => !(s.arrive x []).copiesPending (fr.requesters.filter (Map.has s.threads)) fr.resmask
                  && fr.requesters == s.tidsOf x.w x.on && fr.requesters != [] && fr.others == [] && !fr.stkz
                  && (let q := (s.arrive x []).touch x.g.ctx (fr.framesVa + fr.index * gateFrameBytes) gateFrameBytes .read
                      q.1.isSome && !q.2.frameBad x.g fr)
                | [] => false)) = true)) := by decide +kernel

/-- Handler mode with an ordinary thread in lane 1, the faulting one in lane 0. -/
theorem witness_HandlerReturns :
    let plain (x : Iss) : Bool := x.v.frags.all (fun fr => fr.join == none) && x.v.asyncs == []
    let noSelf (s : State) (x : Iss) : Bool :=
      s.waves.all (fun e => e.2.gid != x.gid || e.2.frags.all (fun f => !f.waitsAt isSelfInit))
    let eret (i : Instr) (p : State → Iss → HMode → Bool) : Bool :=
      meets i (for' i) (fun x => match x.v.handler with | some h => p (for' i) x h | none => false)
    eret (.eretRetry { h := h0 }) (fun s x h => noSelf s x && !h.async) = true
      ∧ eret (.eretSkip { h := h0 }) (fun s x _ => noSelf s x) = true
      ∧ eret (.eretExit { h := h0 }) (fun _ x h => x.g.gates == [] && h.fault != 0 && plain x) = true
      ∧ eret (.eretExitall { h := h0 }) (fun s x _ => x.g.gates == [] && s.waveLanes x.w != 0 && plain x) = true
      ∧ (let i : Instr := .eretExit { h := h0 }
         meets i ((for' i).updGroup 3 (fun g => { g with gates := [anyGate] })) (fun x => x.g.gates != [] && x.v.handler.isSome) = true)
      ∧ (let s := (vec (at' 0)).updWave 4 (fun v => { v with asyncs := [{ code := 0x141, tids := [5], addr := 0 }] })
         (match Map.find s.waves 4, Map.find s.groups 3 with
          | some v, some g => v.resident && v.handler == none && v.heldCauses == [] && v.asyncs.length == 1 && s.canHandle 4 v && hvecOk g.hvec
          | _, _ => false) = true) := by decide +kernel

/-- Four elements of 4 bytes from record 0 to record 1, token g20. -/
def copyOf (i : Instr) (src dst : W128) (cols : Nat) : State :=
  vec (record 0 src (record 1 dst (regs [(10, cols), (11, 1)] (for' i))))

/-- 4,096 elements of 4 bytes from 0x8000, strict. -/
def rec4b : W128 := 0x8200_0000_0000_1000_0000_0000_0000_8000

def copy0 : Instr := .copy { h := h0, sb := .g 8, ra := 0, rb := 1, tok := .g 20, ss := false, sd := false, str := 0 }

def copyw0 : Instr := .copyw { h := h0, sb := .g 8, ra := 0, rb := 1, tok := .g 20, ss := false, str := 0 }

/-- A good descriptor, one of no columns, and a box in memory whose source and destination are apart. -/
theorem witness_Copies :
    let codes (s : State) (x : Iss) (p : Option Nat → Bool) : Bool := lowLane x.on == some 0 && (match s.laneThread x.w 0 with
      | some u => p (minCode (descCodes ((List.range 8).map (fun i => (opNth (.g 8) i x.v u).toNat)) (x.g.buf 0) (x.g.buf 1)))
      | none => false)
    let ok (i : Instr) (cols : Nat) (p : Option Nat → Bool) : Bool :=
      let s := copyOf i rec4 rec4b cols
      meets i s (fun x => x.on == x.fr.mask && traps x && codes s x p)
    ok copy0 4 (fun c => c == none) = true ∧ ok copyw0 4 (fun c => c == none) = true ∧ ok copy0 0 (fun c => c == some 0x060) = true
      ∧ ok copyw0 0 (fun c => c == some 0x060) = true
      ∧ (let s := next copy0 (copyOf copy0 rec4 rec4b 4)
         (at' 0).nextCopy 0 = none ∧ (match s.nextCopy 0, Map.find s.groups 3 with
          | some q, some g =>
            let es := boxElems (recEsize q.src) (descAt q.desc 2) (descAt q.desc 3) q.next
            let n := min (recEsize q.src) 16
            let r := s.formMoves q g es
            let src := r.1.flatMap (fun m => m.src.locs)
            let dst := r.1.flatMap (fun m => m.dst.locs)
            quiet s && es.length == 4 && es.all (fun e => (s.formMove q g e).1.stop == none) && q.old == [] && q.next + 1 == q.nbox
              && r.1.all (fun m => m.src.locs.length == 1 && m.dst.locs.length == 1)
              && (src ++ dst).all (fun l => match l with | .mem _ => true | _ => false)
              && decide (dst.Pairwise (fun a b => a.overlaps n b n = false))
              && src.all (fun a => dst.all (fun b => !a.overlaps n b n))
              && (match q.toks with
                  | [(tid, _)] => (match Map.find s.threads tid with
                    | some u => u.call == q.call && Map.find u.pend q.token == some q.key && s.fullOf q.gid
                    | none => false)
                  | _ => false)
          | _, _ => false) = true) := by decide +kernel

/-- The two-slot ring of spec 08, R217 in scratchpad at 0, its slots from 0x100. -/
def ringAt (r : RingDesc) (s : State) : State := pinned (s.updGroup 3 (fun g => g.scrPut [(0, r.bytes)]))

def sracq0 : Instr := .sracq { h := h0, d := .g 8, a := .g 7, paths := 1 }

def srwait0 : Instr := .srwait { h := h0, d := .g 8, a := .g 7, paths := 1 }

def srcommit0 : Instr := .srcommit { h := h0, a := .g 7, paths := 1 }

def srfree0 : Instr := .srfree { h := h0, a := .g 7, paths := 1 }

theorem witness_Rings :
    let ring (i : Instr) (r : RingDesc) (p : RingDesc → Bool → Bool) : Bool :=
      let s := vec (ringAt r (for' i))
      meets i s (fun x => lowLane x.on == some 0 && traps x && !s.busy 1 (s.tidsOf x.w x.on)
        && (s.placeAt x.gid x.g .scr 2 0 16).1 == .at' (.scr 3 0) 0 && s.poisonAt none (.scr 3 0) 16 == none && held' s (.scr 3 0) 16
        && (let q := ringOf (ofBytes (s.readLoc none (.scr 3 0) 16)); p q (s.ringFits x.gid x.g 3 q)))
    let committed := { ring0 with free := 2, pacq := 1, pcom := 1, phase := 1 }
    ring sracq0 ring0 (fun r fits => minCode (r.codes .acq 1 fits) == none && (r.run .acq).isSome) = true
      ∧ ring srwait0 ring0 (fun r fits => minCode (r.codes .wait 1 fits) == none && r.run .wait == none) = true
      ∧ ring srwait0 committed (fun r fits => minCode (r.codes .wait 1 fits) == none && (r.run .wait).isSome) = true
      ∧ ring srcommit0 { ring0 with pacq := 1 } (fun r fits => minCode (r.codes .commit 1 fits) == none) = true
      ∧ ring srcommit0 ring0 (fun r fits => minCode (r.codes .commit 1 fits) == some 0x0D0) = true
      ∧ ring srfree0 { committed with cwait := 1 } (fun r fits => minCode (r.codes .free 1 fits) == none) = true
      ∧ ring srfree0 ring0 (fun r fits => minCode (r.codes .free 1 fits) == some 0x0D1) = true
      ∧ (let s := ringAt committed (next srwait0 (vec (ringAt ring0 (for' srwait0))))
         waiting s (fun wt _ => (ringForm wt.instr).isSome && wt.aux == [0]) = true)
      ∧ ring0.nslot ≤ 16 ∧ ring0.ordered = true := by decide +kernel

def coll0 : CollArgs := { h := h0, op := .sum, dom := true, buf := .g 7, ctl := .g 8, set := 0 }

/-- Collective set 0 of two devices, of which this is rank 0, for function 0 and PASID 0. -/
def withSet (s : State) : State := { s with fab := { s.fab with csets := [(0, 0x8000_0000_0000_0002)] } }

/-- A buffer of 8 bytes of type `.b32`; a control word that is refused; the other member's answer. -/
theorem witness_Collectives :
    let i : Instr := .coll coll0
    let s (c : Nat) : State := vec (withSet (regs [(8, c)] (for' i)))
    meets i (s 8) (fun x => lowLane x.on == some 0 && minCode ((s 8).collCodes x.g 0 8) == none
        && ((s 8).placeAt x.gid x.g .scr 7 0 8).1 == .at' (.scr 3 0) 0) = true
      ∧ meets i (s 7) (fun x => lowLane x.on == some 0 && traps x && minCode ((s 7).collCodes x.g 0 7) == some 0x0DC) = true
      ∧ (let t := pinned (next i (s 8))
         match t.collWaiting 0 0 with
         | some (k, a, f) => (match f.parts with
           | p :: _ =>
             let own : CollMember := { rank := t.csetRank 0, op := 0, count := p.len, ty := 0, seq := 0, data := t.readLoc none p.loc p.len }
             let ms := sortBy (fun (x y : CollMember) => x.rank ≤ y.rank) (own :: [{ own with rank := 1 }])
             a == coll0 && t.mayPerform f && p.loc == .scr 3 0 && t.poisonAt none p.loc p.len == none && held' t p.loc p.len
              && ms.map (·.rank) == List.range (t.csetSize 0) && headerCause ms == none && (t.fragOn f.wave k isColl).isSome
              && t.gangs.all (fun e => e.2.st != .ended) && (Map.find t.groups 3).isSome && Map.wf t.flights
              && (match Map.find t.waves f.wave with
                  | some v => v.frags.all (fun fr => !fr.hnd && fr.waitOn != 0) && v.handler == none
                  | none => false)
           | [] => false)
         | none => false) = true := by decide +kernel

def pairOf (i : Ab → Instr) : Instr := i { h := h0, a := .g 8, b := .g 16 }

/-- What the lane statements ask of lane 0. -/
def lane0 (i : Instr) (s : State) (p : Iss → Thread → Bool) : Bool :=
  meets i s (fun x => match s.laneThread x.w 0 with | some u => p x u | none => false)

/-- Queue 1 of function 0: valid, 16 slots, its ring at 0x30000. -/
def queue1 (s : State) : State :=
  ({ s with host := { s.host with ftab := Map.put s.host.ftab 4 0x1A0000 } } : State).poke 0x1A0020
    (toBytes 8 (1 + 4 * 32) ++ toBytes 8 0x30000)

/-- A launch record of one group of 32 threads, with room for one frame of the forking launch. -/
def forkRecord : List Byte := (fillIndex.set 18 0 ++ [0, 0, 0] : List W64).flatMap (fun w : W64 => toBytes 8 w.toNat)

/-- `e` in the pair g8:g9. -/
def addr8 (a : Nat) (i : Instr) : State := vec (regs [(8, a % 2 ^ 32), (9, a / 2 ^ 32)] (for' i))

theorem witness_Tasks :
    (let ends (i : Instr) (s : State) (f : Iss → State → Nat → Thread → LaneRes × State) : Bool :=
       meets i s (fun x => !s.busy allPaths (s.tidsOf x.w x.on)
        && (match s.eachLane x.w (f x) (lanesOf x.on) [] with
            | (some ends, _) => ends.all (fun e => e.2 == .go (x.fr.pc + 8))
            | _ => false))
     let fork := setWord 24 128 ((addr8 0x2000 (pairOf .fork)).poke 0x2000 forkRecord)
     let tsinit := regs [(16, 1)] (addr8 0x2000 (pairOf .tsinit))
     let depinit := regs [(16, 2)] (addr8 0x2000 (pairOf .depinit))
     let dec : Instr := .depdec { h := h0, a := .g 8 }
     let depdec (n : Nat) := (addr8 0x2000 dec).poke 0x2000 (toBytes 4 n)
     let post := queue1 (regs [(16, 1)] (addr8 0x2000 (pairOf .tqpost)))
     ends (pairOf .fork) fork (forkLane { h := h0, a := .g 8, b := .g 16 }) = true
      ∧ ends (pairOf .tsinit) tsinit (tsinitLane { h := h0, a := .g 8, b := .g 16 }) = true
      ∧ ends (pairOf .depinit) depinit (depinitLane { h := h0, a := .g 8, b := .g 16 }) = true
      ∧ ends dec (depdec 2) (depdecLane { h := h0, a := .g 8 }) = true
      ∧ ends (pairOf .tqpost) post (tqpostLane { h := h0, a := .g 8, b := .g 16 }) = true
      ∧ lane0 (pairOf .fork) fork (fun x _ => (match fork.launchOf x.g, fork.readRecord x.g.ctx 0x2000 with
          | some ln, (.ok (ws, b), q) => x.g.gates == [] && lrGroups ws == 1 && lrGangs ws == 1
            && decide (Map.get fork.mem.cframes 0 (areaKey x.g.func x.g.pasid (lrCsarea ln.words)) < lrCsbytes ln.words / 128)
            && q.recordFits x.g.func x.g.pasid x.g.domain ln.sysPriv ws b
          | _, _ => false)) = true
      ∧ lane0 (pairOf .tsinit) tsinit (fun x _ => popCount 48 1 == 1
          && (tsinit.placeRange x.g .write 1 0x2000 129 (pagesOf 0x2000 129)).1 == .at' (.mem 0x2000) 0x2000) = true
      ∧ lane0 (pairOf .depinit) depinit (fun x _ => (depinit.placeVirt x.g .write 1 0x2000 16).1 == .at' (.mem 0x2000) 0x2000) = true
      ∧ lane0 dec (depdec 1) (fun x _ => (depdec 1).peekNat 0x2000 4 == 1 && (depdec 0).peekNat 0x2000 4 == 0
          && ((depdec 1).placeVirt x.g .atomic 2 0x2000 16).1 == .at' (.mem 0x2000) 0x2000) = true
      ∧ lane0 (pairOf .tqpost) post (fun x _ => post.queueOn 0 1 && decide (post.queueFill 0 1 < 2 ^ post.queueLog 0 1)
          && (match post.readVirt x.g.ctx 0x2000 64 with
              | (.ok b, q) => bits (ofBytes b) 35 16 == x.g.pasid
                && (match q.translate (q.engineCtx 0 (q.queuePasid 0 1)) (q.queueSlot 0 1 (q.queueTail 0 1)) .write with
                    | (.ok tr, q') => q'.paKind tr.pa == .mem && decide (tr.pa + b.length ≤ q'.queueAddr 0 1 + 20)
                    | _ => false)
              | _ => false)) = true) := by decide +kernel

/-- A tile that a group still holds, in a launch bound to a board at 0x10000; a `DEPINIT.self` with a count, and with none. -/
theorem witness_TileReleases :
    let i : Instr := .tsrel { h := h0 }
    let s := vec (setWord 18 0x40_0000 (for' i))
    meets i s (fun x => !s.busy allPaths (s.tidsOf x.w x.on) && !x.g.tileRel && lrTsen (s.recOf x.g)
        && (Map.find s.gangs x.g.gang).isSome) = true
      ∧ meets i (s.updGroup 3 (fun g => { g with tileRel := true })) (fun x => traps x && x.g.tileRel) = true
      ∧ meets i (vec (for' i)) (fun x => traps x && !x.g.tileRel && !lrTsen ((for' i).recOf x.g)) = true
      ∧ (let j : Instr := .depinitSelf { h := h0, a := .g 8, b := .g 16 }
         let go (n : Nat) : Bool :=
           let s := regs [(16, n)] (addr8 0x2000 j)
           meets j s (fun x => whole s x && x.on == x.fr.mask && !x.fr.hnd && x.v.asyncs == [] && phaseRefusal x.g == none
            && x.v.handler == none && x.g.st == .resident && each s x (fun _ u => decide ((opRead64 (.g 16) x.v u).toNat % 2 ^ 32 = n))
            && (match s.eachLane x.w (depselfLane { h := h0, a := .g 8, b := .g 16 } none x) (lanesOf x.on) [] with
                | (some ends, t) => ends.all (fun e => e.2 == .wait) && Map.find t.groups x.gid == some x.g
                  && !t.carryDiffers x.gid x.g && t.phaseRecordOk x.g && !t.busy allPaths (t.groupTids x.gid)
                | _ => false))
         go 1 = true ∧ go 0 = true) := by decide +kernel

/-- `EngineFree`. -/
def engineFree (s : State) (x : Iss) : Bool :=
  !s.mtxBusy x.gid && (s.engOf x.g).owner == some x.gid && x.g.domain == s.tagOf x.g

/-- The engine of core 0, changed. -/
def engine (f : Eng → Eng) (s : State) : State := s.updCore 0 (fun c => { c with eng := f c.eng })

/-- 64 elements of 128 bytes from 0, for scratchpad, and from 0x2000. -/
def rows0 : W128 := 0x0700_0000_0000_0040_0000_0000_0000_0000

def rows2 : W128 := 0x0700_0000_0000_0040_0000_0000_0000_2000

/-- A group with 64 pages of scratchpad, and the two records as `b0` and `b1`. -/
def tiles (i : Instr) : State :=
  record 0 rows0 (record 1 rows2 ((vec (for' i)).updGroup 3 (fun g => { g with scrPages := 64 })))

/-- `i` issues in a matrix-role group whose engine is free. -/
def mtx (i : Instr) (s : State) (p : Iss → Bool) : Bool := meets i s (fun x => engineFree s x && p x)

def accrd2 : AccrwArgs := { h := h0, acc := 15, n := .x2, d := .g 2, ix := .g 7 }

theorem witness_MatrixTiles :
    let ok (i : Instr) : Bool := mtx i (tiles i) (fun x => !(tiles i).tileUe x.g 1 && !(tiles i).tileUe x.g 15)
    let col (i : Instr) (c : Nat) (r : Option Nat) : Bool :=
      let s := regs [(7, c)] (tiles i)
      mtx i s (fun x => traps x && !s.tileUe x.g 15 && each s x (fun _ u => colCode 2 (colOf (.g 7) x u) == r))
    let slot (i : Instr) (w c : Nat) : Bool :=
      let s := slot1 w (tiles i)
      mtx i s (fun x => !s.tileUe x.g 1 && slotC (s.slotWord x 1) == c)
    ok (.accz { h := h0, acc := 1 }) = true ∧ ok (.acczAll { h := h0, acc := 1 }) = true ∧ ok (.swappl { h := h0 }) = true
      ∧ Map.wf Eng.init.side = true
      ∧ col (.accrd accrd2) 62 none = true ∧ col (.accrd accrd2) 1 (some 0x05E) = true ∧ col (.accrd accrd2) 64 (some 0x05F) = true
      ∧ col (.accwr accrd2) 0 none = true
      ∧ slot (.accsclRow { h := h0, acc := 1, slot := 1, sc := .g 2 }) 0 0 = true
      ∧ slot (.accredSum { h := h0, acc := 1, slot := 1, d := .g 2 }) 0 0 = true
      ∧ slot (.accredSum { h := h0, acc := 1, slot := 1, d := .g 2 }) 0x7_0000 7 = true
      ∧ slot (.accredMax { h := h0, acc := 1, slot := 1, d := .g 2 }) 0 0 = true
      ∧ slot (.accredMax { h := h0, acc := 1, slot := 1, d := .g 2 }) 0x7_0000 7 = true
      ∧ slot (.accredTile { h := h0, acc := 1, slot := 1, src := 15 }) 0x7_0000 7 = true := by decide +kernel

def mckv0 : MckvArgs := { h := h0, acc := 0, d := .g 4 }

/-- An engine in which element 3 of row 2 of tile 0 alone is off. -/
def offEng : Eng := { Eng.init with owner := some 3, acc := [(2 * 64 + 3, 0x3F80_0000)] }

/-- A clean tile, one with one element off, and one without checksums. -/
theorem witness_TileChecks :
    let ok (i : Instr) (e : Eng) : Bool :=
      let s := engine (fun _ => e) (tiles i)
      mtx i s (fun x => traps x && !s.tileUe x.g 0 && s.engOf x.g == e && x.g.mcktol == 0)
    let clean : Eng := { Eng.init with owner := some 3 }
    ok (.mckvBase mckv0) clean = true ∧ ok (.mckvChk mckv0) clean = true ∧ ok (.mckvFix mckv0) clean = true
      ∧ ok (.mckvFix mckv0) offEng = true ∧ clean.ckv.getLsbD 0 = true ∧ offEng.ckv.getLsbD 0 = true
      ∧ ok (.mckvChk mckv0) { clean with ckv := 0 } = true ∧ ok (.mckvFix mckv0) { clean with ckv := 0 } = true := by decide +kernel

/-- The rows and columns of the two tiles: all zero but row 2 and column 3 of the first. -/
def offRow (v : W32) : List W32 := 0 :: 0 :: 0 :: v :: List.replicate 60 0

def offCol (v : W32) : List W32 := 0 :: 0 :: v :: List.replicate 29 0

theorem witness_TileChecks_tiles : [(offEng, (0x3F80_0000 : W32)), (Eng.init, 0)].all (fun e =>
      (List.range 32).all (fun l => e.1.row 0 l == if l = 2 then offRow e.2 else List.replicate 64 0)
        && (let t := (List.range 32).map (fun l => if l = 2 then offRow e.2 else List.replicate 64 0)
            (List.range 64).all (fun n => tileColumn t n == if n = 3 then offCol e.2 else List.replicate 32 0))
        && e.1.ccs 0 == List.replicate 64 0 && e.1.rcs 0 == List.replicate 32 0) = true := by decide +kernel

theorem witness_TileChecks_residues :
    let off (l : List W32) : Bool := (residue (ofF32 0) l 0).2
    off (List.replicate 64 0) = false ∧ off (List.replicate 32 0) = false ∧ off (offRow 0) = false ∧ off (offCol 0) = false
      ∧ off (offRow 0x3F80_0000) = true ∧ off (offCol 0x3F80_0000) = true := by decide +kernel

def ldstat0 : LdstatArgs := { h := h0, slot := 1, brec := 0, ix := .g 7, sc := .g 0, str := 0 }

def accld1 : Instr := .accld { h := h0, acc := 0, scr := false, brec := 1, ix := .g 7, str := 0 }

def accst1 : Instr := .accst { h := h0, acc := 0, slot := 1, scr := false, brec := 1, ix := .g 7, str := 0 }

def accsclCol1 : Instr := .accsclCol { h := h0, acc := 0, slot := 1, brec := 1, ix := .g 7, str := 0 }

def mdld0 : Instr := .mdld { h := h0, brec := 0, ix := .g 7, str := 0 }

/-- Each tile operation as it issues, and as it completes with its bytes at hand. -/
theorem witness_TileMemory :
    let once (i : Instr) (s : State) (brec : Nat) (sp : Space) (n : Nat) (p : W32 → Bool) : Bool :=
      mtx i s (fun x => mtxRecOk (x.g.buf brec) 7 && p (s.slotWord x 1) && !s.tileUe x.g 0 && (s.lead x).isSome
        && (match s.mtxElems x.gid x.g (x.g.buf brec) sp 128 0 n with
            | (.ok ls, _) => ls != []
            | _ => false))
    let f16 (w : W32) : Bool := slotB w != 0 && slotB w != 7
    let done (i : Instr) (s : State) (p : Flight → Nat → Bool) : Bool :=
      let t := pinned (next i s)
      inFlight t s.nextKey (fun f => (Map.find t.groups f.gid).any (fun g => g.core == f.core && (t.engOf g).owner == some f.gid)
        && readable t f && f.parts.all (fun p => !p.loc.remote && (match p.loc with | .reg _ => false | _ => true))
        && p f (f.parts.flatMap (fun p => if p.loc = .nil then List.replicate p.len 0 else t.readLoc (some f.core) p.loc p.len)).length)
    let plane (i : Instr) : State := slot1 0x1100_0000 (tiles i)
    once (.ldstat ldstat0) (plane (.ldstat ldstat0)) 0 .scr 128 f16 = true
      ∧ once (.ldstatw ldstat0) (sealed (plane (.ldstatw ldstat0))) 0 .ws 128 f16 = true
      ∧ once mdld0 (tiles mdld0) 0 .scr 32 (fun _ => true) = true
      ∧ once accsclCol1 (tiles accsclCol1) 1 (.virt .read) 2 (fun w => slotC w == 0) = true
      ∧ (let s := tiles accld1
         mtx accld1 s (fun x => mtxRecOk (x.g.buf 1) 7
          && (s.rowLanes x (x.g.buf 1) (.virt .read) (.g 7) 128 2 (fun _ => []) (lanesOf x.on)).1.all (fun e => e.2.takesPart)) = true)
      ∧ (let s := slot1 0 (tiles accst1)
         mtx accst1 s (fun x => mtxRecOk (x.g.buf 1) 7 && !s.tileUe x.g 0 && outOk (slotC (s.slotWord x 1)) (slotO (s.slotWord x 1))
          && (s.rowLanes x (x.g.buf 1) (.virt .write) (.g 7) 128 2 (fun _ => []) (lanesOf x.on)).1.all (fun e => e.2.takesPart)) = true)
      ∧ done (.ldstat ldstat0) (plane (.ldstat ldstat0)) (fun f _ => f.instr == .ldstat ldstat0) = true
      ∧ done mdld0 (tiles mdld0) (fun _ n => n == 4096) = true
      ∧ done accsclCol1 (tiles accsclCol1) (fun _ n => n == 256) = true
      ∧ done accld1 (tiles accld1) (fun f n => n == 256 && f.parts != [] && f.parts.all (fun p => p.lane == 0)) = true
      ∧ done accst1 (slot1 0 (tiles accst1)) (fun f _ => f.parts.all inMem) = true := by decide +kernel

/-- A plane of FP16 elements, of the size its slot asks for. -/
def planed (e : Eng) : Eng := { e with act := { Plane.empty with bfmt := 1, k := slotK 0x1100_0000 } }

def mstream0 : MstreamArgs := { h := h0, z := true, acc := 0, slot := 1, brec := 0, ix := .g 7, gp := .g 6, sc := .g 0, str := 0 }

def streaming (i : Instr) : State := engine planed (slot1 0x1100_0000 (lanes 2 (tiles i)))

theorem witness_MatrixStreams :
    let goes (i : Instr) : Bool := match streamForm i with
      | some f => mtx i (streaming i) (fun x => !(streaming i).tileUe x.g f.acc && ((streaming i).lead x).isSome
          && f.codes ((streaming i).slotWord x f.slot) (x.g.buf f.brec) ((streaming i).engOf x.g) == []
          && (let rows := ((streaming i).streamRows x f (lanesOf x.on)).1
              rows.length == 2 && rows.all (fun e => match e.2 with | .ok ls => ls != [] | _ => false)))
      | none => false
    let row (s : State) (done left : Nat) : Bool :=
      let t := s.updWave 4 (fun v => { v with frags := v.frags.map (fun f => match f.st with
        | .wait wt => { f with st := .wait { wt with aux := wt.aux.headD 0 :: done :: wt.aux.drop 2 } }
        | _ => f) })
      match t.streamAt 4 0 with
      | some r => r.v.resident && r.left.length == left && r.wt.vals == [] && r.fr.mask != 0
          && (match Map.find t.groups r.v.gid with | some g => (t.engOf g).owner == some r.v.gid | none => false)
          && (left == 0 || inFlight t r.key (fun fl => t.flightErrors fl [] == [] && fl.parts.all (fun p => held' t p.loc p.len)))
      | none => false
    let i : Instr := .mstream mstream0
    goes i = true ∧ goes (.mstreamc { h := h0, acc := 0, slot := 1, brec := 0, ix := .g 7, gp := .g 6, sc := .g 0, str := 0 }) = true
      ∧ (let t := pinned (next i (streaming i))
         row t 0 2 = true ∧ row t 1 1 = true ∧ row t 3 0 = true) := by decide +kernel

/-! ### The sequencer -/

/-- 4,096 packed bytes from address 0x2000, strict: a queue's record. -/
def rec1 : W128 := 0x8000_0000_0000_1000_0000_0000_0000_2000

/-- A primitive with entry 3 and opcode 0xE2, in the binding of the launch. -/
def bound (s : State) : State :=
  { s with mgmt := { s.mgmt with images := [(7, [{ entry := 3, opcode := 0xE2, desc := 0 }])] }
           launches := s.launches.map (fun e => (e.1, { e.2 with binding := some 7 })) }

def prim0 : Instr :=
  .macroPrim { h := h0, sb := .g 8, ra := 0, rb := 1, rc := 2, x := .g 4, entry := 3, gmod := 0, str := 0 }

def bop0 : Instr := .bop { h := h0, n := 2, sb := .g 8, ra := 0, rb := 1, rc := 2, x := .g 4, gmod := 0, str := 0 }

def gqpop0 : Instr := .gqpop { h := h0, sb := .g 8, ra := 0, str := 0 }

def gqpush0 : Instr := .gqpush { h := h0, sb := .g 8, ra := 0, str := 0 }

def hizq0 : Instr := .hizq { h := h0, sb := .g 8, ra := 0, df := .al, str := 0 }

/-- A macro-instruction whose lane has `v` in its header. -/
def headed (i : Instr) (v : Nat) : State :=
  regs [(((macOp i).map MacOp.base).getD 0, v)] (bound (vec (for' i)))

/-- `i` issues with STATUS `st` in its header, and its operands have the cause `c`. -/
def heads (i : Instr) (s : State) (st : Nat) (p : Option Nat → Bool) : Bool :=
  meets i s (fun x => traps x && (match macOp i with
    | some m => each s x (fun _ u => hdrStatus (u.reg m.base) == st && p (minCode (macCauses i s x u)))
    | none => false))

/-- Every macro-instruction with STATUS 3 and 4. -/
theorem witness_MacroIssue_status : (((
      [0xD070_0100_0000_0080, 0xD171_0000_0000_0000, 0xD270_0000_0000_0000, 0xD370_0220_0000_0000, 0xD470_0000_0000_0000,
       0xD670_0000_0000_0200, 0xD672_000C_0340_0040, 0xD670_0000_0000_0020, 0xD670_0008_0000_0060, 0xD770_0000_0000_0020,
       0xD770_8000_0000_0000, 0xD870_0040_0000_0000, 0xD970_0000_0000_0000]
        ).map (fun w : Nat => decode (BitVec.ofNat 64 w))) ++ [prim0, bop0]).all (fun i =>
      heads i (headed i 0x300) 3 (fun _ => true) && heads i (headed i 0x400) 4 (fun _ => true)) = true := by decide +kernel

/-- A queue in bytes, a queue in words, and a primitive. -/
theorem witness_MacroIssue :
    heads gqpop0 (record 0 rec1 (headed gqpop0 0)) 0 (fun c => c == none) = true
      ∧ heads gqpop0 (record 0 rec4 (headed gqpop0 0)) 0 (fun c => c == some 0x111) = true
      ∧ heads prim0 (headed prim0 0x100) 1 (fun c => c == none) = true
      ∧ heads hizq0 (headed hizq0 0) 0 (fun c => c == some 0x100) = true
      ∧ (macOp gqpop0).isSome = true ∧ isAnyhit gqpop0 = false := by decide +kernel

/-- Lane 0 is at work, and its step ends as `p` says. -/
def atWork (s : State) (p : MacCtx → Except MStop MOut → Bool) : Bool :=
  match s.frag 4 0, Map.find s.waves 4, Map.find s.groups 3 with
  | some fr, some v, some g => v.gid == 3 && v.resident && !v.draining && !v.sigFlip && (match fr.st with
    | .wait wt => !isShadeq wt.instr && (wt.on &&& fr.mask) == 1 && (match s.macCtx 4 0 v g wt with
      | some c => p c ((macStep c).run s).1
      | none => false)
    | _ => false)
  | _, _, _ => false

/-- A queue of 4 entries with FLAGS, RSVD and HEAD. -/
def queueAt (flags resv head : Nat) (s : State) : State :=
  s.poke 0x2000 (toBytes 4 4 ++ toBytes 4 flags ++ toBytes 4 resv ++ toBytes 4 head)

/-- A push and a pop of a queue: each performs a step, waits, finds the queue closed; and a pop of a queue of 3 entries
stops while another lane is at work. -/
theorem witness_SequencerSteps :
    let s (i : Instr) (flags resv head : Nat) : State := queueAt flags resv head (record 0 rec1 (headed i 0))
    let one (i : Instr) (flags resv head : Nat) (p : Except MStop MOut → Bool) : Bool :=
      atWork (next i (s i flags resv head)) (fun c r => c.idata.testBit 0 == false && p r)
    let ok (p : MOut → Bool) (r : Except MStop MOut) : Bool := match r with | .ok o => p o | _ => false
    let local' (o : MOut) : Bool := o.regs.all (fun e => e.1 == 0)
      && o.ws.all (fun e => !e.1.remote && (match e.1 with | .reg _ => false | _ => true))
    one gqpush0 0 0 0 (ok (fun o => local' o && o.ends == [] && o.ws != [])) = true
      ∧ one gqpop0 0 1 0 (ok (fun o => local' o && o.ends == [])) = true
      ∧ one gqpop0 1 0 0 (ok (fun o => local' o && o.ends == [0])) = true
      ∧ one gqpop0 0 0 0 (fun r => match r with | .error .wait => true | _ => false) = true
      ∧ one gqpush0 0 4 0 (fun r => match r with | .error .wait => true | _ => false) = true
      ∧ one gqpush0 1 0 0 (fun r => match r with | .error (.cause c _ _) => c == 0x112 | _ => false) = true
      ∧ macWaits gqpop0 = true
      ∧ (let t := lanes 2 (s gqpush0 1 0 0)
         waiting (next gqpush0 t) (fun wt fr => (wt.on &&& fr.mask) == 3#32) = true) := by decide +kernel

theorem witness_SequencerSteps_blocks :
    let ob : Instr := .oblend { h := h0, sb := .g 8, ra := 0, rb := 1, zsrc := .g 4, df := .al, str := 0 }
    (match (macOp gqpop0).bind (fun op => (Map.find (at' 0).groups 3).bind (fun g => (Map.find (at' 0).threads 5).map (fun t =>
        ({ i := ob, op := op, w := 4, lane := 0, tid := 5, t := t, gid := 3, g := g, recs := [], opx := 0, ran := false,
           wrote := false, quad := false } : MacCtx)))) with
      | some c => bits (c.nat 1) 13 10 == 0 && c.ccnt == 0
      | none => false) = true ∧ 1 ≤ 2 ∧ 2 ≤ 20 := by decide +kernel

def hitsort0 : Instr := .hitsort { h := h0, sb := .g 8 }

/-- Bucket 0 of core 0 with the thread that was in lane 0, and a second thread of its group; group 4 of its gang is on core
1. -/
def filed (s : State) : State :=
  ({ s with tick := 512
            threads := (match Map.find s.threads 5 with
              | some t => [(5, { t with place := none }), (6, { t with place := none })]
              | none => [])
            waves := []
            groups := (match Map.find s.groups 3 with
              | some g => [(3, g), (4, { g with core := 1, rank := 1 })]
              | none => [])
            nextKey := 100 } : State).updCore 0 (fun c =>
    { c with buckets := [{ gid := 3, pc := 0x200, key := 1, base := 8, tids := [(5, 0)] }] })

theorem witness_SortingAndPouring :
    let sorts (st : Nat) : Bool :=
      let s := headed hitsort0 0
      let s := regs [(8, st)] s
      meets hitsort0 s (fun x => x.v.frags.all (fun fr => fr.join == none) && x.v.asyncs == [] && Map.wf s.threads
        && (s.core x.g.core).buckets == [] && each s x (fun _ u => hdrStatus (u.reg 8) == st / 2 ^ 8))
    let f := filed (at' 0)
    sorts 0x300 = true ∧ sorts 0x100 = true ∧ sorts 0 = true
      ∧ ((f.core 0).buckets[0]?.bind (fun b => b.tids.head?)) = some (5, 0) ∧ 0 + 512 ≤ f.tick
      ∧ (match Map.find f.groups 3, Map.find f.threads 5 with
          | some g, some u => g.gates == [] && u.gid == 3 && u.passed == false && f.pourTarget g (nextCore 0) == some 4
            && (f.groupTids 3).length == 2 && f.waitingAt 3 (fun _ => true) == [] && (f.core (nextCore 0)).buckets == []
          | _, _ => false) = true := by decide +kernel

/-! ### The system block -/

def ax0 (i : Ax → Instr) : Instr := i { h := h0, a := .g 8 }

/-- A wave that waits in `i` for the accesses `l`. -/
def held (i : Instr) (l : List Nat) (s : State) : State :=
  s.updWave 4 (fun v => { v with frags := v.frags.map (fun f =>
    { f with st := .wait { instr := i, on := 1, vals := [], aux := l } }) })

theorem witness_PrivilegedWritesAndTlb :
    let sr (n : Nat) (h : n < 1024) : Instr := .srwrp { h := h0, wide := false, idx := ⟨n, h⟩, a := .g 8 }
    let one (i : Instr) (l : List (Nat × Nat)) (p : State → Iss → Thread → Bool) : Bool :=
      let s := vec (regs l (for' i))
      lane0 i s (fun x u => traps x && lowLane x.on == some 0 && p s x u)
    let inv (i : Instr) (o : Opnd) (good bad : Nat) (q : Nat → Bool) : Bool :=
      one i [(8, good)] (fun s x u => !q (opRead o x.v u).toNat && s.usersOf (fun _ => true) == [])
        && one i [(8, bad)] (fun _ x u => q (opRead o x.v u).toNat)
    let high (v : Nat) : Bool := bits v 31 26 != 0
    one (sr 0x3FF (by decide)) [] (fun _ _ _ => true) = true ∧ one (sr 0x2FF (by decide)) [] (fun _ _ _ => true) = true
      ∧ inv (pairOf .tlbinvPage) (.g 8) 0x3FF_FFFF 0x400_0000 high = true
      ∧ one (pairOf .tlbinvPage) [(17, 2 ^ 25)] (fun _ x u => decide (2 ^ 57 ≤ (opRead64 (.g 16) x.v u).toNat)) = true
      ∧ inv (ax0 .tlbinvPasid) (.g 8) 0x3FF_FFFF 0x400_0000 high = true
      ∧ inv (pairOf .tlbinvIpa) (.g 8) 0x3F0_0000 1 (fun v => high v || bits v 19 0 != 0) = true
      ∧ inv (ax0 .tlbinvFunc) (.g 8) 0x3F0_0000 0x400_0000 high = true
      ∧ inv (ax0 .tlbinvDom) (.g 8) 0xFFF 0x1000 (fun v => bits v 31 12 != 0) = true
      ∧ one (.tlbinvAll { h := h0 }) [] (fun _ _ _ => true) = true
      ∧ (let i : Instr := .tlbinvAll { h := h0 }
         let t := element rec4 0 ld4
         isTlbinv i = true ∧ waiting (held i [77] (for' i)) (fun wt _ => wt.instr == i) = true
          ∧ (next ld4 t).usersOf (fun _ => true) = [t.nextKey]) := by decide +kernel

/-- A matrix-role group of a launch with the privilege, its engine taken, at the word of `i`. -/
def engaged (i : Instr) : State :=
  let t := tiles (.accz { h := h0, acc := 1 })
  { t with mem := (for' i).mem, launches := t.launches.map (fun e => (e.1, { e.2 with sysPriv := true })) }

theorem witness_DomainsAndInjections :
    let one (i : Instr) (l : List (Nat × Nat)) (p : State → Iss → Thread → Bool) : Bool :=
      let s := vec (regs l (for' i))
      lane0 i s (fun x u => traps x && lowLane x.on == some 0 && p s x u)
    let mtx' (i : Instr) (v : Nat) (p : State → Iss → Bool) : Bool :=
      let s := regs [(8, v)] (engaged i)
      lane0 i s (fun x _ => traps x && lowLane x.on == some 0 && p s x)
    let any (_ : State) (_ : Iss) (_ : Thread) : Bool := true
    (let dom (i : Instr) (r : Nat) : Bool := one i [(r, 0xFFF)] (fun _ x _ => x.g.domain != 0xFFF) && one i [(r, 0x1000)] any && one i [(r, 0)] any
     dom (ax0 .domsetEnd) 8 = true ∧ dom (pairOf .domsetStat) 16 = true)
      ∧ (let i : Instr := .halt { h := h0 }
         let s := vec (for' i)
         meets i s (fun x => x.g.noPre == none && s.waves.all (fun e => e.2.frags.all (fun fr => fr.st == .ready))) = true
          ∧ meets i (s.updGroup 3 (fun g => { g with noPre := some (1, 0) })) (fun x => traps x && x.g.noPre != none) = true)
      ∧ one (pairOf .sigcmpCmp) [] any = true ∧ one (ax0 .sigcmpRd) [] any = true
      ∧ one (.finjReplay { h := h0 }) [] any = true ∧ one (.finjSig { h := h0 }) [] any = true
      ∧ (let i := ax0 .finjAcc
         mtx' i 0xF_FFFF (fun s x => engineFree s x && s.kindOfGroup x.g == .matrix) = true ∧ mtx' i 0x10_0000 (fun _ _ => true) = true)
      ∧ (let i := ax0 .finjAccue
         mtx' i 15 (fun s x => engineFree s x && s.kindOfGroup x.g == .matrix) = true ∧ mtx' i 16 (fun _ _ => true) = true)
      ∧ (let i := ax0 .finjSpue
         mtx' i 127 (fun s x => s.scrLoc x.gid x.g 127 1 == some (3, 127)) = true
          ∧ mtx' i (2 ^ 22) (fun s x => s.scrLoc x.gid x.g (2 ^ 22) 1 == none) = true)
      ∧ (let i := ax0 .finjLineue
         one i [(9, 2 ^ 25)] any = true
          ∧ one i [(8, 0x2001)] (fun s x _ => (s.placeVirt x.g .write 1 0x2001 1).1 == .at' (.mem 0x2001) 0x2001) = true) := by
  decide +kernel

/-- A 3,072-bit modulus, and a signature under it that was made outside Lean. -/
def imgN : Nat := 0xACF844948E8076BF8C936B6D2C9402E11D2711133BB03986CD4FB8A3C1BBA8B474FEA8E22C5DA5BA6507237DE9854F039390518346E3492468941B509BBD64B96BC34B76EF2C74E19F861D4447891DA401A96C518010884747985F1695C96005C533BDE4AB7E06D794598994AFF1C3B21BDEB6B79A8FF5BA3E3B4CAA404E6306D6C7C79B272DE1FCF9C6AA83F91C420E358BD2C3B7C63057521121686112DB5F6AC9D614C4E35009FDFB3AD9B2EFDD00EAF276794D9CF25C0B6CB63091DBB51325A9BF05DC81E0698AA95E28369BB40772BDD4386946424A15212B9A9A891E49932CE2517CFDCCD6939128A2956F23A44796AA10C927A9F6E927557C79F5049B687A0E50BF41C855CCADAC26C7202AFF628FA2F40E6F5A563B9E3D104B6CB2B5E2673EA1553D38C75CBAF0EAA6AFC798AE7E43973090A595B552C30F7DF68F80B9D9943EEC935AD95DD38A46B6C64F29181D9E59BAF57C9588D4A91B1525FDCA776544B1CE4ADED1E50B3DA7F456779C7A50C46837AA64087D357971946C55AF

def imgS : Nat := 0x89B83744520C6D20539814A10FED5C7CCFF87D7B449542BD5C19A3A9A7EF39F74E3D9698B2FBADA95C86DACFB916F0E7008889D73E99EC776D67D0FA55AD6BEB8F2C4BCE5BE8CC2D23B1DF520EA3042AA143EBC57CCFA982ACD105805B3CDC6B595C39A799D6E4487DB0674F77C6643F28207AF5FCFDF3F78E145302C9EA6BDB532AA39FE7D2028F200C64EB9AA3AEB4E8B0B82FB6FC0896DEE1E4486FA91ACD0A40149F4B88CEA8B4F5D6CE8D7FBEEFAEB2A355CD62C622E359A5E3CEE04AED597B04907CE75B558868D2B490EC669F96ED26470F0DA726CBE76F5484280298FA466D0B2E89E243FF61EE4C1244D870B6650FCEE42577828097DBDA7DFECD6C4DADEF6A2ADCEE609BFAA35824702A0D3771D8AD5B9BBA3FA6FF63AF322FB267BA6398F6A002A4222848A4877789028F5E02840808B0D23DFFC7482C3047D77FE3EDB119BE9E7E39838F965FC3E0EA0D4E0D426DF5C8CAE0FB1B503C0684F5AFF78D4ED85FDB376B686F941C105A1B9094940463F8D13AD303B7C11E6311EE73

/-- What is signed of an image of version 5 under key 1 with one primitive, entry 3 and opcode 0xE2. -/
def imgHead : List Byte := toBytes 4 792 ++ toBytes 2 5 ++ [1, 0] ++ (3 : Byte) :: 0xE2 :: List.replicate 14 0

def img : List Byte := imgHead ++ toBytes 384 imgN ++ toBytes 384 imgS

/-- The fuses name the key in slot 1, and the versions from 5 are accepted. -/
def fused : Mgmt := { State.reset.mgmt with
  svn := 5
  keyhash := [(1, sha256 (imageKey img))] }

/-- spec 14, R356: the signature of `img` verifies under the fused key. -/
theorem test_image_signature : fused.signed img = true := by
  have n : ofBytes (imageKey img) = 0xACF844948E8076BF8C936B6D2C9402E11D2711133BB03986CD4FB8A3C1BBA8B474FEA8E22C5DA5BA6507237DE9854F039390518346E3492468941B509BBD64B96BC34B76EF2C74E19F861D4447891DA401A96C518010884747985F1695C96005C533BDE4AB7E06D794598994AFF1C3B21BDEB6B79A8FF5BA3E3B4CAA404E6306D6C7C79B272DE1FCF9C6AA83F91C420E358BD2C3B7C63057521121686112DB5F6AC9D614C4E35009FDFB3AD9B2EFDD00EAF276794D9CF25C0B6CB63091DBB51325A9BF05DC81E0698AA95E28369BB40772BDD4386946424A15212B9A9A891E49932CE2517CFDCCD6939128A2956F23A44796AA10C927A9F6E927557C79F5049B687A0E50BF41C855CCADAC26C7202AFF628FA2F40E6F5A563B9E3D104B6CB2B5E2673EA1553D38C75CBAF0EAA6AFC798AE7E43973090A595B552C30F7DF68F80B9D9943EEC935AD95DD38A46B6C64F29181D9E59BAF57C9588D4A91B1525FDCA776544B1CE4ADED1E50B3DA7F456779C7A50C46837AA64087D357971946C55AF := by decide +kernel
  have k : (sha256 (imageKey img) == Map.get fused.keyhash (List.replicate 32 0) (imageKeyix img)) = true := by decide +kernel
  have s : ofBytes (imageSig img) = 0x89B83744520C6D20539814A10FED5C7CCFF87D7B449542BD5C19A3A9A7EF39F74E3D9698B2FBADA95C86DACFB916F0E7008889D73E99EC776D67D0FA55AD6BEB8F2C4BCE5BE8CC2D23B1DF520EA3042AA143EBC57CCFA982ACD105805B3CDC6B595C39A799D6E4487DB0674F77C6643F28207AF5FCFDF3F78E145302C9EA6BDB532AA39FE7D2028F200C64EB9AA3AEB4E8B0B82FB6FC0896DEE1E4486FA91ACD0A40149F4B88CEA8B4F5D6CE8D7FBEEFAEB2A355CD62C622E359A5E3CEE04AED597B04907CE75B558868D2B490EC669F96ED26470F0DA726CBE76F5484280298FA466D0B2E89E243FF61EE4C1244D870B6650FCEE42577828097DBDA7DFECD6C4DADEF6A2ADCEE609BFAA35824702A0D3771D8AD5B9BBA3FA6FF63AF322FB267BA6398F6A002A4222848A4877789028F5E02840808B0D23DFFC7482C3047D77FE3EDB119BE9E7E39838F965FC3E0EA0D4E0D426DF5C8CAE0FB1B503C0684F5AFF78D4ED85FDB376B686F941C105A1B9094940463F8D13AD303B7C11E6311EE73 := by decide +kernel
  have e : pkcsEncode (sha256 (img.take (img.length - 384))) = pow65537 0xACF844948E8076BF8C936B6D2C9402E11D2711133BB03986CD4FB8A3C1BBA8B474FEA8E22C5DA5BA6507237DE9854F039390518346E3492468941B509BBD64B96BC34B76EF2C74E19F861D4447891DA401A96C518010884747985F1695C96005C533BDE4AB7E06D794598994AFF1C3B21BDEB6B79A8FF5BA3E3B4CAA404E6306D6C7C79B272DE1FCF9C6AA83F91C420E358BD2C3B7C63057521121686112DB5F6AC9D614C4E35009FDFB3AD9B2EFDD00EAF276794D9CF25C0B6CB63091DBB51325A9BF05DC81E0698AA95E28369BB40772BDD4386946424A15212B9A9A891E49932CE2517CFDCCD6939128A2956F23A44796AA10C927A9F6E927557C79F5049B687A0E50BF41C855CCADAC26C7202AFF628FA2F40E6F5A563B9E3D104B6CB2B5E2673EA1553D38C75CBAF0EAA6AFC798AE7E43973090A595B552C30F7DF68F80B9D9943EEC935AD95DD38A46B6C64F29181D9E59BAF57C9588D4A91B1525FDCA776544B1CE4ADED1E50B3DA7F456779C7A50C46837AA64087D357971946C55AF 0x89B83744520C6D20539814A10FED5C7CCFF87D7B449542BD5C19A3A9A7EF39F74E3D9698B2FBADA95C86DACFB916F0E7008889D73E99EC776D67D0FA55AD6BEB8F2C4BCE5BE8CC2D23B1DF520EA3042AA143EBC57CCFA982ACD105805B3CDC6B595C39A799D6E4487DB0674F77C6643F28207AF5FCFDF3F78E145302C9EA6BDB532AA39FE7D2028F200C64EB9AA3AEB4E8B0B82FB6FC0896DEE1E4486FA91ACD0A40149F4B88CEA8B4F5D6CE8D7FBEEFAEB2A355CD62C622E359A5E3CEE04AED597B04907CE75B558868D2B490EC669F96ED26470F0DA726CBE76F5484280298FA466D0B2E89E243FF61EE4C1244D870B6650FCEE42577828097DBDA7DFECD6C4DADEF6A2ADCEE609BFAA35824702A0D3771D8AD5B9BBA3FA6FF63AF322FB267BA6398F6A002A4222848A4877789028F5E02840808B0D23DFFC7482C3047D77FE3EDB119BE9E7E39838F965FC3E0EA0D4E0D426DF5C8CAE0FB1B503C0684F5AFF78D4ED85FDB376B686F941C105A1B9094940463F8D13AD303B7C11E6311EE73 := by
    decide +kernel
  simp only [Mgmt.signed, k, n, s, e]
  decide +kernel

theorem test_image_fields : fused.revoked img = false ∧ imageVer img = 5 ∧ img.length = 792 := by decide +kernel

/-- An image of 792 bytes that names key 4. -/
def unkeyed : List Byte := toBytes 4 792 ++ [5, 0, 4, 0] ++ List.replicate 784 0

def mcload0 : Instr := pairOf .mcload

theorem witness_MicrocodeLoads :
    lane0 mcload0 (addr8 0x3000 mcload0) (fun x u => traps x && lowLane x.on == some 0
        && (opRead64 (.g 16) x.v u).toNat == 0) = true
      ∧ lane0 mcload0 (regs [(16, 1)] (addr8 0x3000 mcload0)) (fun x u => traps x && (opRead64 (.g 16) x.v u).toNat == 1) = true := by
  decide +kernel

theorem witness_MicrocodeLoads_waits : waiting (held mcload0 [50, 0x3000] (for' mcload0)) (fun wt _ => wt.instr == mcload0 && wt.aux == [50, 0x3000]) = true
      ∧ ((held mcload0 [50, 0x3000] (for' mcload0)).mcloads == [50]) = true := by decide +kernel

/-- The state with the cells `m` and the management core `g`. -/
def holding (m : List Host.Cell) (g : Mgmt) : State :=
  { for' mcload0 with mem := { (for' mcload0).mem with cells := m }, mgmt := g }

def ctx0 : Ctx := { die := 0, func := 0, pasid := 0, domain := 0 }

theorem loads_head (m : List Host.Cell) (g : Mgmt) :
    (holding m g).readVirt ctx0 0x3000 8 = (.ok (cellsAt m 0x3000 8 ++ []), holding m g) := rfl

set_option maxRecDepth 20000 in
theorem loads_all (m : List Host.Cell) (g : Mgmt) :
    (holding m g).readVirt ctx0 0x3000 792 = (.ok (cellsAt m 0x3000 792 ++ []), holding m g) := rfl

theorem cellsAt_take (m : List Host.Cell) (a n k : Nat) : cellsAt m a k = (cellsAt m a (k + n)).take k := by
  induction k generalizing a with
  | zero => rfl
  | succ k ih => rw [Nat.add_right_comm, cellsAt, cellsAt, List.take_succ_cons, ← ih]

theorem holding_img (g : Mgmt) (l : List Byte) (h : l.length = 792) :
    (holding (setCells [] 0x3000 l) g).readVirt ctx0 0x3000 8 = (.ok (l.take 8), holding (setCells [] 0x3000 l) g)
    ∧ (holding (setCells [] 0x3000 l) g).readVirt ctx0 0x3000 792 = (.ok l, holding (setCells [] 0x3000 l) g) := by
  have e := cellsAt_setCells l [] 0x3000
  rw [h] at e
  have t : cellsAt (setCells [] 0x3000 l) 0x3000 8 = (cellsAt (setCells [] 0x3000 l) 0x3000 792).take 8 := cellsAt_take _ _ 784 8
  constructor
  · rw [loads_head, t, e, List.append_nil]
  · rw [loads_all, e, List.append_nil]

theorem test_image_form : imageFormed img = Config.stopsOk (ofBytesBE (sha256 img)) := by
  have h : (8 + 16 * ((img.getD 7 0).toNat + 1) ≤ img.length - 768 && (imagePrims img).all Prim.inRange
      && distinct ((imagePrims img).map (·.entry)) && distinct (((imagePrims img).map (·.opcode)).filter (· != 0))) = true := by
    decide +kernel
  unfold imageFormed
  dsimp only
  rw [h, Bool.true_and]

/-- The image in memory, by fuses that accept it and that ask for version 6, and one that names no key; `stopsOk` of its digest
is open (log 39). -/
theorem witness_MicrocodeLoads_image :
    (∃ s : State, s.readVirt ctx0 0x3000 8 = (.ok (img.take 8), s) ∧ s.readVirt ctx0 0x3000 792 = (.ok img, s)
      ∧ s.mgmt.signed img = true ∧ s.mgmt.revoked img = false ∧ s.mgmt.svn ≤ imageVer img
      ∧ imageFormed img = Config.stopsOk (ofBytesBE (sha256 img)))
    ∧ (∃ s : State, s.readVirt ctx0 0x3000 792 = (.ok img, s) ∧ s.mgmt.signed img = true ∧ imageVer img < s.mgmt.svn)
    ∧ (∃ s : State, s.readVirt ctx0 0x3000 792 = (.ok unkeyed, s) ∧ s.mgmt.signed unkeyed = false)
    ∧ ofBytes ((img.take 8).take 4) = 792 :=
  ⟨⟨_, (holding_img fused img test_image_fields.2.2).1, (holding_img _ img test_image_fields.2.2).2, test_image_signature, test_image_fields.1,
      by decide +kernel, test_image_form⟩,
    ⟨_, (holding_img { fused with svn := 6 } img test_image_fields.2.2).2, test_image_signature, by decide +kernel⟩,
    ⟨_, (holding_img fused unkeyed (by decide +kernel)).2, by decide +kernel⟩, by decide +kernel⟩

/-- An image of no bytes, and an address without a translation. -/
theorem witness_MicrocodeLoads_refused :
    (match (for' mcload0).readVirt ctx0 0x3000 8, (for' mcload0).readVirt ctx0 0x40_0000 8 with
      | (.ok h, _), (.error _, _) => decide (ofBytes (h.take 4) < 792)
      | _, _ => false) = true := by decide +kernel

/-! ### Scheduling -/

/-- Function 0 enabled, its PASID table at 0x1B0000 with PASID 0 valid, and queue 1 with the packet `ws` at its head. -/
def posted (ws : List Nat) (s : State) : State :=
  let s := queue1 s
  let s : State := { s with host := { s.host with ftab := [(0, 2 ^ 63), (3, 0x1B_0000), (4, 0x1A_0000)] } }
  let s := (s.poke 0x1B_0000 (toBytes 8 1)).poke 0x1A_0020 (toBytes 8 129 ++ toBytes 8 0x3_0000 ++ toBytes 8 (2 ^ 32))
  s.poke 0x3_0000 (ws.flatMap (toBytes 8))

/-- A good packet for PASID 0 and the record at 0x2000. -/
def packet0 : List Nat := [0x101, 0x2000, 0, 0, 0, 0, 0, 0]

/-- A packet that passes every check, one of a reserved type, one of an invalid PASID, one whose record has no translation, and
one whose record is refused; a queue that is off; a launch with nothing left. -/
theorem witness_PacketsAccepted :
    let judged (ws : List Nat) (p : List W64 → State → State → Bool) : Bool :=
      let s := posted ws (at' 0)
      s.queueOn 0 1 && s.queueFill 0 1 != 0 && s.host.stalled == [] && s.host.frst == []
        && (match s.readVirt (s.engineCtx 0 (s.queuePasid 0 1)) (s.queueSlot 0 1 (s.queueHead 0 1)) 64 with
            | (.ok l, r) => p (wordsOf 8 l) r (r.queueTake 0 1)
            | _ => false)
    let valid (h : State) (ws : List W64) : Bool := (h.pasidEntry 0 (pkPasid ws)).testBit 0
    judged packet0 (fun ws _ h => packetOk ws && !pkOrd ws && valid h ws && h.rep.ending == [] && pkType ws != 0) = true
      ∧ judged (packet0.set 0 0x102) (fun ws _ _ => !packetOk ws) = true
      ∧ judged (packet0.set 0 (0x101 + 2 ^ 36)) (fun ws r _ => packetOk ws && pkOrd ws && !r.queueBusy (r.queuePath 0 1)) = true
      ∧ judged (packet0.set 0 0x5_0101) (fun ws _ h => packetOk ws && !valid h ws) = true
      ∧ judged (packet0.set 1 0x40_0000) (fun ws _ h => valid h ws
          && (match (h.readRecord (h.engineCtx 0 (pkPasid ws)) (pkLrec ws)).1 with | .error _ => true | _ => false)) = true
      ∧ (State.reset.queueOn 0 0 = false)
      ∧ (let s : State := { at' 0 with gangs := [] }
         (match Map.find s.launches 1 with
          | some l => l.src.answers && s.launchDone 1 l && l.cdep == 0
          | none => false) = true) := by decide +kernel

/-- A record that fits its queue, and one that does not. -/
theorem witness_PacketsAccepted_record :
    let s := (posted packet0 (at' 0)).poke 0x2000 forkRecord
    (match s.readRecord (s.engineCtx 0 0) 0x2000 with
      | (.ok (ws, b), v) => v.recordFits 0 0 0 true ws b && !v.recordFits 0 0 0 true (ws.set 29 1) b
          && decide (0 < lrGangs ws) && !lrTsen ws && v.gangs.all (fun e => e.2.lid != v.nextKey)
      | _ => false) = true := by decide +kernel

/-- A second gang of the launch of `at'`, in state `st`. -/
def second (st : GangSt) (ks : List Nat) (s : State) : State :=
  { s with nextKey := 100
           gangs := s.gangs ++ (match Map.find s.gangs 2 with
             | some g => [(50, { g with num := 0, groups := ks, st := st, since := 0 })]
             | none => []) }

/-- A gang before its first admission, and one whose group waits for its next phase. -/
theorem witness_Admissions :
    (let s := second .waiting [] (at' 0)
     match Map.find s.gangs 50 with
     | some g => s.nextServed == some 50 && (s.placeFor g).isSome && g.parent == none && (Map.find s.launches g.lid).isSome
         && s.wantsCore g && g.class7 == false && (Map.find s.gangs 50).isSome
         && s.cores.all (fun e => e.2.bins == [])
         && decide (g.since + sliceOf (s.classOf g) ≤ ({ s with tick := 2 ^ 27 } : State).tick)
     | none => false) = true
    ∧ (let t := at' 0
       let s : State := { second .phase [60] t with
         groups := t.groups ++ (match Map.find t.groups 3 with | some g => [(60, { g with gang := 50, st := .phase .queued })] | none => [])
         threads := t.threads ++ (match Map.find t.threads 5 with | some u => [(61, { u with gid := 60, place := none })] | none => []) }
       match Map.find s.gangs 50 with
       | some g => s.nextServed == some 50 && s.returns g 60 && (match s.placeFor g with
           | some (_, _, arc, _) => arc.length == (g.groups.filter (s.returns g)).length
           | none => false)
       | none => false) = true := by decide +kernel

/-- An `ALLOT` that has waited 2,048 cycles, and a bin whose earliest thread has waited 64. -/
theorem witness_Admissions_waits :
    ({ held (.allot { h := h0 }) [0] (at' 0) with tick := 2048 } : State).throttleNew 0 = some 3
      ∧ (let s : State := { (at' 0).updCore 0 (fun c => { c with bins := [{ gid := 3, pc := 0x200, tids := [(5, 0)], next := 64, closing := false }] }) with tick := 64 }
         ((s.core 0).bins[0]?.bind (fun b => b.tids.head?)) = some (5, 0) ∧ 0 + 64 ≤ s.tick ∧ (s.core 0).bins[0]?.any (fun b => b.next ≤ s.tick) = true) := by decide +kernel

/-- A launch of class 5 and one group of 2,048 graphics threads waits; the only cluster is 0 of die 0, and of its cores only 0 has
the sequencer's microcode, where the launch of `at'` runs. -/
def crowd (s : State) : State :=
  { s with
    nextKey := 100
    launches := s.launches ++ (match Map.find s.launches 1 with
      | some l => [(70, { l with words := [BitVec.ofNat 64 (2 ^ 38 + 2 ^ 35), 0, 2047, 0, 0, 0x300], cls := 5 })]
      | none => [])
    gangs := s.gangs ++ (match Map.find s.gangs 2 with
      | some g => [(71, { g with lid := 70, groups := [], st := .waiting })]
      | none => [])
    cores := (List.range 8).map (fun i => (i, { (s.core i) with ucode := i == 0 }))
    mgmt := { s.mgmt with clusters := ((List.range 64).filter (fun n => n != 0)).map (fun n => (n, { Cluster.init 18 with role := .failed })) } }

/-- The gang on core 0 at the end of its slice, and the request for the one that waits. -/
theorem witness_Preemption :
    let s : State := { crowd (at' 0) with tick := 2 ^ 27 }
    (match Map.find s.gangs 2, Map.find s.gangs 71, Map.find s.groups 3 with
      | some g, some q, some r => g.st == .resident && decide (g.since + sliceOf (s.classOf g) ≤ s.tick) && !g.groups.any s.inRegion
          && s.waitsFor (s.classOf g) g.die (s.peclassOf g) q && g.groups.filterMap (Map.find s.groups) == [r]
          && (s.core r.core).drain == none && s.wantsCore q && (s.placeFor q).isNone && q.st == .waiting
          && (match Map.find s.launches 70 with
              | some l =>
                let t : State := (s.refusedPlace 71).requestServed q
                (s.refusedPlace 71).cores.all (fun e => e.2.drain == none) && (match (t.clusterOrder [0, 1]).findSome? (fun e => t.planCluster (t.classOf q) e.1 e.2 (lrPack l.words)
                    (lrPaired l.words) (firstNeeds l)) with
                  | some [(c, n)] => (t.planCore (t.classOf q) c n).isSome && s.mayEvict (s.classOf q) r
                  | _ => false)
              | none => false)
      | _, _, _ => false) = true := by decide +kernel

/-- A drain of a wave whose run is open, of a quiet wave, and of a whole gang; an evicted wave that fits. -/
theorem witness_Preemption_drains :
    (let d (ws gs : List Nat) : Drain := { start := 0, waves := ws, whole := gs, keeps := [], move := false }
     let s (ws gs : List Nat) : State := (at' 0).updCore 0 (fun c => { c with drain := some (d ws gs) })
     let run : State := { ((s [4] []).updCore 0 (fun c => { c with slots := c.slots.set 0 { isOpen := true, wave := 4, count := 1, lane := 0, last := 0 } })).updWave 4
       (fun v => { v with frags := v.frags.map (fun f => { f with st := .wait { instr := .allot { h := h0 }, on := 1, vals := [], aux := [0] } }) })
       with tick := 256 }
     (0 + 256 ≤ run.tick ∧ (run.core 0).drain = some (d [4] []) ∧ run.drainedBy (d [4] []) = [4] ∧ run.runOpen 4 = true
        ∧ run.pickFrag 4 = none)
      ∧ ((s [4] []).core 0).drain = some (d [4] []) ∧ (s [4] []).waveQuiet 4 = true
      ∧ ((s [] [2]).core 0).drain = some (d [] [2]) ∧ (s [] [2]).gangQuiet 2 = true
      ∧ (at' 0).waves.all (fun e => e.2.frags.all (fun fr => fr.st == .ready)) = true ∧ Map.find (at' 0).mgmt.moving (dieOf 0) = none)
    ∧ (let s := (at' 0).updWave 4 (fun v => { v with resident := false })
       (s.core 0).drain = none ∧ (s.restorable 0).map Prod.fst = [4]) := by decide +kernel

/-! ### Answers to faults, and messages -/

/-- Fault record 200 of function 0 has FID 7, and the wave is parked on it. -/
def faulted (w : W64) (s : State) : State :=
  let s := (vec s).updWave 4 (fun v => { v with frags := v.frags.map (fun f => { f with st := .parked 200 0x5000 }) })
  { s with tick := 1750000
           mmu := { s.mmu with resps := [(0, w)], recs := [(200,
             { func := 0, pasid := 0, code := 0x080, stage := 1, fetch := false, vaddr := 0x5000, ipa := 0, domain := 0, level := 0,
               core := 0, fid := some 7, written := 0, tmo := 1 })] } }

/-- A `resume`, a fatal answer, a word for no record and one with reserved bits; a timeout; a remote load that is not answered. -/
theorem witness_FaultsAndSweeping :
    let named (w : Nat) (n : Bool) : Bool := ((faulted (BitVec.ofNat 64 w) (at' 0)).recOfFid 0 (bits w 31 0)).isSome == n
    (named 7 true && decide (7 < 2 ^ 34 ∧ bits 7 33 32 = 0)) = true
      ∧ (named (2 ^ 32 + 7) true && decide (2 ^ 32 + 7 < 2 ^ 34 ∧ bits (2 ^ 32 + 7) 33 32 = 1)) = true
      ∧ named 8 false = true ∧ 1 < bits (2 ^ 33 + 7) 33 32
      ∧ (let s := faulted 7 (at' 0)
         (match s.waves with
          | [(_, v)] => v.handler == none && v.gid == 3 && (match v.frags with
            | [fr] => fr.parkedOn 200 && fr.mask != 0 && !fr.hnd
            | _ => false)
          | _ => false) = true
          ∧ (match Map.find s.groups 3 with | some g => hvecOk g.hvec | none => false) = true
          ∧ s.cores.all (fun c => c.2.copyq == []) = true
          ∧ (match s.recOfFid 0 7 with
              | some (_, r) => decide (r.tmo ≠ 0 ∧ r.written + r.tmo * 1750000 ≤ s.tick)
                && decide (({ s with tick := 5 } : State).tick < r.written + r.tmo * 1750000)
              | none => false) = true)
      ∧ (let t := next ld4 (element rec4 3 ld4)
         let s : State := { t with flights := t.flights.map (fun e => (e.1, { e.2 with
           parts := e.2.parts.map (fun p => { p with loc := .dom (2 ^ 44 + 64) }) })) }
         (match s.flights with
          | [(_, f)] => (match f.parts with
            | [p] => f.instr == ld4 && p.loc.remote && s.mayPerform f && (match Map.find s.threads p.tid with
              | some u => u.place == some (4, 0)
              | none => false)
            | _ => false)
          | _ => false) = true) := by decide +kernel

/-- A sweeper of a table of one entry, whose descriptor is at 0x8000 with A set or clear. -/
def swept (lo desc : Nat) : State :=
  let s := ((State.reset.poke 0x4000 (toBytes 8 lo ++ toBytes 8 0x8000)).poke 0x8000 (toBytes 8 desc))
  { s with fsw := [(0, { Sweeper.init with ctl := 0x11, tbase := 0x4000, tcount := 1, qbase := 0x9000, qsize := 4,
                                           mark := 0x3_0000_0001 })] }

theorem witness_FaultsAndSweeping_sweeper :
    let on (s : State) : Bool :=
      let w := s.sweeper 0
      w.ctl.getLsbD 0 && w.tcount != 0 && decide (w.lastVisit + bits w.ctl.toNat 31 16 ≤ s.tick) && decide (w.ready < w.low)
        && decide (w.ready < w.high) && decide (w.ready < w.qsize.toNat) && !w.note.getLsbD 16
    let entry (lo desc : Nat) : Bool :=
      let s := swept lo desc
      on s && s.peekNat 0x4000 8 == lo && lo.testBit 0 && decide (lo < 256) && bits lo 3 1 == 0
        && bits (s.peekNat 0x4008 8) 51 0 == 0x8000 && s.isMem 0x8000 && !s.poisoned 0x8000 8
    entry 1 4 = true ∧ entry 1 0 = true ∧ descA 4 = true ∧ descA 0 = false
      ∧ on (swept 0 0) = true ∧ (swept 0 0).peekNat 0x4000 8 = 0 ∧ (State.reset.sweeper 0).tcount = 0 := by decide +kernel

/-- Function 0 enabled with MAC 5, one PASID that hosts may use, queue 1, an interface page of one queue, and QP 0 in STATE 3. -/
def attached (s : State) : State :=
  let s := posted packet0 s
  let s : State := { s with host := { s.host with portsUp := 0xF
                                                  ftab := [(0, 2 ^ 63 + 5), (3, 0x1B_0000), (4, 0x1A_0000), (7, 0x1D_0000)] } }
  (s.poke 0x1B_0000 (toBytes 8 3)).poke 0x1D_0000 (toBytes 8 0x30)


/-- The same with a request for QP 0, whose PSN is `past` above the one that is due. -/
def asks (r : RdmaReq) (past : Nat := 0) : State :=
  let s := attached (at' 0)
  { s with host := { s.host with inbox := [{ func := 0, qp := 0, psn := (s.recvPsn 0 0 + past) % 2 ^ 24, req := r }] } }

/-- A frame for the function, one for none; each kind of request; a QP with a request out, and with no retries. -/
theorem witness_HostMessages :
    let s := attached (at' 0)
    let fr (m : Nat) : Frame := { port := 3, mac := m, vlan := none, qpn := 0, psn := 0, req := .other 9 }
    let asked (r : RdmaReq) (p : State → Bool) : Bool :=
      let s := asks r
      s.headRequest 0 0 == some { func := 0, qp := 0, psn := s.recvPsn 0 0, req := r } && s.host.frst == [] && s.qpAccepts 0 0
        && p { s with host := { s.host with inbox := [], gapped := s.host.gapped.filter (· != 0) } }
    let at2 (h : State) (k : Need) (n : Nat) : Bool := (h.rdmaRange 0 0 k 0x2000 n).1 == some [(.mem 0x2000, n)]
    (s.host.portsUp.getLsbD 3 = true ∧ s.frameFor (fr 5) 0 = true ∧ (List.range 64).all (fun f => !s.frameFor (fr 6) f) = true
        ∧ s.qpState 0 0 = 3 ∧ 0 < s.qpCount 0)
      ∧ asked (.write 0 0x2000 [7, 8]) (fun h => at2 h .write 2 && decide (0x2002 ≤ h.qpAddr 0 0 + 8)) = true
      ∧ asked (.write 0x100000 0x2000 [7]) (fun h => (h.rdmaRange 0 0x100000 .write 0x2000 1).1 == none) = true
      ∧ asked (.read 0 0x2000 5) (fun h => at2 h .read 5 && (h.rdmaRange 0 0 .read 0x2000 5).2.poisonAt none (.mem 0x2000) 5 == none) = true
      ∧ asked (.write 0x80000100 0 (toBytes 8 7)) (fun _ => true) = true
      ∧ asked (.write 0x80000100 8 (toBytes 8 7)) (fun _ => true) = true
      ∧ asked (.write 0x80000000 0 (toBytes 8 1)) (fun h => !ifaceOn (h.iface 0 0)) = true
      ∧ asked (.other 9) (fun _ => true) = true
      ∧ ([3, 2 ^ 24 - 1].all (fun n => let t := asks (.write 0 0x2000 [7]) n
          (t.headRequest 0 0).any (fun r => r.psn != t.recvPsn 0 0 && psnLe (t.recvPsn 0 0) r.psn == (n == 3)) && t.host.gapped == []) = true)
      ∧ s.tailOk 0 1 1 = true ∧ s.tailOk 0 1 99 = false
      ∧ s.qpAccepts 0 0 = true ∧ s.frameFor { fr 5 with req := .ack 4 } 0 = true ∧ s.host.portsUp = 15#4 := by decide +kernel

/-- A request that the host has not acknowledged in time, with a retry left and with none, and in time. -/
theorem witness_HostMessages_late :
    let sent : Sent := { func := 0, qp := 0, psn := 4, last := 4, msg := .rdmaWrite 0 7 0x5000 [1], key := none, lid := none, event := false, at' := 0, out := true }
    let s (tick retry : Nat) : State :=
      let s := attached (at' 0)
      let s := s.poke (s.qpAddr 0 0 + 40) (toBytes 8 (2 ^ 24 + retry * 2 ^ 16))
      { s with tick := tick, host := { s.host with sent := [sent] } }
    ((s 14336 1).qpState 0 0 = 3 ∧ (s 14336 1).qpLate 0 0 = true ∧ Map.get (s 14336 1).host.retries 0 0 < (s 14336 1).qpRetry 0 0)
      ∧ ((s 14336 0).qpState 0 0 = 3 ∧ (s 14336 0).qpLate 0 0 = true ∧ (s 14336 0).qpRetry 0 0 ≤ Map.get (s 14336 0).host.retries 0 0)
      ∧ (s 14335 1).qpLate 0 0 = false := by decide +kernel

/-- A notify page whose interface is on. -/
theorem witness_HostMessages_notify :
    let s := asks (.write 0x80000000 8 (toBytes 8 1))
    let t := s.poke (s.ftBase 0 4 + 0x10000) (toBytes 8 (2 ^ 31 + 2048))
    ifaceOn (t.iface 0 0) = true ∧ 8 / 8 ≤ ifaceLast (t.iface 0 0) ∧ t.qpAccepts 0 0 = true
      ∧ t.headRequest 0 0 = some { func := 0, qp := 0, psn := t.recvPsn 0 0, req := .write 0x80000000 8 (toBytes 8 1) } := by decide +kernel

/-! ### Registers, spares, errors and links -/

/-- The values that the clauses tell apart. -/
theorem witness_RegisterWrites :
    let r := State.reset
    let h (v : W64) : State := { r with host := { r.host with ftab := Map.putD r.host.ftab 0 0 (BitVec.ofNat 64 (v.toNat % 2 ^ 62)) } }
    let good : W64 := 0x8000_0000_0000_0005
    (good.getLsbD 62 = false ∧ good.getLsbD 63 = true ∧ (h good).ftReserved 0 = false ∧ (h good).macClash 0 = false)
      ∧ (r.ftWord 0 0).testBit 62 = false ∧ 0 ∉ r.host.frst
      ∧ 0 ∈ ({ r with host := { r.host with frst := [0] } } : State).host.frst
      ∧ (let s : State := { r with mem := { r.mem with regions := [(2, { isSealed := false, sealing := true, domain := 4 })] } }
         (s.region 2).sealing = true ∧ s.cores.all (fun c => c.2.copyq.all (fun q => !q.regions.contains 2)) = true)
      ∧ r.rep.domend.getLsbD 63 = false ∧ (0x8000_0000_0000_0004 : W64).getLsbD 63 = true
      ∧ (let s : State := { r with rep := { r.rep with domend := 0x8000_0000_0000_0004, ending := [4] } }
         s.rep.ending = [4] ∧ s.rep.domend.getLsbD 63 = true ∧ bits s.rep.domend.toNat 11 0 = 4)
      ∧ Map.find (second (.halted 9) [] (at' 0)).gangs 50 ≠ none
      ∧ (regBase ≤ regBase + 0x440008 ∧ 0 < regBase ∧ 511 < 512 ∧ 17 < 18 ∧ 1 ≤ 7) := by decide +kernel

theorem witness_Spares :
    let r := State.reset
    let pass : State := { r with mgmt := { r.mgmt with clusters := [(17, { Cluster.init 17 with role := .cupping true })] }
                                 tick := 10 * roundPeriod }
    (r.tick / 1750000 ≤ Map.get r.mgmt.windows 0 1 ∧ Map.get r.mgmt.windows 0 1 < ({ r with tick := 1750000 } : State).tick / 1750000)
      ∧ (∃ c : Cluster, 64 ≤ c.replays ∧ c.margin < 4) ∧ (∃ c : Cluster, 64 ≤ c.replays ∧ 4 ≤ c.margin) ∧ (∃ c : Cluster, c.replays < 64)
      ∧ r.clusterIn 0 (· == .cupping false) = some 17
      ∧ (Map.get pass.mgmt.rounds 0 0 < pass.roundsDue 0 ∧ pass.clusterIn 0 ClusterRole.passed = some 17
          ∧ pass.roundChoice 0 = some (0, 0) ∧ pass.regionsOn 0 0 = [] ∧ Map.find pass.mgmt.moving 0 = none)
      ∧ (let on (m : Nat) : State :=
           { (at' 0).updCore m (fun c => { c with drain := some { start := 0, waves := [], whole := [], keeps := [], move := true } }) with
             mgmt := { r.mgmt with moving := [(0, { logical := 0, source := 0, target := some 17, core := m, retire := false })] } }
         dieOf 0 = 0 ∧ dieOf 7 = 0 ∧ clusterBase 0 0 = 0 ∧ (on 0).coreQuiet 0 = true ∧ (on 7).coreQuiet 7 = true
          ∧ (on 0).waves.all (fun e => e.2.frags.all (fun fr => fr.st == .ready)) = true)
      ∧ (let s : State := { at' 0 with mgmt := pass.mgmt, tick := pass.tick }
         (s.updGroup 3 (fun g => { g with noPre := some (1, 4) })).regionsOn 0 0 ≠ []
          ∧ 4 ≤ Map.get ({ pass.mgmt with skips := [(0, 4)] } : Mgmt).skips 0 0 ∧ Map.get pass.mgmt.skips 0 0 < 4)
      ∧ (let s : State := { r with mgmt := { r.mgmt with clusters := [(3, { Cluster.init 3 with role := .degraded })] }, tick := 151200000000000 }
         (s.cluster 0 3).role = .degraded ∧ (s.cluster 0 3).tested + 151200000000000 ≤ s.tick)
      ∧ Map.get r.mgmt.stackSpares 0 5 = 0 ∧ 5 ∉ r.mem.ddrFailed ∧ Map.get r.mem.wsFixed [] 70 = [] ∧ Map.get r.mem.wsSpares 0 1 < 4
      ∧ Map.has r.mem.wsCopied 70 = false
      ∧ Map.get ({ r.mgmt with stackSpares := [(5, 1)] } : Mgmt).stackSpares 0 5 ≠ 0
      ∧ (5, 2) ∈ ({ r.mgmt with stackCopying := [(5, 2)] } : Mgmt).stackCopying :=
  ⟨by decide +kernel, ⟨{ Cluster.init 0 with replays := 64 }, by decide⟩, ⟨{ Cluster.init 0 with replays := 64, margin := 4 }, by decide⟩,
    ⟨Cluster.init 0, by decide⟩, by decide +kernel⟩

/-- Every bank of the weight store comes into a refresh window. -/
theorem witness_Spares_window (d b : Nat) : ∃ s : State, s.inWindow d b = true := by
  refine ⟨{ State.reset with tick := 30107 * ((Config.refreshPhase d + 16 * b) % 1024) }, ?_⟩
  have h : refreshAt d b (30107 * ((Config.refreshPhase d + 16 * b) % 1024)) % 7168 = 0 := by unfold refreshAt; omega
  have n : Map.find State.reset.mem.wsWindow (d * 64 + b) = none := rfl
  simp [State.inWindow, h, n]

/-- A report block that is on, an event vector with and without its QP, and each place an error may strike. -/
theorem witness_ReportsAndErrors :
    let b : ErrBlock := { ctl := 0x8000_0000_0020_0004, vec := 0, seq := 3 }
    (b.ctl.getLsbD 63 = true ∧ b.vec.getLsbD 16 = false ∧ (Map.get State.reset.rep.er .init 0).ctl.getLsbD 63 = false)
      ∧ (let s := attached (at' 0)
         let s : State := { s with host := { s.host with ftab := s.host.ftab ++ [(5, 0x1E_0000)] } }
         let hit (s : State) : Bool := (s.peekNat (s.ftBase 0 5) 8).testBit 0 && bits (s.peekNat (s.ftBase 0 5) 8) 31 8 == 0
           && bits (s.peekNat (s.ftBase 0 5) 8) 51 32 == 0 && s.qpState 0 0 == 3 && decide (0 < s.qpCount 0)
         hit (s.poke 0x1E_0000 (toBytes 8 1)) = true ∧ hit s = false ∧ s.host.muted = []
          ∧ 0 ∈ ({ s.host with muted := [0] } : HostSt).muted)
      ∧ (let s := at' 0
         let alive (s : State) : Bool := match Map.find s.groups 3 with
           | some g => g.gates == [] && (match Map.find s.gangs g.gang with
             | some q => q.st != .ended && (Map.find s.launches q.lid).isSome && q.groups == [3] && s.descendants g.gang == []
             | none => false)
           | none => false
         let also (f : Group → Group) : State := s.updGroup 3 f
         alive s = true ∧ (Map.find s.threads 5).isSome = true ∧ s.waves.length = 1
          ∧ (engine (fun e => { e with owner := some 3 }) s |>.core 0).eng.owner = some 3
          ∧ (match ((next copy0 (copyOf copy0 rec4 rec4b 4)).core 0).copyq with | q :: _ => q.gid == 3 | [] => false) = true
          ∧ (match Map.find (also (fun g => { g with bars := [(4, { count := none, barx := false, paths := 0, ph := false, depth := 0, last := 0 })] })).groups 3 with
              | some g => Map.has g.bars 4 | none => false) = true
          ∧ alive (also (fun g => { g with st := .phase .queued })) = true ∧ alive (also (fun g => { g with st := .saved })) = true
          ∧ ({ s with gangs := [] } : State).gangs.all (fun e => e.2.lid != 1) = true ∧ (Map.find s.launches 1).isSome = true
          ∧ s.groups.all (fun e => e.2.core != 9) = true) := by decide +kernel

/-- A flit of 64 bytes with SEQ `n` and TYPE `ty`, its CRC good or bad. -/
def flitOf (n ty : Nat) (good : Bool) : List Byte :=
  let l := toBytes 4 (n + 4095 * 2 ^ 12 + ty * 2 ^ 24) ++ List.replicate 56 0
  l ++ toBytes 4 ((crc32 l).toNat + b2n !good)

theorem witness_Fabric :
    let r := State.reset
    let on : FPort := { FPort.init with en := true }
    (FPort.init.waiting = [] ∧ crcOk (flitOf 0 1 true) = true ∧ flitSeq (flitOf 0 1 true) = 0 ∧ flitType (flitOf 0 1 true) = 1 ∧ (flitOf 0 1 true).length = 64
        ∧ flitSeq (flitOf 1 1 true) ≠ on.recvSeq ∧ crcOk (flitOf 0 1 false) = false ∧ (r.fport 0).en = false)
      ∧ (on.en = true ∧ on.down = false ∧ on.training = false)
      ∧ (let v : FPort := { on with unacked := [(0, 9, .refuse 3)] }
         let free := v.unacked.filter (fun e => 2048 ≤ (flitAck (flitOf 0 0 true) + 4096 - e.1) % 4096)
         crcOk (flitOf 0 0 true) = true ∧ flitType (flitOf 0 0 true) = 0 ∧ free ≠ [] ∧ free.length = v.unacked.length)
      ∧ (let e : W128 := BitVec.ofNat 128 (2 ^ 127)
         let s : State := { r with host := { r.host with peers := [(0, e)] } }
         (r.peerEntry 0 0 0 = none ∧ s.peerEntry 0 0 0 ≠ none))
      ∧ (let s : State := { r with fab := { r.fab with domen := true } }
         s.inMemory 0 8 = true ∧ s.inMemory (2 ^ 44) 4 = false ∧ r.fab.domen = false)
      ∧ (let s : State := { r with fab := { r.fab with routes := [(2, 1)] } }
         Map.get s.fab.routes 0 2 ≠ 0 ∧ Map.get s.fab.routes 0 3 = 0)
      ∧ popCount 9 1 ≤ 1 ∧ popCount 9 3 = 2 ∧ 2 < popCount 9 7 ∧ FPort.init.unacked = [] ∧ FPort.init.training = false
      ∧ ({ FPort.init with training := true } : FPort).training = true := by decide +kernel

theorem witness_BootPowerAttestation :
    let m := State.reset.mgmt
    m.bootFail [] = 4 ∧ State.reset.poweredOn.mgmt.bootFail [] ≠ 0 ∧ 776 ≤ unkeyed.length ∧ m.signed unkeyed = false
      ∧ (776 ≤ img.length ∧ fused.signed img = true ∧ fused.revoked img = false)
      ∧ (m.hot = false ∧ 1000 * m.pwrcap.toNat < 3000000 ∧ 0 ≤ 1000 * m.pwrcap.toNat ∧ m.throt.toNat ≤ 32768 ∧ m.stopped = false)
      ∧ m.stage ≤ 1 ∧ 1 < ({ m with stage := 2 } : Mgmt).stage ∧ (List.replicate 32 (0 : Byte)).length = 32 :=
  ⟨by decide, by decide +kernel, by decide +kernel, by decide +kernel, ⟨by decide +kernel, test_image_signature, test_image_fields.1⟩, by decide +kernel,
    by decide +kernel⟩

/-- A store to cached memory, once it is performed, stands in its core's L1 alone until its group's stores leave it: spec 04, R110,
with the group's phase end of spec 02, R39. -/
theorem test_l1_store :
    let s := regs [(8, 7)] (element rec4 0 st4)
    let t := next (.storePerformed s.nextKey) (next st4 s)
    let u := t.flushGroup 3
    t.flights = [] ∧ t.peek 0x2000 4 = [0, 0, 0, 0] ∧ t.peekBy (some 0) 0x2000 4 = [7, 0, 0, 0]
      ∧ t.peekBy (some 1) 0x2000 4 = [0, 0, 0, 0] ∧ u.peek 0x2000 4 = [7, 0, 0, 0] ∧ u.peekBy (some 1) 0x2000 4 = [7, 0, 0, 0] := by
  decide +kernel

/-- The state after reset has the form, and steps. -/
theorem witness_StepKeepsMemory : Memory.wf State.reset.mem.cells = true ∧ Memory.wf State.reset.mem.ws = true
    ∧ stepped State.reset (fun _ => true) = true := by decide +kernel

/-! ### Single steps of the spec's examples -/

/-- spec 07, R164: the low 64 bits of the 96-bit addition. -/
theorem test_step_iadd_wide :
    (after (regs [(2, 0xFFFF_FFFF), (3, 1), (4, 1), (5, 0xFFFF_FFFF)]
        (for' (.iadd { h := h0, wide := true, d := .g 2, s1 := .g 2, s2 := .g 4, co := 1 })))).map
      (fun t => (t.reg 2, t.reg 3, t.preds.getLsbD 1)) = some (0, 1, true) := by decide +kernel

/-- spec 17, R400: an unassigned word with guard `p2`, which is true in lanes 4 to 7. -/
theorem test_step_unassigned :
    stepped (each' (fun i t => { t with preds := if 9 ≤ i ∧ i ≤ 12 then 4 else 0 }) (vec (lanes 16 (at' 0x4420_100C_0000_0005)))) (fun t =>
      match Map.find t.waves 4 with
      | some v => v.hr.cause == 0 && v.hr.faultmask == 0xF0 && v.hr.epc == 0x1000 && v.hr.decop == 0x884 && v.hr.decfld0 == 5
          && v.hr.decfld1 == 0x100C && v.handler.isSome
      | none => false) = true := by decide +kernel

/-- spec 18, R406: of three lanes, one loads, one is misaligned and one is out of extent, whose cause is the lowest. -/
theorem test_step_load_lanes :
    stepped (each' (fun i t => t.setReg 7 (if i = 5 then 0 else if i = 6 then 1 else 64))
      (vec (record 2 0x8200_0002_0000_0040_0000_0000_0000_2FF0 (lanes 3 (at' 0x4870_200E_4000_0080))))) (fun t =>
      match Map.find t.waves 4 with
      | some v => v.hr.cause == 0xA0 && v.hr.faultmask == 4 && v.hr.badaddr == 0x3070 && v.hr.decop == 0x90E
          && v.hr.decfld0 == 0x4000_0080 && v.hr.decfld1 == 0x200E
      | none => false) = true := by decide +kernel

end Sys2Proof.Tests
end

section
/-!
PROOFS. Integer arithmetic on words: each function on natural numbers that the integer instructions compute is the
operation on bit vectors that the spec names (spec 07, R164 to R173), at every width.
-/

namespace Sys2Proof.Machine

/-! ### Words as natural numbers and as integers -/

theorem ofNat_eq_of_toNat_eq {w n : Nat} {b : BitVec w} (h : b.toNat = n) : BitVec.ofNat w n = b := by
  subst h
  simp

theorem sInt_toNat {w : Nat} (p : BitVec w) : sInt w p.toNat = p.toInt := by
  rw [sInt, Nat.mod_eq_of_lt p.isLt, BitVec.toInt_eq_toNat_cond]
  cases w with
  | zero => simp [BitVec.of_length_zero]
  | succ k =>
    have : p.toNat < 2 ^ (k + 1 - 1) ↔ 2 * p.toNat < 2 ^ (k + 1) := by
      rw [Nat.add_sub_cancel, Nat.pow_succ]
      omega
    simp only [this]

theorem ofNat_wrap (w : Nat) (z : Int) : BitVec.ofNat w (wrap w z) = BitVec.ofInt w z :=
  ofNat_eq_of_toNat_eq (BitVec.toNat_ofInt z)

theorem buildNat_lt (n : Nat) (f : Nat → Bool) : buildNat n f < 2 ^ n := by
  induction n with
  | zero => simp [buildNat]
  | succ k ih =>
    rw [buildNat, Nat.pow_succ]
    cases f k <;> simp [b2n] <;> omega

theorem testBit_buildNat (n : Nat) (f : Nat → Bool) (j : Nat) :
    (buildNat n f).testBit j = (decide (j < n) && f j) := by
  induction n with
  | zero => simp [buildNat]
  | succ k ih =>
    rw [buildNat, Nat.mul_comm, Nat.testBit_two_pow_mul_add _ (buildNat_lt k f), ih]
    rcases Nat.lt_trichotomy j k with h | rfl | h
    · simp [h, Nat.lt_succ_of_lt h]
    · cases f j <;> simp [b2n]
    · have hbit : (b2n (f k)).testBit (j - k) = false :=
        Nat.testBit_lt_two_pow (Nat.lt_of_lt_of_le (m := 2) (by cases f k <;> decide)
          (Nat.le_self_pow (by omega) 2))
      simp [Nat.not_lt.mpr (Nat.le_of_lt h), Nat.not_lt.mpr h, hbit]

theorem getLsbD_ofNat_buildNat {w : Nat} (f : Nat → Bool) {j : Nat} (h : j < w) :
    (BitVec.ofNat w (buildNat w f)).getLsbD j = f j := by
  rw [BitVec.getLsbD_ofNat, testBit_buildNat]
  simp [h]

/-! ### Products, quotients, extremes (R165, R167, R168) -/

theorem ofNat_mulHiS {w : Nat} (p q : BitVec w) :
    BitVec.ofNat w (mulHiS w p.toNat q.toNat) = BitVec.ofInt w (p.toInt * q.toInt / (2 : Int) ^ w) := by
  rw [mulHiS, ofNat_wrap, sInt_toNat, sInt_toNat, Int.natCast_pow, Int.cast_ofNat_Int]

theorem ofNat_divS {w : Nat} (rem : Bool) (p q : BitVec w) :
    BitVec.ofNat w (divS w rem p.toNat q.toNat) = if rem then p.srem q else p.sdiv q := by
  rw [divS, ofNat_wrap, sInt_toNat, sInt_toNat]
  cases rem with
  | true => simp [← BitVec.toInt_srem]
  | false => exact BitVec.eq_of_toInt_eq (by simp [BitVec.toInt_sdiv, BitVec.toInt_ofInt])

theorem ofNat_divU {w : Nat} (rem : Bool) (p q : BitVec w) :
    BitVec.ofNat w (divU rem p.toNat q.toNat) = if rem then p % q else p / q := by
  cases rem with
  | true => exact ofNat_eq_of_toNat_eq BitVec.toNat_umod
  | false => exact ofNat_eq_of_toNat_eq BitVec.toNat_udiv

theorem ofNat_minS {w : Nat} (p q : BitVec w) :
    BitVec.ofNat w (minS w p.toNat q.toNat) = if p.toInt ≤ q.toInt then p else q := by
  rw [minS, sInt_toNat, sInt_toNat]
  split <;> simp

theorem ofNat_maxS {w : Nat} (p q : BitVec w) :
    BitVec.ofNat w (maxS w p.toNat q.toNat) = if p.toInt ≤ q.toInt then q else p := by
  rw [maxS, sInt_toNat, sInt_toNat]
  split <;> simp

theorem ofNat_min_toNat {w : Nat} (p q : BitVec w) :
    BitVec.ofNat w (min p.toNat q.toNat) = if p.toNat ≤ q.toNat then p else q := by
  rw [Nat.min_def]
  split <;> simp

theorem ofNat_max_toNat {w : Nat} (p q : BitVec w) :
    BitVec.ofNat w (max p.toNat q.toNat) = if p.toNat ≤ q.toNat then q else p := by
  rw [Nat.max_def]
  split <;> simp

theorem ofNat_natAbs_toInt {w : Nat} (p : BitVec w) :
    BitVec.ofNat w p.toInt.natAbs = if p.toInt < 0 then -p else p := by
  rw [← BitVec.ofInt_natCast]
  split
  · rename_i h
    rw [Int.ofNat_natAbs_of_nonpos (Int.le_of_lt h), BitVec.ofInt_neg, BitVec.ofInt_toInt]
  · rename_i h
    rw [Int.natAbs_of_nonneg (Int.not_lt.mp h), BitVec.ofInt_toInt]

/-! ### Shifts (R170) -/

theorem ofNat_shlNat {w : Nat} (p : BitVec w) (n : Nat) : BitVec.ofNat w (shlNat w p.toNat n) = p <<< n := by
  rw [shlNat]
  split
  · exact ofNat_eq_of_toNat_eq (by rw [BitVec.toNat_shiftLeft, Nat.shiftLeft_eq])
  · rename_i h
    rw [BitVec.shiftLeft_eq_zero (Nat.not_lt.mp h)]

theorem ofNat_shrNat {w : Nat} (p : BitVec w) (n : Nat) : BitVec.ofNat w (shrNat w p.toNat n) = p >>> n := by
  rw [shrNat]
  split
  · exact ofNat_eq_of_toNat_eq (by rw [BitVec.toNat_ushiftRight, Nat.shiftRight_eq_div_pow])
  · rename_i h
    rw [BitVec.ushiftRight_eq_zero (Nat.not_lt.mp h)]

/-- Past the bits of a value, a shift right leaves its sign alone. -/
theorem ediv_two_pow_of_le {z : Int} {m n : Nat} (hl : -2 ^ m ≤ z) (hu : z < 2 ^ m) (h : m ≤ n) :
    z / 2 ^ n = if z < 0 then -1 else 0 := by
  have hmn : (2 : Int) ^ m ≤ 2 ^ n := by
    exact_mod_cast Nat.pow_le_pow_right (n := 2) (by decide) h
  split
  · exact Int.ediv_eq_neg_one_of_neg_of_le (by assumption) (by omega)
  · exact Int.ediv_eq_zero_of_lt (by omega) (by omega)

theorem ofNat_sarNat {w : Nat} (p : BitVec w) (n : Nat) :
    BitVec.ofNat w (sarNat w p.toNat n) = p.sshiftRight n := by
  rw [sarNat, ofNat_wrap, sInt_toNat, BitVec.sshiftRight_eq, Int.shiftRight_eq_div_pow]
  rcases Nat.le_total n (w - 1) with h | h
  · rw [Nat.min_eq_left h]
  · rw [Nat.min_eq_right h]
    push_cast
    rw [ediv_two_pow_of_le (BitVec.le_toInt p) BitVec.toInt_lt h,
      ediv_two_pow_of_le (BitVec.le_toInt p) BitVec.toInt_lt (Nat.le_refl (w - 1))]

theorem ofNat_rotlNat {w : Nat} (hw : 0 < w) (p : BitVec w) (n : Nat) :
    BitVec.ofNat w (rotlNat w p.toNat n) = p.rotateLeft n := by
  refine ofNat_eq_of_toNat_eq ?_
  have hk : n % w < w := Nat.mod_lt n hw
  have hs : 2 ^ w = 2 ^ (n % w) * 2 ^ (w - n % w) := by rw [← Nat.pow_add]; congr 1; omega
  have hhi : p.toNat * 2 ^ (n % w) % 2 ^ w = 2 ^ (n % w) * (p.toNat % 2 ^ (w - n % w)) := by
    rw [hs, Nat.mul_comm, Nat.mul_mod_mul_left]
  have hlo : p.toNat / 2 ^ (w - n % w) < 2 ^ (n % w) := by
    rw [Nat.div_lt_iff_lt_mul (Nat.two_pow_pos _), ← hs]
    exact p.isLt
  rw [BitVec.toNat_rotateLeft, Nat.shiftLeft_eq, Nat.shiftRight_eq_div_pow, rotlNat, hhi,
    Nat.two_pow_add_eq_or_of_lt hlo]

/-! ### Counts (R171) -/

theorem popCount_eq_length (w n : Nat) :
    popCount w n = ((List.range w).filter (fun i => n.testBit i)).length := by
  induction w with
  | zero => rfl
  | succ k ih =>
    rw [popCount, ih, List.range_succ, List.filter_append, List.length_append]
    cases h : n.testBit k <;> simp [h, b2n, Nat.add_comm]

theorem highBit_lt {w n i : Nat} (h : highBit w n = some i) : i < w := by
  induction w with
  | zero => cases h
  | succ k ih =>
    rw [highBit] at h
    split at h
    · cases h
      exact Nat.lt_succ_self _
    · exact Nat.lt_succ_of_lt (ih h)

theorem clzNat_succ (w n : Nat) : clzNat (w + 1) n = if n.testBit w then 0 else clzNat w n + 1 := by
  cases hb : n.testBit w with
  | true => simp [clzNat, highBit, hb]
  | false =>
    cases h : highBit w n with
    | none => simp [clzNat, highBit, hb, h]
    | some i =>
      have := highBit_lt h
      simp only [clzNat, highBit, hb, h, Bool.false_eq_true, if_false]
      omega

theorem clzNat_eq_length (w n : Nat) :
    clzNat w n = ((List.range w).reverse.takeWhile (fun i => !n.testBit i)).length := by
  induction w with
  | zero => rfl
  | succ k ih =>
    rw [clzNat_succ, ih, List.range_succ, List.reverse_append, List.reverse_singleton, List.singleton_append,
      List.takeWhile_cons]
    cases n.testBit k <;> simp

theorem ofNat_brevNat {w : Nat} (p : BitVec w) : BitVec.ofNat w (brevNat w p.toNat) = p.reverse := by
  apply BitVec.eq_of_getLsbD_eq
  intro j hj
  rw [brevNat, getLsbD_ofNat_buildNat _ hj, BitVec.getLsbD_reverse, BitVec.getMsbD]
  simp [hj, BitVec.getLsbD]

/-! ### Bit fields (R172) -/

theorem fieldPos_eq_fpos (w f : Nat) : fieldPos w f = fpos w f := by
  simp [fieldPos, fpos, bits]

theorem fieldLen_eq_flen (w f : Nat) : fieldLen w f = flen w f := by
  simp [fieldLen, flen, bits, fieldPos_eq_fpos]

theorem bfxuNat_eq (w v f : Nat) : bfxuNat w v f = v / 2 ^ fpos w f % 2 ^ flen w f := by
  rw [bfxuNat, fieldPos_eq_fpos, fieldLen_eq_flen]

/-- The two's complement reading of a field of `n + 1` bits by its highest bit. -/
theorem sInt_succ_of_lt {n v : Nat} (h : v < 2 ^ (n + 1)) :
    sInt (n + 1) v = if v.testBit n then (v : Int) - 2 ^ (n + 1) else v := by
  have hb : v.testBit n = true ↔ ¬ v < 2 ^ n := by
    rw [Nat.testBit_eq_decide_div_mod_eq, decide_eq_true_eq, Nat.mod_eq_of_lt
      (Nat.div_lt_of_lt_mul (by rwa [← Nat.pow_succ])), Nat.div_eq_iff (Nat.two_pow_pos n)]
    rw [Nat.pow_succ] at h
    omega
  rw [sInt, Nat.mod_eq_of_lt h, Nat.add_sub_cancel]
  by_cases hv : v < 2 ^ n
  · rw [if_pos hv, if_neg (fun e => hb.mp e hv)]
  · rw [if_neg hv, if_pos (hb.mpr hv)]
    push_cast
    rfl

theorem ofNat_bfxsNat {w : Nat} (p : BitVec w) (f : Nat) :
    BitVec.ofNat w (bfxsNat w p.toNat f) =
      (let v := p.toNat / 2 ^ fpos w f % 2 ^ flen w f
       BitVec.ofInt w (if 0 < flen w f ∧ v.testBit (flen w f - 1) then (v : Int) - (2 : Int) ^ flen w f else v)) := by
  rw [bfxsNat, fieldLen_eq_flen, bfxuNat_eq]
  generalize p.toNat / 2 ^ fpos w f = q
  cases flen w f with
  | zero => simp [Nat.mod_one]
  | succ n =>
    rw [if_neg (Nat.succ_ne_zero n), ofNat_wrap, sInt_succ_of_lt (Nat.mod_lt _ (Nat.two_pow_pos _))]
    simp only [Nat.zero_lt_succ, true_and, Nat.add_sub_cancel]

theorem testBit_bfiNat (w v b f j : Nat) :
    (bfiNat w v b f).testBit j =
      if fpos w f ≤ j ∧ j < fpos w f + flen w f then b.testBit (j - fpos w f) else v.testBit j := by
  rw [bfiNat, fieldPos_eq_fpos, fieldLen_eq_flen]
  generalize fpos w f = p
  generalize flen w f = n
  have hlo : v % 2 ^ p < 2 ^ p := Nat.mod_lt _ (Nat.two_pow_pos _)
  have hmid : 2 ^ p * (b % 2 ^ n) + v % 2 ^ p < 2 ^ (p + n) := by
    have : b % 2 ^ n + 1 ≤ 2 ^ n := Nat.mod_lt _ (Nat.two_pow_pos _)
    calc 2 ^ p * (b % 2 ^ n) + v % 2 ^ p < 2 ^ p * (b % 2 ^ n + 1) := by rw [Nat.mul_add, Nat.mul_one]; omega
      _ ≤ 2 ^ p * 2 ^ n := Nat.mul_le_mul_left _ this
      _ = 2 ^ (p + n) := (Nat.pow_add 2 p n).symm
  have hform : v % 2 ^ p + b % 2 ^ n * 2 ^ p + v / 2 ^ (p + n) * 2 ^ (p + n)
      = 2 ^ (p + n) * (v / 2 ^ (p + n)) + (2 ^ p * (b % 2 ^ n) + v % 2 ^ p) := by
    rw [Nat.mul_comm (b % 2 ^ n), Nat.mul_comm (v / 2 ^ (p + n))]
    omega
  simp only [hform]
  rw [Nat.testBit_two_pow_mul_add _ hmid, Nat.testBit_two_pow_mul_add _ hlo, Nat.testBit_mod_two_pow,
    Nat.testBit_mod_two_pow, Nat.testBit_div_two_pow]
  by_cases hp : j < p
  · simp [hp, Nat.lt_add_right n hp, Nat.not_le.mpr hp]
  · by_cases hn : j < p + n
    · have : j - p < n := by omega
      simp [hp, hn, this, Nat.not_lt.mp hp]
    · simp [hn, Nat.not_lt.mp hn]

/-! ### Byte permutes (R173) -/

/-- A byte as bits [4:3] of its selector move it. -/
def movedByte (k : Nat) (b : Byte) : Byte :=
  match k with
  | 0 => b
  | 1 => 0
  | 2 => if b.msb then BitVec.allOnes 8 else 0
  | _ => b.reverse

theorem ofNat_prmtByte (src : W64) (sel : Nat) :
    BitVec.ofNat 8 (prmtByte src.toNat sel) = movedByte (sel / 8 % 4) (src.extractLsb' (8 * (sel % 8)) 8) := by
  have hb : (src.extractLsb' (8 * (sel % 8)) 8).toNat = src.toNat / 2 ^ (8 * (sel % 8)) % 256 := by
    rw [BitVec.extractLsb'_toNat, Nat.shiftRight_eq_div_pow]
  have hk : bits sel 4 3 = sel / 8 % 4 := rfl
  rw [prmtByte, ← hb, hk]
  generalize src.extractLsb' (8 * (sel % 8)) 8 = b
  have h4 : sel / 8 % 4 < 4 := Nat.mod_lt _ (by decide)
  generalize sel / 8 % 4 = k at h4
  match k, h4 with
  | 0, _ => simp [movedByte]
  | 1, _ => rfl
  | 2, _ =>
    have : b.toNat.testBit 7 = b.msb := by rw [BitVec.msb_eq_getLsbD_last]; rfl
    simp only [this, movedByte]
    cases b.msb <;> rfl
  | 3, _ => exact ofNat_brevNat b

theorem prmtByte_lt (x sel : Nat) : prmtByte x sel < 256 := by
  rw [prmtByte]
  split
  · exact Nat.mod_lt _ (by decide)
  · decide
  · split <;> decide
  · exact buildNat_lt 8 _

/-- Byte `j` of `PRMT` is built by byte `j` of the selector. -/
theorem extractLsb'_prmtNat (a b c : Nat) {j : Nat} (hj : j < 4) :
    (BitVec.ofNat 32 (prmtNat a b c)).extractLsb' (8 * j) 8
      = BitVec.ofNat 8 (prmtByte (a + b * 2 ^ 32) (c / 2 ^ (8 * j) % 256)) := by
  have h0 := prmtByte_lt (a + b * 2 ^ 32) (bits c 7 0)
  have h1 := prmtByte_lt (a + b * 2 ^ 32) (bits c 15 8)
  have h2 := prmtByte_lt (a + b * 2 ^ 32) (bits c 23 16)
  have h3 := prmtByte_lt (a + b * 2 ^ 32) (bits c 31 24)
  apply BitVec.eq_of_toNat_eq
  rw [BitVec.extractLsb'_toNat, Nat.shiftRight_eq_div_pow, BitVec.toNat_ofNat, BitVec.toNat_ofNat, prmtNat]
  match j, hj with
  | 0, _ => change _ = prmtByte _ (bits c 7 0) % _; omega
  | 1, _ => change _ = prmtByte _ (bits c 15 8) % _; omega
  | 2, _ => change _ = prmtByte _ (bits c 23 16) % _; omega
  | 3, _ => change _ = prmtByte _ (bits c 31 24) % _; omega

theorem toNat_append_words (a b : W32) : (b ++ a).toNat = a.toNat + b.toNat * 2 ^ 32 := by
  rw [BitVec.toNat_append, Nat.shiftLeft_eq, Nat.mul_comm, ← Nat.two_pow_add_eq_or_of_lt a.isLt, Nat.add_comm]

theorem extractLsb'_prmtNat_words (a b c : W32) {j : Nat} (hj : j < 4) :
    (BitVec.ofNat 32 (prmtNat a.toNat b.toNat c.toNat)).extractLsb' (8 * j) 8
      = movedByte (c.toNat / 2 ^ (8 * j) / 8 % 4) ((b ++ a).extractLsb' (8 * (c.toNat / 2 ^ (8 * j) % 8)) 8) := by
  rw [extractLsb'_prmtNat _ _ _ hj, ← toNat_append_words, ofNat_prmtByte]
  generalize c.toNat / 2 ^ (8 * j) = n
  have hkind : n % 256 / 8 % 4 = n / 8 % 4 := by omega
  have hbyte : n % 256 % 8 = n % 8 := by omega
  rw [hkind, hbyte]

end Sys2Proof.Machine
end

section
/-!
PROOFS. Operands in the width of a form, and the shapes of per-lane instructions: a shape over natural numbers is the same
shape over bit vectors wherever its function is.
-/

namespace Sys2Proof.Machine

/-! ### Operands in the width of a form (spec 07, R160) -/

@[simp] theorem wdOf_beq_64 (wide : Bool) : (wdOf wide == 64) = wide := by cases wide <;> rfl

theorem wdOf_pos (wide : Bool) : 0 < wdOf wide := by cases wide <;> decide

theorem opNat_lt (wide : Bool) (o : Opnd) (v : Wave) (t : Thread) : opNat wide o v t < 2 ^ wdOf wide := by
  cases wide with
  | true => exact (opRead64 o v t).isLt
  | false => exact (opRead o v t).isLt

@[simp] theorem toNat_opVal (wide : Bool) (o : Opnd) (v : Wave) (t : Thread) :
    (opVal (wdOf wide) o v t).toNat = opNat wide o v t := by
  rw [opVal, wdOf_beq_64, BitVec.toNat_ofNat, Nat.mod_eq_of_lt (opNat_lt wide o v t)]

theorem ofNat_opNat (wide : Bool) (o : Opnd) (v : Wave) (t : Thread) :
    BitVec.ofNat (wdOf wide) (opNat wide o v t) = opVal (wdOf wide) o v t :=
  ofNat_eq_of_toNat_eq (toNat_opVal wide o v t)

/-- A result is written modulo 2^wd. -/
theorem opPut_eq_putVal (wide : Bool) (d : Opnd) (n : Nat) :
    opPut wide d n = putVal (wdOf wide) d (BitVec.ofNat _ n) := by
  funext t
  rw [putVal, wdOf_beq_64]
  cases wide with
  | true => exact congrArg (opWrite64 d · t) (ofNat_eq_of_toNat_eq rfl).symm
  | false => exact congrArg (opWrite d · t) (ofNat_eq_of_toNat_eq rfl).symm

theorem opPut_true (d : Opnd) (n : Nat) : opPut true d n = opWrite64 d (BitVec.ofNat 64 n) := rfl

theorem opPut_false (d : Opnd) (n : Nat) : opPut false d n = opWrite d (BitVec.ofNat 32 n) := rfl

theorem ofNat_immNat (wide : Bool) (i : W32) : BitVec.ofNat (wdOf wide) (immNat wide i) = i.signExtend (wdOf wide) := by
  cases wide <;> simp [immNat, wdOf]

theorem immNat_lt (wide : Bool) (i : W32) : immNat wide i < 2 ^ wdOf wide := by
  cases wide with
  | true => exact (i.signExtend 64).isLt
  | false => exact i.isLt

theorem toNat_signExtend_wdOf (wide : Bool) (i : W32) : (i.signExtend (wdOf wide)).toNat = immNat wide i := by
  rw [← ofNat_immNat, BitVec.toNat_ofNat, Nat.mod_eq_of_lt (immNat_lt wide i)]

/-! ### Per-lane instructions -/

/-- An instruction of the per-lane shape acts as any description that agrees with it in each lane. -/
theorem actsAs_of_laneWise {i : Instr} {f g : Iss → Nat → Thread → Thread}
    (he : ∀ s, exec i s = issue i (laneWise f) s) (h : ∀ x l u, f x l u = g x l u) : ActsAs i g := by
  obtain rfl : f = g := by
    funext x l u
    exact h x l u
  intro s x hi
  obtain ⟨t, ht, hr⟩ := laneWise_runs hi f
  exact ⟨t, (he s).trans ht, hr⟩

theorem actsAs_lane1 {i : Instr} {a : A1} {f : Nat → Nat} {g : (w : Nat) → BitVec w → BitVec w}
    (he : ∀ s, exec i s = issue i (laneWise (lane1 a f)) s)
    (h : ∀ p : BitVec (wdOf a.wide), BitVec.ofNat _ (f p.toNat) = g _ p) : ActsAs i (valued1 a g) :=
  actsAs_of_laneWise he fun x _ u => by
    rw [lane1, valued1, opPut_eq_putVal, ← toNat_opVal, h]

theorem actsAs_lane2 {i : Instr} {a : A2} {f : Nat → Nat → Nat} {g : (w : Nat) → BitVec w → BitVec w → BitVec w}
    (he : ∀ s, exec i s = issue i (laneWise (lane2 a f)) s)
    (h : ∀ p q : BitVec (wdOf a.wide), BitVec.ofNat _ (f p.toNat q.toNat) = g _ p q) : ActsAs i (valued2 a g) :=
  actsAs_of_laneWise he fun x _ u => by
    rw [lane2, valued2, opPut_eq_putVal, ← toNat_opVal, ← toNat_opVal, h]

theorem actsAs_lane2s {i : Instr} {a : A2} {f : Nat → Nat → Nat} {g : (w : Nat) → BitVec w → Nat → BitVec w}
    (he : ∀ s, exec i s = issue i (laneWise (lane2s a f)) s)
    (h : ∀ (p : BitVec (wdOf a.wide)) (n : Nat), BitVec.ofNat _ (f p.toNat n) = g _ p n) : ActsAs i (valued2s a g) :=
  actsAs_of_laneWise he fun x _ u => by
    rw [lane2s, valued2s, opPut_eq_putVal, ← toNat_opVal, h]

theorem actsAs_laneImm {i : Instr} {a : A1i} {f : Nat → Nat → Nat} {g : (w : Nat) → BitVec w → BitVec w → BitVec w}
    (he : ∀ s, exec i s = issue i (laneWise (laneImm a f)) s)
    (h : ∀ p q : BitVec (wdOf a.wide), BitVec.ofNat _ (f p.toNat q.toNat) = g _ p q) : ActsAs i (valuedImm a g) :=
  actsAs_of_laneWise he fun x _ u => by
    rw [laneImm, valuedImm, opPut_eq_putVal, ← toNat_opVal, ← toNat_signExtend_wdOf, h]

theorem actsAs_laneShi {i : Instr} {a : ShiArgs} {f : Nat → Nat → Nat} {g : (w : Nat) → BitVec w → Nat → BitVec w}
    (he : ∀ s, exec i s = issue i (laneWise (laneShi a f)) s)
    (h : ∀ (p : BitVec (wdOf a.wide)) (n : Nat), BitVec.ofNat _ (f p.toNat n) = g _ p n) : ActsAs i (valuedShi a g) :=
  actsAs_of_laneWise he fun x _ u => by
    rw [laneShi, valuedShi, opPut_eq_putVal, ← toNat_opVal, h]

theorem actsAs_countLane {i : Instr} {a : A1} {f : Nat → Nat} {g : (w : Nat) → BitVec w → Nat}
    (he : ∀ s, exec i s = issue i (laneWise (countLane a f)) s)
    (h : ∀ p : BitVec (wdOf a.wide), f p.toNat = g _ p) : ActsAs i (counted1 a g) :=
  actsAs_of_laneWise he fun x _ u => by
    rw [countLane, counted1, opPut_false, ← toNat_opVal, h]

end Sys2Proof.Machine
end

section
/-!
PROOFS. Sums and products (O9, O10).
-/

namespace Sys2Proof.Machine

/-! ### Sums (R164, R166) -/

theorem addLane_eq (wide : Bool) (d : Opnd) (co : Fin 8) (p q : BitVec (wdOf wide)) (c : Nat) (u : Thread) :
    addLane wide d co p.toNat q.toNat c u = (putVal _ d (p + q + BitVec.ofNat _ c) u).setPred co
      (decide (2 ^ wdOf wide ≤ p.toNat + q.toNat + c)) := by
  rw [addLane, opPut_eq_putVal, carryOut, BitVec.ofNat_add, BitVec.ofNat_add]
  simp

theorem subLane_eq (wide : Bool) (d : Opnd) (co : Fin 8) (p q : BitVec (wdOf wide)) (c : Nat) (u : Thread) :
    subLane wide d co p.toNat q.toNat c u = (putVal _ d (p - q - BitVec.ofNat _ c) u).setPred co
      (decide (p.toNat < q.toNat + c)) := by
  rw [subLane, opPut_eq_putVal, borrowOut, ofNat_wrap, Int.sub_eq_add_neg, Int.sub_eq_add_neg, BitVec.ofInt_add,
    BitVec.ofInt_add, BitVec.ofInt_neg, BitVec.ofInt_neg]
  simp [BitVec.sub_eq_add_neg]

/-- Settles O9: each sum and difference is one lane's `addLane` or `subLane` on the values of its operands. -/
theorem sums : Obligations.Sums := by
  refine ⟨fun a => ?_, fun a => ?_, fun a => ?_, fun a => ?_, fun a => ?_, fun a => ?_⟩
  · refine actsAs_of_laneWise (fun _ => rfl) fun x _ u => ?_
    rw [← toNat_opVal, ← toNat_opVal, addLane_eq]
    simp
  · refine actsAs_of_laneWise (fun _ => rfl) fun x _ u => ?_
    rw [← toNat_opVal, ← toNat_opVal, addLane_eq]
  · refine actsAs_of_laneWise (fun _ => rfl) fun x _ u => ?_
    rw [← toNat_opVal, ← toNat_opVal, subLane_eq]
    simp
  · refine actsAs_of_laneWise (fun _ => rfl) fun x _ u => ?_
    rw [← toNat_opVal, ← toNat_opVal, subLane_eq]
  · exact actsAs_laneImm (fun _ => rfl) fun p q => by simp [BitVec.ofNat_add]
  · refine actsAs_of_laneWise (fun _ => rfl) fun x _ u => ?_
    rw [opPut_true, leaNat, ofNat_eq_of_toNat_eq rfl]

/-! ### Products (R165) -/

theorem ofNat_wrap_mul_toInt (p q : W32) :
    BitVec.ofNat 64 (wrap 64 (p.toInt * q.toInt)) = p.signExtend 64 * q.signExtend 64 := by
  rw [ofNat_wrap, BitVec.ofInt_mul]
  rfl

theorem ofNat_mul_toNat {w v : Nat} (p q : BitVec w) :
    BitVec.ofNat v (p.toNat * q.toNat) = p.setWidth v * q.setWidth v := by
  rw [BitVec.ofNat_mul, BitVec.ofNat_toNat, BitVec.ofNat_toNat]

/-- Settles O10: each product is the function on natural numbers that its `exec` names, read at the width of the form. -/
theorem products : Obligations.Products := by
  refine ⟨fun a => ?_, fun a => ?_, fun a => ?_, fun a => ?_, fun a => ?_, fun a => ?_⟩
  · exact actsAs_lane2 (fun _ => rfl) fun p q => by simp [ofNat_mul_toNat]
  · exact actsAs_lane2 (fun _ => rfl) ofNat_mulHiS
  · exact actsAs_lane2 (fun _ => rfl) fun _ _ => rfl
  · refine actsAs_of_laneWise (fun _ => rfl) fun x _ u => ?_
    rw [opPut_true, ofNat_wrap_mul_toInt]
  · refine actsAs_of_laneWise (fun _ => rfl) fun x _ u => ?_
    rw [opPut_true, ofNat_mul_toNat]
  · refine actsAs_of_laneWise (fun _ => rfl) fun x _ u => ?_
    rw [lane3, opPut_eq_putVal, BitVec.ofNat_add, BitVec.ofNat_mul, ofNat_opNat, ofNat_opNat, ofNat_opNat]

end Sys2Proof.Machine
end

section
/-!
PROOFS. Divisions (O11): a division whose divisors are not zero acts lane by lane, and the lanes whose divisor is zero take their
cause from a state in which the other lanes have divided.
-/

namespace Sys2Proof.Machine

/-! ### Who issues after registers have changed -/

/-- The update of a thread keeps what decides who issues: its place, its predicates, and whether a gate call holds it. -/
def KeepsIssue (f : Thread → Thread) : Prop :=
  ∀ u, (f u).place = u.place ∧ (f u).preds = u.preds ∧ (f u).held = u.held

theorem putVal_keepsIssue (w : Nat) (d : Opnd) (b : Thread → BitVec w) : KeepsIssue (fun u => putVal w d (b u) u) := by
  intro u
  unfold putVal opPut opWrite64 opWrite
  cases d <;> split <;> exact ⟨rfl, rfl, rfl⟩

theorem Map.firstKey_mapv {α : Type} (m : Map α) (f : Nat → α → α) (p : Nat → α → Bool)
    (hp : ∀ k v, p k (f k v) = p k v) : Map.firstKey (Map.mapv m f) p = Map.firstKey m p := by
  simp only [Map.firstKey, Map.mapv, List.find?_map, Option.map_map, Function.comp_def, hp]

/-- What `State.mapLanes` does to one thread. -/
def onLanes (w : Nat) (m : Mask) (f : Nat → Thread → Thread) (t : Thread) : Thread :=
  match t.place with
  | some (w', l) => if w' = w && m.getLsbD l then f l t else t
  | none => t

theorem mapLanes_threads (s : State) (w : Nat) (m : Mask) (f : Nat → Thread → Thread) :
    (s.mapLanes w m f).threads = Map.mapv s.threads (fun _ => onLanes w m f) := rfl

theorem onLanes_keepsIssue (w : Nat) (m : Mask) {f : Nat → Thread → Thread} (hf : ∀ l, KeepsIssue (f l)) :
    KeepsIssue (onLanes w m f) := by
  intro u
  unfold onLanes
  split
  · split
    · exact hf _ u
    · exact ⟨rfl, rfl, rfl⟩
  · exact ⟨rfl, rfl, rfl⟩

section
variable {s t : State} {h : Thread → Thread} (hh : KeepsIssue h) (ht : t.threads = Map.mapv s.threads (fun _ => h))
include hh ht

theorem laneThread_mapv (w l : Nat) : t.laneThread w l = (s.laneThread w l).map h := by
  have hplace : ∀ (_ : Nat) (u : Thread), ((h u).place == some (w, l)) = (u.place == some (w, l)) := fun _ u => by
    rw [(hh u).1]
  rw [State.laneThread, State.laneThread, State.laneTid, State.laneTid, ht, Map.firstKey_mapv _ _ _ hplace]
  cases Map.firstKey s.threads fun _ u => u.place == some (w, l) with
  | none => rfl
  | some k => exact Map.find_mapv s.threads _ k

theorem guardLanes_mapv (w : Nat) (m : Mask) (g : Hdr) : t.guardLanes w m g = s.guardLanes w m g := by
  have hguard : ∀ u, guardOn g (h u) = guardOn g u := fun u => by
    rw [guardOn, guardOn, Thread.pred, Thread.pred, (hh u).2.1]
  unfold State.guardLanes
  congr 2
  funext l
  rw [laneThread_mapv hh ht]
  cases s.laneThread w l with
  | none => rfl
  | some u => exact hguard u

theorem eligible_mapv (hr : ∀ w v, t.inRun w v = s.inRun w v) (hp : ∀ g, t.phaseDue g = s.phaseDue g) (w : Nat)
    (v : Wave) (fr : Frag) : t.eligible w v fr = s.eligible w v fr := by
  unfold State.eligible
  rw [hr, hp]
  congr 2
  funext l
  rw [laneThread_mapv hh ht]
  cases s.laneThread w l with
  | none => rfl
  | some u => exact congrArg not (hh u).2.2

end

theorem issuer_mapLanes (s : State) (w : Nat) (m : Mask) {f : Nat → Thread → Thread} (hf : ∀ l, KeepsIssue (f l))
    (i : Instr) : (s.mapLanes w m f).issuer i = s.issuer i := by
  have hh := onLanes_keepsIssue w m hf
  have ht := mapLanes_threads s w m f
  unfold State.issuer
  simp only [State.mapLanes_waves, State.mapLanes_groups, State.mapLanes_cur, guardLanes_mapv hh ht,
    eligible_mapv hh ht (fun _ _ => rfl) (fun _ => rfl)]

/-! ### Lanes that take no cause -/

theorem issues_mask_ne_zero {i : Instr} {s : State} {x : Iss} (h : Issues i s x) : x.fr.mask ≠ 0 := by
  intro e
  have hon := issuer_on h.issuer
  rw [e] at hon
  exact h.lanes (hon.symm.trans BitVec.and_zero)

theorem issuer_ready {i : Instr} {s : State} {x : Iss} (h : s.issuer i = some x) : x.fr.st = .ready := by
  obtain ⟨-, -, -, -, -, -, hel, -⟩ := issuer_facts h
  simp only [State.eligible, Bool.and_eq_true, beq_iff_eq] at hel
  exact hel.1.1.1.1.1

/-- Where no lane takes the cause, the fragment goes on. -/
theorem faultLanes_zero (s : State) {x : Iss} (code : Nat) (hm : x.fr.mask ≠ 0) (hr : x.fr.st = .ready) :
    s.faultLanes x 0 code = s.advance x := by
  have hgo : s.faultLanes x 0 code = s.finish x none ((lanesOf x.fr.mask).map (fun l => (l, .go x.next))) := by
    simp [State.faultLanes]
  rw [hgo, finish_uniform s x x.next hm, State.advance, ← hr]

/-! ### The body of a division -/

/-- The lanes that divide by zero: those with a true guard whose divisor is zero. -/
def ZeroLanes (a : DivArgs) (s : State) (x : Iss) (bad : Mask) : Prop :=
  ∀ l, bad.getLsbD l = true ↔
    x.on.getLsbD l = true ∧ ∃ u, s.laneThread x.w l = some u ∧ opVal (wdOf a.wide) a.s2 x.v u = 0

/-- A division as a function of the values of its operands. -/
def divided (a : DivArgs) (g : BitVec (wdOf a.wide) → BitVec (wdOf a.wide) → BitVec (wdOf a.wide)) (x : Iss) (_ : Nat)
    (u : Thread) : Thread :=
  putVal _ a.d (g (opVal _ a.s1 x.v u) (opVal _ a.s2 x.v u)) u

theorem divided_keepsIssue (a : DivArgs) (g : BitVec (wdOf a.wide) → BitVec (wdOf a.wide) → BitVec (wdOf a.wide))
    (x : Iss) (l : Nat) : KeepsIssue (divided a g x l) :=
  putVal_keepsIssue (wdOf a.wide) a.d (fun u => g (opVal _ a.s1 x.v u) (opVal _ a.s2 x.v u))

theorem opVal_eq_zero (wide : Bool) (o : Opnd) (v : Wave) (u : Thread) :
    opVal (wdOf wide) o v u = 0 ↔ opNat wide o v u = 0 := by
  rw [← toNat_opVal]
  exact BitVec.toNat_eq

theorem zeroLanes_and_on {a : DivArgs} {s : State} {x : Iss} {bad : Mask} (hbad : ZeroLanes a s x bad) :
    bad &&& x.on = bad := by
  apply BitVec.eq_of_getLsbD_eq
  intro l _
  rw [BitVec.getLsbD_and]
  cases hl : bad.getLsbD l with
  | false => rfl
  | true => exact ((hbad l).mp hl).1

/-- Whether `divBody` finds a zero divisor in lane `l`. -/
def zeroDivisor (a : DivArgs) (s : State) (x : Iss) (l : Nat) : Bool :=
  match s.laneThread x.w l with
  | some u => opNat a.wide a.s2 x.v u == 0
  | none => false

theorem zeroDivisor_iff (a : DivArgs) (s : State) (x : Iss) (l : Nat) :
    zeroDivisor a s x l = true ↔ ∃ u, s.laneThread x.w l = some u ∧ opVal (wdOf a.wide) a.s2 x.v u = 0 := by
  simp only [opVal_eq_zero, zeroDivisor]
  cases s.laneThread x.w l <;> simp

theorem maskOf_zeroDivisor {a : DivArgs} {s : State} {x : Iss} {bad : Mask} (hbad : ZeroLanes a s x bad) :
    maskOf ((lanesOf x.on).filter (zeroDivisor a s x)) = bad := by
  rw [← maskOf_filter x.on bad (zeroLanes_and_on hbad)]
  congr 1
  apply List.filter_congr
  intro l hl
  rw [Bool.eq_iff_iff, zeroDivisor_iff, hbad l, and_iff_right ((mem_lanesOf x.on l).mp hl)]

section
variable {a : DivArgs} {uns : Bool} {f : Nat → Nat → Nat}
  {g : BitVec (wdOf a.wide) → BitVec (wdOf a.wide) → BitVec (wdOf a.wide)}
  (hfg : ∀ p q, BitVec.ofNat _ (f p.toNat q.toNat) = g p q)
include hfg

theorem divBody_eq {s : State} {x : Iss} {bad : Mask} (hbad : ZeroLanes a s x bad) :
    divBody a uns f x s = (s.mapLanes x.w (x.on &&& ~~~bad) (divided a g x)).faultLanes x bad
      (0x040 + 4 * b2n uns + 2 * b2n a.wide + b2n a.rem) := by
  have hlane : divided a g x
      = fun _ u => opPut a.wide a.d (f (opNat a.wide a.s1 x.v u) (opNat a.wide a.s2 x.v u)) u := by
    funext _ u
    rw [divided, ← hfg, toNat_opVal, toNat_opVal, opPut_eq_putVal]
  rw [hlane, ← maskOf_zeroDivisor hbad]
  rfl

variable {i : Instr} (he : ∀ s, exec i s = issue i (divBody a uns f) s)
include he

theorem division_completes {s : State} {x : Iss} (h : Issues i s x)
    (hz : EachActive s x (fun _ u => opVal (wdOf a.wide) a.s2 x.v u ≠ 0)) :
    ∃ t, Gives i s t ∧ LaneResult s t x (divided a g x) := by
  have hnone : ZeroLanes a s x 0 := by
    intro l
    constructor
    · intro hl
      simp at hl
    · rintro ⟨hon, u, hu, h0⟩
      exact absurd h0 (hz.1 l u hon hu)
  have hall : x.on &&& ~~~(0 : Mask) = x.on := BitVec.and_allOnes
  refine ⟨_, (he s).trans (issue_runs h _), ?_⟩
  rw [divBody_eq hfg hnone, faultLanes_zero _ _ (issues_mask_ne_zero h) (issuer_ready h.issuer), hall]
  exact laneWise_result h.issuer (divided a g x)

theorem division_traps {s : State} {x : Iss} {bad : Mask} (h : Issues i s x) (ht : CanTrap x) (hb : bad ≠ 0)
    (hbad : ZeroLanes a s x bad) :
    ∃ t, Gives i s t ∧ Entered (s.mapLanes x.w (x.on &&& ~~~bad) (divided a g x)) t x bad
      (0x040 + 4 * b2n uns + 2 * b2n a.wide + b2n a.rem) := by
  have hissuer : (s.mapLanes x.w (x.on &&& ~~~bad) (divided a g x)).issuer i = some x := by
    rw [issuer_mapLanes s x.w _ (divided_keepsIssue a g x), h.issuer]
  have hmask : bad &&& x.fr.mask = bad := by
    rw [← zeroLanes_and_on hbad, BitVec.and_assoc, issuer_on h.issuer]
  have hbit : ∀ b, b2n b ≤ 1 := by decide
  have hcode : 0x040 + 4 * b2n uns + 2 * b2n a.wide + b2n a.rem < 512 := by
    have := hbit uns
    have := hbit a.wide
    have := hbit a.rem
    omega
  exact ⟨_, (he s).trans (issue_runs h _), divBody_eq hfg hbad ▸ faultLanes_entered hissuer hmask hb ht hcode⟩

end

/-- Settles O11: both divisions share `divBody`, whose lanes with a zero divisor are those `ZeroLanes` names. -/
theorem divisions : Obligations.Divisions := by
  refine ⟨⟨fun a s x h hz => ?_, fun a s x h hz => ?_⟩, fun a s x bad ht hb hbad => ⟨fun h => ?_, fun h => ?_⟩⟩
  · exact division_completes (ofNat_divS a.rem) (fun _ => rfl) h hz
  · exact division_completes (ofNat_divU a.rem) (fun _ => rfl) h hz
  · exact division_traps (ofNat_divS a.rem) (uns := false) (fun _ => rfl) h ht hb hbad
  · exact division_traps (ofNat_divU a.rem) (uns := true) (fun _ => rfl) h ht hb hbad

end Sys2Proof.Machine
end

section
/-!
PROOFS. Extremes and logic (O12), shifts, counts and bit fields (O13).
-/

namespace Sys2Proof.Machine

theorem getLsbD_ofNat_tableNat {w : Nat} (table : Nat) (p q r : BitVec w) {j : Nat} (hj : j < w) :
    (BitVec.ofNat w (tableNat w table p.toNat q.toNat r.toNat)).getLsbD j
      = table.testBit (b2n (p.getLsbD j) + 2 * b2n (q.getLsbD j) + 4 * b2n (r.getLsbD j)) :=
  getLsbD_ofNat_buildNat _ hj

/-- What `LOP3` writes in one lane. -/
def lop3Val (a : A3t) (x : Iss) (u : Thread) : BitVec (wdOf a.wide) :=
  BitVec.ofNat _ (tableNat (wdOf a.wide) a.table.val (opVal (wdOf a.wide) a.s1 x.v u).toNat
    (opVal (wdOf a.wide) a.s2 x.v u).toNat (opVal (wdOf a.wide) a.s3 x.v u).toNat)

theorem lop3_actsAs (a : A3t) : ActsAs (.lop3 a) (fun x _ u => putVal _ a.d (lop3Val a x u) u) :=
  actsAs_of_laneWise (fun _ => rfl) fun x _ u => by
    rw [lop3Val, toNat_opVal, toNat_opVal, toNat_opVal, opPut_eq_putVal]

/-- Settles O12: each function of its `exec` is the operation on bit vectors of the spec; `LOP3` bit by bit. -/
theorem extremesAndLogic : Obligations.ExtremesAndLogic := by
  refine ⟨⟨fun a => ?_, fun a => ?_, fun a => ?_, fun a => ?_, fun a => ?_⟩, fun a => ?_, fun a => ?_, fun a => ?_,
    fun a => ?_, fun a => ?_, fun a => ?_, fun a => ?_, fun a s x h => ?_⟩
  · exact actsAs_lane2 (fun _ => rfl) ofNat_minS
  · exact actsAs_lane2 (fun _ => rfl) ofNat_min_toNat
  · exact actsAs_lane2 (fun _ => rfl) ofNat_maxS
  · exact actsAs_lane2 (fun _ => rfl) ofNat_max_toNat
  · exact actsAs_lane1 (fun _ => rfl) fun p => by rw [sInt_toNat, ofNat_natAbs_toInt]
  · exact actsAs_lane2 (fun _ => rfl) fun p q => ofNat_eq_of_toNat_eq (BitVec.toNat_and p q)
  · exact actsAs_lane2 (fun _ => rfl) fun p q => ofNat_eq_of_toNat_eq (BitVec.toNat_or p q)
  · exact actsAs_lane2 (fun _ => rfl) fun p q => ofNat_eq_of_toNat_eq (BitVec.toNat_xor p q)
  · exact actsAs_lane2 (fun _ => rfl) fun p q => ofNat_eq_of_toNat_eq (by rw [BitVec.toNat_and, BitVec.toNat_not])
  · exact actsAs_laneImm (fun _ => rfl) fun p q => ofNat_eq_of_toNat_eq (BitVec.toNat_and p q)
  · exact actsAs_laneImm (fun _ => rfl) fun p q => ofNat_eq_of_toNat_eq (BitVec.toNat_or p q)
  · exact actsAs_laneImm (fun _ => rfl) fun p q => ofNat_eq_of_toNat_eq (BitVec.toNat_xor p q)
  · obtain ⟨t, ht, hr⟩ := lop3_actsAs a s x h
    exact ⟨t, lop3Val a x, ht, hr, fun u j hj => getLsbD_ofNat_tableNat _ _ _ _ hj⟩

/-- What `BFI` writes in one lane. -/
def bfiVal (a : A3) (x : Iss) (u : Thread) : BitVec (wdOf a.wide) :=
  BitVec.ofNat _ (bfiNat (wdOf a.wide) (opVal (wdOf a.wide) a.s1 x.v u).toNat (opVal (wdOf a.wide) a.s2 x.v u).toNat
    (opRead a.s3 x.v u).toNat)

theorem bfi_actsAs (a : A3) : ActsAs (.bfi a) (fun x _ u => putVal _ a.d (bfiVal a x u) u) :=
  actsAs_of_laneWise (fun _ => rfl) fun x _ u => by
    rw [bfiVal, toNat_opVal, toNat_opVal, opPut_eq_putVal]

theorem getLsbD_ofNat_bfiNat {w : Nat} (p q : BitVec w) (f : Nat) {j : Nat} (hj : j < w) :
    (BitVec.ofNat w (bfiNat w p.toNat q.toNat f)).getLsbD j =
      if fpos w f ≤ j ∧ j < fpos w f + flen w f then q.getLsbD (j - fpos w f) else p.getLsbD j := by
  rw [BitVec.getLsbD_ofNat, testBit_bfiNat, decide_eq_true hj, Bool.true_and]
  rfl

/-- Settles O13: each shift, count and field is the function of its `exec`, read bit by bit or as an integer at the width of the
form; `BFI` bit by bit. -/
theorem shiftsAndBitFields : Obligations.ShiftsAndBitFields := by
  refine ⟨⟨fun a => ?_, fun a => ?_, fun a => ?_, fun a => ?_, fun a => ?_, fun a => ?_, fun a => ?_⟩, fun a => ?_,
    fun a => ?_, fun a => ?_, fun a => ?_, fun a => ?_, fun a s x h => ?_⟩
  · exact actsAs_lane2s (fun _ => rfl) ofNat_shlNat
  · exact actsAs_lane2s (fun _ => rfl) ofNat_shrNat
  · exact actsAs_lane2s (fun _ => rfl) ofNat_sarNat
  · exact actsAs_laneShi (fun _ => rfl) ofNat_shlNat
  · exact actsAs_laneShi (fun _ => rfl) ofNat_shrNat
  · exact actsAs_laneShi (fun _ => rfl) ofNat_sarNat
  · exact actsAs_lane2s (fun _ => rfl) (ofNat_rotlNat (wdOf_pos a.wide))
  · exact actsAs_countLane (fun _ => rfl) fun p => popCount_eq_length _ _
  · exact actsAs_countLane (fun _ => rfl) fun p => clzNat_eq_length _ _
  · exact actsAs_lane1 (fun _ => rfl) ofNat_brevNat
  · exact actsAs_lane2s (fun _ => rfl) fun p f => by rw [bfxuNat_eq]
  · exact actsAs_lane2s (fun _ => rfl) ofNat_bfxsNat
  · obtain ⟨t, ht, hr⟩ := bfi_actsAs a s x h
    exact ⟨t, bfiVal a x, ht, hr, fun u j hj => getLsbD_ofNat_bfiNat _ _ _ hj⟩

end Sys2Proof.Machine
end

section
/-!
PROOFS. Byte permutes, moves, comparisons, selections and predicate tables (O14).
-/

namespace Sys2Proof.Machine

/-- What `PRMT` writes in one lane. -/
def prmtVal (a : B3) (x : Iss) (u : Thread) : W32 :=
  BitVec.ofNat 32 (prmtNat (opRead a.s1 x.v u).toNat (opRead a.s2 x.v u).toNat (opRead a.s3 x.v u).toNat)

theorem prmt_actsAs (a : B3) : ActsAs (.prmt a) (fun x _ u => opWrite a.d (prmtVal a x u) u) :=
  actsAs_of_laneWise (fun _ => rfl) fun _ _ _ => rfl

theorem mapLanes_id (s : State) (w : Nat) (m : Mask) : s.mapLanes w m (fun _ u => u) = s := by
  have hone : onLanes w m (fun _ u => u) = id := by
    funext u
    unfold onLanes
    split
    · exact ite_self u
    · rfl
  have hall : (s.mapLanes w m (fun _ u => u)).threads = s.threads := by
    rw [mapLanes_threads, hone]
    exact List.map_id s.threads
  exact congrArg (fun ts => { s with threads := ts }) hall

theorem nop_actsAs (a : H0) : ActsAs (.nop a) (fun _ _ u => u) := by
  intro s x h
  refine ⟨s.advance x, issue_runs h _, ?_⟩
  have hlanes := laneWise_result h.issuer (fun _ u => u)
  rwa [mapLanes_id] at hlanes

theorem ofNat_onesIf (w : Nat) (r : Bool) : BitVec.ofNat w (onesIf w r) = if r then BitVec.allOnes w else 0 := by
  cases r with
  | true => exact ofNat_eq_of_toNat_eq BitVec.toNat_allOnes
  | false => rfl

/-- A comparison writes all ones or zero, and its truth combined as its form says. -/
theorem cmpLane_eq (a : IcmpArgs) (r : Bool) (u : Thread) :
    cmpLane a r u = (putVal (wdOf a.wide) a.d (if r then BitVec.allOnes _ else 0) u).setPred a.pd
      (combine a.comb r (u.pred a.pm)) := by
  rw [cmpLane, opPut_eq_putVal, ofNat_onesIf]

/-- Settles O14: `PRMT` byte by byte; the others write one value of their operands, and the comparisons their combined truth. -/
theorem movesAndComparisons : Obligations.MovesAndComparisons := by
  refine ⟨fun a s x h => ?_, ⟨nop_actsAs, fun a => ?_, fun a => ?_, fun a => ?_⟩,
    fun a => ?_, fun a => ?_, fun a => ?_, fun a => ?_⟩
  · obtain ⟨t, ht, hr⟩ := prmt_actsAs a s x h
    refine ⟨t, prmtVal a x, ht, hr, fun u j hj => ?_⟩
    exact extractLsb'_prmtNat_words _ _ _ hj
  · exact actsAs_lane1 (fun _ => rfl) fun p => ofNat_eq_of_toNat_eq rfl
  · refine actsAs_of_laneWise (fun _ => rfl) fun x _ u => ?_
    rw [opPut_eq_putVal, ofNat_immNat]
  · exact actsAs_of_laneWise (fun _ => rfl) fun _ _ _ => rfl
  · refine actsAs_of_laneWise (fun _ => rfl) fun x _ u => ?_
    rw [cmpLane_eq, ← toNat_opVal, ← toNat_opVal, sInt_toNat, sInt_toNat]
    rfl
  · refine actsAs_of_laneWise (fun _ => rfl) fun x _ u => ?_
    rw [cmpLane_eq, ← toNat_opVal, ← toNat_opVal]
    rfl
  · refine actsAs_of_laneWise (fun _ => rfl) fun x _ u => ?_
    rw [opPut_eq_putVal, apply_ite (BitVec.ofNat _), ofNat_opNat, ofNat_opNat]
    simp only [bne_iff_ne, Bool.eq_not]
  · exact actsAs_of_laneWise (fun _ => rfl) fun _ _ _ => rfl

end Sys2Proof.Machine
end

section
/-!
PROOFS. Packed formats (O22): the shape of an instruction with a format slot, what `PACK2` and `UNPK2` build, packed halves, byte
dot products and planes.
-/

namespace Sys2Proof.Machine

/-! ### Instructions with a format slot (R242) -/

/-- The effect of an instruction that reads format slot `n`: `f` in each active lane where it accepts the slot's word, else `code`
in all of them. -/
def slotBody (n : Fin 8) (ok : W32 → Bool) (f : W32 → Iss → Nat → Thread → Thread) (code : Nat) (x : Iss) (s : State) :
    State :=
  if ok (s.slotWord x n) then laneWise (f (s.slotWord x n)) x s else s.faultLanes x x.on code

section
variable {i : Instr} {n : Fin 8} {ok : W32 → Bool} {f : W32 → Iss → Nat → Thread → Thread} {code : Nat} {s : State}
  {x : Iss} (he : ∀ s, exec i s = issue i (slotBody n ok f code) s) (h : Issues i s x)
include he h

theorem slotBody_completes (hok : ok (s.slotWord x n) = true) :
    ∃ t, Gives i s t ∧ LaneResult s t x (f (s.slotWord x n) x) := by
  refine ⟨_, (he s).trans (issue_runs h _), ?_⟩
  rw [slotBody, if_pos hok]
  exact laneWise_result h.issuer _

theorem slotBody_traps (ht : CanTrap x) (hok : ok (s.slotWord x n) = false) (hc : code < 512) :
    ∃ t, Gives i s t ∧ Entered s t x x.on code := by
  refine ⟨_, (he s).trans (issue_runs h _), ?_⟩
  rw [slotBody, if_neg (by rw [hok]; exact Bool.false_ne_true)]
  exact faultLanes_entered h.issuer (issuer_on h.issuer) h.lanes ht hc

end

/-! ### Words in parts -/

theorem b2n_le_one : ∀ b : Bool, b2n b ≤ 1 := by decide

theorem b2n_injective : ∀ {b c : Bool}, b2n b = b2n c → b = c := by decide

theorem ofNat_mod_two_pow (w n : Nat) : BitVec.ofNat w (n % 2 ^ w) = BitVec.ofNat w n :=
  ofNat_eq_of_toNat_eq rfl

/-- A number of two parts, the lower of which stays within its bits, as a word. -/
theorem ofNat_add_mul_two_pow {v w lo : Nat} (hi : Nat) (h : lo < 2 ^ w) :
    BitVec.ofNat (v + w) (lo + hi * 2 ^ w) = BitVec.ofNat v hi ++ BitVec.ofNat w lo := by
  refine BitVec.eq_of_toNat_eq ?_
  have hdiv : (lo + hi * 2 ^ w) / 2 ^ w = hi := by
    rw [Nat.add_mul_div_right _ _ (Nat.two_pow_pos w), Nat.div_eq_of_lt h, Nat.zero_add]
  have hmod : (lo + hi * 2 ^ w) % 2 ^ w = lo := by rw [Nat.add_mul_mod_self_right, Nat.mod_eq_of_lt h]
  rw [BitVec.toNat_append, BitVec.toNat_ofNat, BitVec.toNat_ofNat, BitVec.toNat_ofNat, Nat.mod_eq_of_lt h,
    Nat.shiftLeft_eq, Nat.mul_comm (_ % _), ← Nat.two_pow_add_eq_or_of_lt h, Nat.add_comm v, Nat.pow_add, Nat.mod_mul, hdiv,
    hmod, Nat.add_comm]

/-- Each half of a word after its half `h` has been replaced by the low bits of `b`. -/
theorem extractLsb'_bfiNat_half (h k : Bool) (c : W32) (b : Nat) :
    (BitVec.ofNat 32 (bfiNat 32 c.toNat b (16 * b2n h + 16 * 2 ^ 8))).extractLsb' (16 * b2n k) 16
      = if k = h then BitVec.ofNat 16 b else c.extractLsb' (16 * b2n k) 16 := by
  have hpos : fpos 32 (16 * b2n h + 16 * 2 ^ 8) = 16 * b2n h := by cases h <;> rfl
  have hlen : flen 32 (16 * b2n h + 16 * 2 ^ 8) = 16 := by cases h <;> rfl
  have hbit := b2n_le_one k
  apply BitVec.eq_of_getLsbD_eq
  intro j hj
  have hlt : 16 * b2n k + j < 32 := by omega
  rw [BitVec.getLsbD_extractLsb', BitVec.getLsbD_ofNat, testBit_bfiNat, hpos, hlen]
  by_cases hk : k = h
  · subst hk
    rw [if_pos rfl, if_pos (by omega), BitVec.getLsbD_ofNat, Nat.add_sub_cancel_left]
    simp [hj, hlt]
  · have hne : b2n k ≠ b2n h := fun e => hk (b2n_injective e)
    rw [if_neg hk, if_neg (by omega), BitVec.getLsbD_extractLsb', BitVec.testBit_toNat]
    simp [hlt]

/-! ### `PACK2` and `UNPK2` (R242) -/

/-- A conversion as slot word `w` says. -/
def slotConvert (w : W32) (v : Nat) : Nat := convert (slotA w) (slotO w) (rndOf (slotRnd w)) (slotSat w) v

theorem pack2Nat_of_sixteen {w : W32} (hn : slotWidth (slotO w) = 16) (hi : Bool) (a b c : Nat) :
    pack2Nat w hi a b c = slotConvert w b % 2 ^ 16 * 2 ^ 16 + slotConvert w a % 2 ^ 16 := by
  simp only [pack2Nat, hn, if_true, slotConvert]

theorem pack2Nat_of_eight {w : W32} (hn : slotWidth (slotO w) = 8) (hi : Bool) (a b c : Nat) :
    pack2Nat w hi a b c
      = bfiNat 32 c (slotConvert w b % 2 ^ 8 * 2 ^ 8 + slotConvert w a % 2 ^ 8) (16 * b2n hi + 16 * 2 ^ 8) := by
  rw [pack2Nat, if_neg (by rw [hn]; decide), hn]
  rfl

/-- With a 16-bit format `PACK2` writes both halves. -/
theorem toNat_pack2Nat {w : W32} (hn : slotWidth (slotO w) = 16) (hi : Bool) (a b c : Nat) :
    (BitVec.ofNat 32 (pack2Nat w hi a b c)).toNat = slotConvert w a % 2 ^ 16 + 2 ^ 16 * (slotConvert w b % 2 ^ 16) := by
  rw [pack2Nat_of_sixteen hn, BitVec.toNat_ofNat]
  omega

/-- With an 8-bit format `PACK2` writes the half that `.hi` names. -/
theorem toNat_extractLsb'_pack2Nat {w : W32} (hn : slotWidth (slotO w) = 8) (hi : Bool) (a b : Nat) (c : W32) :
    ((BitVec.ofNat 32 (pack2Nat w hi a b c.toNat)).extractLsb' (16 * b2n hi) 16).toNat
      = slotConvert w a % 2 ^ 8 + 2 ^ 8 * (slotConvert w b % 2 ^ 8) := by
  rw [pack2Nat_of_eight hn, extractLsb'_bfiNat_half, if_pos rfl, BitVec.toNat_ofNat]
  omega

/-- With an 8-bit format `PACK2` leaves the other half of S3. -/
theorem extractLsb'_pack2Nat_not {w : W32} (hn : slotWidth (slotO w) = 8) (hi : Bool) (a b : Nat) (c : W32) :
    (BitVec.ofNat 32 (pack2Nat w hi a b c.toNat)).extractLsb' (16 * b2n (!hi)) 16
      = c.extractLsb' (16 * b2n (!hi)) 16 := by
  have hne : (!hi) ≠ hi := by cases hi <;> decide
  rw [pack2Nat_of_eight hn, extractLsb'_bfiNat_half, if_neg hne]

/-- The two elements of `UNPK2` as two words. -/
theorem ofNat_unpk2Nat (w : W32) (hi : Bool) (v : Nat) :
    BitVec.ofNat 64 (unpk2Nat w hi v)
      = BitVec.ofNat 32 (slotConvert w (v / 2 ^ (16 * b2n hi) / 2 ^ slotWidth (slotA w) % 2 ^ slotWidth (slotA w)))
        ++ BitVec.ofNat 32 (slotConvert w (v / 2 ^ (16 * b2n hi) % 2 ^ slotWidth (slotA w))) := by
  rw [unpk2Nat, ofNat_add_mul_two_pow (v := 32) _ (Nat.mod_lt _ (Nat.two_pow_pos 32)), ofNat_mod_two_pow,
    ofNat_mod_two_pow]
  rfl

/-! ### Packed arithmetic (R243) -/

theorem Fmt.two_pow_width (f : Fmt) : 2 ^ f.width = 2 * 2 ^ (f.width - 1) := by cases f <;> rfl

theorem Fmt.nan_lt (f : Fmt) : f.nan < 2 ^ f.width := by cases f <;> decide

theorem Fmt.top_lt (f : Fmt) : f.top < 2 ^ (f.width - 1) := by cases f <;> decide

theorem Fmt.maxCode_lt (f : Fmt) : f.maxCode < 2 ^ (f.width - 1) := by cases f <;> decide

/-- A sign over a code below the sign bit stays within the format. -/
theorem Fmt.signed_lt (f : Fmt) (neg : Bool) {c : Nat} (h : c < 2 ^ (f.width - 1)) :
    b2n neg * 2 ^ (f.width - 1) + c < 2 ^ f.width := by
  have hsign := Nat.mul_le_mul_right (2 ^ (f.width - 1)) (b2n_le_one neg)
  rw [f.two_pow_width]
  omega

/-- Rounding to a format gives a pattern of its width. -/
theorem roundTo_lt (f : Fmt) (mode : Rnd) (sat : Bool) (x : FR) : roundTo f mode sat x < 2 ^ f.width := by
  cases x with
  | nan => exact f.nan_lt
  | inf neg =>
    simp only [roundTo]
    split
    · exact f.signed_lt neg f.maxCode_lt
    · split
      · exact f.nan_lt
      · exact f.signed_lt neg f.top_lt
  | fin neg m e =>
    simp only [roundTo]
    generalize max (e + (Nat.log2 m : Int) - (f.fb : Int)) f.qmin = q
    generalize (if q ≤ e then m * 2 ^ (e - q).toNat else roundMag mode neg m (q - e).toNat) = n
    split
    · exact f.signed_lt neg (Nat.two_pow_pos _)
    · split
      next hfits =>
        rw [Bool.and_eq_true, decide_eq_true_eq, decide_eq_true_eq] at hfits
        exact f.signed_lt neg (Nat.lt_of_le_of_lt hfits.2 f.maxCode_lt)
      next =>
        split
        · exact f.signed_lt neg f.maxCode_lt
        · split
          · split
            · exact f.nan_lt
            · exact f.signed_lt neg f.top_lt
          · exact f.signed_lt neg f.maxCode_lt

theorem width_fmtOfHTy (ty : HTy) : (fmtOfHTy ty).width = 16 := by cases ty <;> rfl

/-- A function whose values fit a half acts on each half of packed words by itself. -/
theorem halves_eq {f : Nat → Nat → Nat → Nat} (hf : ∀ p q r, f p q r < 2 ^ 16) (a b c : W32) :
    halves f a b c = BitVec.ofNat 16 (f (a >>> 16).toNat (b >>> 16).toNat (c >>> 16).toNat)
      ++ BitVec.ofNat 16 (f (a.setWidth 16).toNat (b.setWidth 16).toNat (c.setWidth 16).toNat) := by
  rw [halves, ofNat_add_mul_two_pow (v := 16) _ (hf _ _ _)]
  simp only [BitVec.toNat_ushiftRight, Nat.shiftRight_eq_div_pow, BitVec.toNat_setWidth]

/-- Rounding in a packed format acts on each half by itself. -/
theorem halves_roundTo (ty : HTy) (g : Nat → Nat → Nat → FR) (a b c : W32) :
    halves (fun p q r => roundTo (fmtOfHTy ty) .rne false (g p q r)) a b c
      = BitVec.ofNat 16 (roundTo (fmtOfHTy ty) .rne false (g (a >>> 16).toNat (b >>> 16).toNat (c >>> 16).toNat))
        ++ BitVec.ofNat 16 (roundTo (fmtOfHTy ty) .rne false
          (g (a.setWidth 16).toNat (b.setWidth 16).toNat (c.setWidth 16).toNat)) :=
  halves_eq (fun _ _ _ => width_fmtOfHTy ty ▸ roundTo_lt (fmtOfHTy ty) _ _ _) a b c

/-! ### Byte dot products (R244) -/

theorem ofInt_byteInt (sg : Bool) (v : W32) (i : Nat) :
    BitVec.ofInt 32 (byteInt sg v i)
      = if sg then (v.extractLsb' (8 * i) 8).signExtend 32 else (v.extractLsb' (8 * i) 8).setWidth 32 := by
  have hbits : bits v.toNat (8 * i + 7) (8 * i) = (v.extractLsb' (8 * i) 8).toNat := by
    rw [BitVec.extractLsb'_toNat, Nat.shiftRight_eq_div_pow, bits, show 8 * i + 7 + 1 - 8 * i = 8 by omega]
  rw [byteInt, hbits]
  cases sg with
  | true => exact congrArg (BitVec.ofInt 32) (sInt_toNat _)
  | false => exact (BitVec.ofInt_natCast 32 _).trans (BitVec.ofNat_toNat 32 _)

/-- The sum of `IDP4`: each product of bytes is one of words, modulo 2^32. -/
theorem ofInt_byteProducts (sa sb : Bool) (p q r : W32) :
    BitVec.ofInt 32 ((List.range 4).foldl (fun (n : Int) i => n + byteInt sa p i * byteInt sb q i) (r.toNat : Int))
      = r + BitVec.ofInt 32 (byteInt sa p 0) * BitVec.ofInt 32 (byteInt sb q 0)
        + BitVec.ofInt 32 (byteInt sa p 1) * BitVec.ofInt 32 (byteInt sb q 1)
        + BitVec.ofInt 32 (byteInt sa p 2) * BitVec.ofInt 32 (byteInt sb q 2)
        + BitVec.ofInt 32 (byteInt sa p 3) * BitVec.ofInt 32 (byteInt sb q 3) := by
  have hrange : List.range 4 = [0, 1, 2, 3] := rfl
  simp only [hrange, List.foldl_cons, List.foldl_nil, BitVec.ofInt_add, BitVec.ofInt_mul, BitVec.ofInt_natCast,
    BitVec.ofNat_toNat, BitVec.setWidth_eq]

/-! ### The obligation -/

/-- What `PACK2` writes in one lane, with slot word `w`. -/
def pack2Lane (a : Pack2Args) (w : W32) (x : Iss) (_ : Nat) (u : Thread) : Thread :=
  opWrite a.d (BitVec.ofNat 32 (pack2Nat w a.hi (opRead a.s1 x.v u).toNat (opRead a.s2 x.v u).toNat
    (opRead a.s3 x.v u).toNat)) u

theorem exec_pack2 (a : Pack2Args) (s : State) :
    exec (.pack2 a) s = issue (.pack2 a) (slotBody a.slot (fun w => pack2Ok w a.hi) (pack2Lane a) 0x04B) s := rfl

/-- What `UNPK2` writes in one lane, with slot word `w`. -/
def unpk2Lane (a : Unpk2Args) (w : W32) (x : Iss) (_ : Nat) (u : Thread) : Thread :=
  let v := (opRead a.s1 x.v u).toNat / 2 ^ (16 * b2n a.hi)
  let n := slotWidth (slotA w)
  opWrite64 a.d (BitVec.ofNat 32 (slotConvert w (v / 2 ^ n % 2 ^ n)) ++ BitVec.ofNat 32 (slotConvert w (v % 2 ^ n))) u

theorem exec_unpk2 (a : Unpk2Args) (s : State) :
    exec (.unpk2 a) s = issue (.unpk2 a) (slotBody a.slot (fun w => unpk2Ok w a.hi) (unpk2Lane a) 0x04C) s := by
  have hlane : unpk2Lane a
      = fun w x _ u => opWrite64 a.d (BitVec.ofNat 64 (unpk2Nat w a.hi (opRead a.s1 x.v u).toNat)) u := by
    funext w x _ u
    rw [unpk2Lane, ofNat_unpk2Nat]
  rw [hlane]
  rfl

/-- Settles O22: `PACK2` and `UNPK2` share `slotBody` and build their words from two conversions, part by part; a packed result
is its two rounded halves, since a rounded value fits its format; `IDP4` sums modulo 2^32; planes are as their `exec` says. -/
theorem packedFormats : Obligations.PackedFormats := by
  refine ⟨⟨fun a s x h hok => ?_, fun a s x h hok => ?_, fun a s x ht h hok => ?_, fun a s x ht h hok => ?_⟩,
    fun a => ?_, fun a => ?_, fun a => ?_, fun a => ?_, fun a => ?_,
    fun a => ⟨?_, ?_, fun i v u => ⟨fun hp => ?_, fun o hp => ?_⟩⟩⟩
  · obtain ⟨t, hg, hr⟩ := slotBody_completes (exec_pack2 a) h hok
    refine ⟨t, _, hg, hr, fun u => ⟨fun hn => ?_, fun hn => ?_⟩⟩
    · rw [toNat_pack2Nat hn, hn]
      rfl
    · rw [toNat_extractLsb'_pack2Nat hn, extractLsb'_pack2Nat_not hn, hn]
      exact ⟨rfl, rfl⟩
  · exact slotBody_completes (exec_unpk2 a) h hok
  · exact slotBody_traps (exec_pack2 a) h ht hok (by decide)
  · exact slotBody_traps (exec_unpk2 a) h ht hok (by decide)
  · refine actsAs_of_laneWise (fun _ => rfl) fun x _ u => ?_
    exact congrArg (opWrite a.d · u) (halves_roundTo _ _ _ _ _)
  · refine actsAs_of_laneWise (fun _ => rfl) fun x _ u => ?_
    exact congrArg (opWrite a.d · u) (halves_roundTo _ _ _ _ _)
  · refine actsAs_of_laneWise (fun _ => rfl) fun x _ u => ?_
    exact congrArg (opWrite a.d · u) (halves_roundTo _ _ _ _ _)
  · refine actsAs_of_laneWise (fun _ => rfl) fun x _ u => ?_
    simp only [vec3, ofInt_byteProducts, ofInt_byteInt]
  · exact actsAs_of_laneWise (fun _ => rfl) fun _ _ _ => rfl
  · exact actsAs_of_laneWise (fun _ => rfl) fun _ _ _ => rfl
  · exact actsAs_of_laneWise (fun _ => rfl) fun _ _ _ => rfl
  · rw [derivR, hp]
  · rw [derivR, hp]

end Sys2Proof.Machine
end
